-- ==== Sys2Proof/Word.lean ====
section
/-! DEFINITION. The words of the FJ-1200: bytes, 64-byte scratchpad rows, register words, FP32 codes,
microinstruction words, and the sparse table type that holds numbered things. -/

namespace Sys2Proof

/-- One byte. -/
abbrev Byte := BitVec 8

/-- A 32-bit register word (R407). -/
abbrev Reg := BitVec 32

/-- The bits of an FP32 code (Table 7-2). -/
abbrev F32 := BitVec 32

/-- A 64-byte scratchpad row, byte 0 in bits 7:0 (R83, little-endian by Table 0-6). -/
abbrev Row := BitVec 512

/-- A 64-bit microinstruction word (R109). -/
abbrev MWord := BitVec 64

/-- A 128-bit action entry (Table 3-3). -/
abbrev AWord := BitVec 128

/-- A sparse table: pairs of number and content, numbers strictly rising, and no entry equal to the
content that an unlisted number has (its default). -/
abbrev Table (α : Type) := List (Nat × α)

end Sys2Proof
end

