-- ==== Sys2Proof/Syntax.lean ====
section
/-! DEFINITION. The commands and events of the FJ-1200: one constructor of `Instr` for each row of
spec/opcode_table.json, with its operands. Every row carries the time `t`, in CORE cycles, at which the
command is taken or the event occurs (notes/assumptions/1.md). What the environment decides (data read from
host memory, errors found on reads, measured figures, received samples) is an operand too. -/

namespace Sys2Proof

/-- The masters of Table 12-1 (R268). -/
inductive Master where
  | pcie      -- 0, PCIe host
  | sideband  -- 1, management sideband
  | safety    -- 2, safety port
deriving DecidableEq, Repr

/-- A command as it comes: the way, and its 64-byte entry, byte 0 in bits 7:0 (Table 13-1). -/
structure Hdr where
  /-- the master that issued the command -/
  master : Master
  /-- submission ring of a PCIe command -/
  ring : Nat
  /-- MCTP message tag of a sideband request (R280) -/
  msgTag : Nat
  entry : BitVec 512
deriving DecidableEq, Repr

/-- What a PCIe configuration request asks for (R269, R377, R409): a register of the configuration space by its number of 32-bit
words from the start, a power state, or anything else. -/
inductive ConfigReq where
  | read (word : Nat)
  | power (d3hot : Bool)
  | other
deriving DecidableEq, Repr

/-- Parameters of STREAM_OPEN (Table 13-5). -/
structure OpenParams where
  stream : Nat
  image : Nat
  cls : Nat
  home : Nat
  cq : Nat
  rate : Nat
  deadline : Nat
  stale : Nat
  source : BitVec 32
  sink : BitVec 32
  outBase : Nat
deriving DecidableEq, Repr

/-- Parameters of STREAM_IMPORT (Table 13-4). -/
structure ImportParams where
  stream : Nat
  cls : Nat
  home : Nat
  cq : Nat
  keySlot : Nat
  addr : Nat
  source : BitVec 32
  sink : BitVec 32
  outBase : Nat
  deadline : Nat
  stale : Nat
  ovr : Bool
deriving DecidableEq, Repr

/-- What a scheduled scratchpad read meets in its row (Table 4-3): nothing, a correctable error (with whether the verify
read still finds it), or an uncorrectable error (with whether it hits code word 0). -/
inductive Met where
  | clean
  | corrected (lasting : Bool)
  | uncorrectable (word0 : Bool)
deriving DecidableEq, Repr

/-- An error that a scheduled read of a word or action meets. The read is named by its schedule value, counted from the
issue, its logical cluster and its row. -/
structure EccHit where
  cycle : Nat
  cluster : Nat
  row : Nat
  met : Met
deriving DecidableEq, Repr

/-- What the scheduled reads of a word or action meet; a read that no entry names is clean. -/
abbrev Ecc := List EccHit

/-- A disagreement of a vector lane with its checker, brought about by a hardware fault (R141, R150, R151):
the element it concerns, and whether the residue or the shadow unit found it. -/
inductive LaneUpset where
  | none
  | residue (element : Nat)
  | duplication (element : Nat)
deriving DecidableEq, Repr

/-- What one 36-byte burst of a memory row carries wrong (R225): the number of its bytes in error, and whether it was read
from another address than the one requested. -/
structure HalfRead where
  bytes : Nat := 0
  misplaced : Bool := false
deriving DecidableEq, Repr

/-- A read of a 64-byte memory row: its two halves, each with a code of its own (R225). -/
structure RowRead where
  lower : HalfRead := {}
  upper : HalfRead := {}
deriving DecidableEq, Repr

/-- Reads of memory rows that met an error (R233): the row, counted from 0 over those that the operation reads, its first read,
and its repetition where the first finds an uncorrectable error. A row that no entry names is read clean. -/
abbrev MemReads := List (Nat × RowRead × RowRead)

/-- Repeated writes of rows of a transfer (R235): the row, counted from 0, and how often its write was repeated, 9 for a
write that fails 8 repetitions. -/
abbrev WriteRetries := List (Nat × Nat)

/-- What a test of the Almanac slot gave (R338, R339, R342): its output rows in ascending order, which are none for a row
test; whether a checker of the cluster disagreed during it, a read of it found an uncorrectable error, a pattern of the
row test did not read back; and whether it was held for 4,097 consecutive cycles. -/
structure TestResult where
  rows : List Row
  disagreed : Bool
  uncorrectable : Bool
  rowFailed : Bool
  heldOut : Bool
deriving DecidableEq, Repr

/-- The outcome of the checks of a stored record that a transfer of the Comet engine read (R186): every
block and the record check, or a block fails with a status of Table 9-7, or the source cannot be read. -/
inductive TransferFault where
  | none
  | block (status : Nat)
  | unreadable
deriving DecidableEq, Repr

/-- The data of a host memory read of a command: `none` for a read that completes with an error status or
poisoned data (R295). -/
abbrev HostData := Option (List Byte)

/-- The commands and events of the FJ-1200, one for each row of spec/opcode_table.json, in its order. An operand with a
default has it where nothing is said: no read met an error, no write was repeated, an access is 32 bits wide. -/
inductive Instr where
  | nop (t : Nat) (h : Hdr)
  | deviceQuery (t : Nat) (h : Hdr)
  | claim (t : Nat) (h : Hdr) (role brk : Bool)
  | release (t : Nat) (h : Hdr)
  | grant (t : Nat) (h : Hdr) (target : Nat) (role : Bool)
  | ownerQuery (t : Nat) (h : Hdr)
  | imageLoad (t : Nat) (h : Hdr) (addr len : Nat) (data : HostData) (retries : WriteRetries := [])
  | imageUnload (t : Nat) (h : Hdr) (handle : Nat)
  | imageReload (t : Nat) (h : Hdr) (handle addr len : Nat) (data : HostData) (retries : WriteRetries := [])
  | imageQuery (t : Nat) (h : Hdr) (handle dest : Nat)
  | streamOpen (t : Nat) (h : Hdr) (p : OpenParams) (retries : WriteRetries := [])
  | streamClose (t : Nat) (h : Hdr) (stream : Nat)
  | streamQuery (t : Nat) (h : Hdr) (stream part dest : Nat)
  | streamMark (t : Nat) (h : Hdr) (stream index : Nat)
  | streamExport (t : Nat) (h : Hdr) (stream keySlot : Nat) (move : Bool) (addr len : Nat)
  | streamImport (t : Nat) (h : Hdr) (p : ImportParams) (data : HostData)
  | streamInput (t : Nat) (h : Hdr) (stream first count addr : Nat) (data : HostData)
  | streamMove (t : Nat) (h : Hdr) (stream home : Nat)
  | spillAssign (t : Nat) (h : Hdr) (base size : Nat)
  | disable (t : Nat) (h : Hdr) (type index : Nat) (abort : Bool)
  | enable (t : Nat) (h : Hdr) (type index : Nat)
  | unitReset (t : Nat) (h : Hdr) (type index : Nat) (off : Bool)
  | unitQuery (t : Nat) (h : Hdr) (type index : Nat)
  | powerCapSet (t : Nat) (h : Hdr) (cap : Nat)
  | powerQuery (t : Nat) (h : Hdr)
  | keyLoad (t : Nat) (h : Hdr) (slot kind addr len : Nat) (data : HostData)
  | keyClear (t : Nat) (h : Hdr) (slot : Nat)
  | keyEnrol (t : Nat) (h : Hdr) (addr len : Nat) (data : HostData)
  | attest (t : Nat) (h : Hdr) (nonce : BitVec 128) (dest len : Nat)
  | safeStateRequest (t : Nat) (h : Hdr) (reason : Nat)
  | vigilStatus (t : Nat) (h : Hdr)
  | selfTest (t : Nat) (h : Hdr) (group cluster : Nat)
  | regRead (t : Nat) (h : Hdr) (bar count offset : Nat)
  | regWrite (t : Nat) (h : Hdr) (bar count offset : Nat) (data : List Reg)
  | inject (t : Nat) (h : Hdr) (detector count : Nat)
  | eventMirror (t : Nat) (h : Hdr) (addr : Nat) (enable : Bool)
  | fwWrite (t : Nat) (h : Hdr) (addr len : Nat) (data : HostData)
  | fwActivate (t : Nat) (h : Hdr) (slot : Nat)
  | deviceReset (t : Nat) (h : Hdr)
  | fwQuery (t : Nat) (h : Hdr)
  /-- the wait of the oldest waiting FENCE command of `master` (and, for the PCIe host, of `ring`) ends -/
  | fenceWaitEnd (t : Nat) (master : Master) (ring : Nat)
  | sqTail (t : Nat) (ring tail : Nat)
  | cqHead (t : Nat) (ring head : Nat)
  /-- a PCIe write of `v` to word +0x08 of RING_SQ[ring] (Table 12-6) with EN = 1 -/
  | ringSqEnable (t : Nat) (ring : Nat) (v : Reg)
  | ringSqDisable (t : Nat) (ring : Nat) (v : Reg)
  | ringCqEnable (t : Nat) (ring : Nat) (v : Reg)
  | ringCqDisable (t : Nat) (ring : Nat) (v : Reg)
  | coalesceTimeout (t : Nat) (ring : Nat)
  /-- a write of `v` to PORT_CFG of `port` by `m` -/
  | portCfgWrite (t : Nat) (m : Master) (port : Nat) (v : Reg)
  | rxMaskWrite (t : Nat) (m : Master) (port : Nat) (v : Reg)
  | txMaskWrite (t : Nat) (m : Master) (port : Nat) (v : Reg)
  | membersWrite (t : Nat) (m : Master) (eqx : Nat) (v : Reg)
  | arm (t : Nat) (m : Master) (eqx : Nat)
  | fire (t : Nat) (m : Master) (eqx : Nat)
  | disarm (t : Nat) (m : Master) (eqx : Nat)
  /-- a W1C write of `v` to DEV_INT; `event` are the causes whose events fall in the same CTRL cycle -/
  | devIntClear (t : Nat) (m : Master) (v : Reg) (event : BitVec 12)
  | devIntEnWrite (t : Nat) (m : Master) (v : Reg)
  | msixUnmask (t : Nat) (vector : Nat)
  /-- an access of `size` bytes (R272) -/
  | registerWrite (t : Nat) (m : Master) (bar offset : Nat) (v : Reg) (size : Nat := 4)
  | readClear (t : Nat) (m : Master) (bar offset : Nat) (size : Nat := 4)
  | pairLoRead (t : Nat) (m : Master) (bar offset : Nat) (size : Nat := 4)
  | safetyPortResponse (t : Nat)
  | leaseExpiry (t : Nat)
  | linkDown (t : Nat)
  | linkUp (t : Nat) (speed width : Nat) (flit : Bool)
  | functionLevelReset (t : Nat)
  | perstNLow (t : Nat)
  | perstNHigh (t : Nat)
  | powerUp (t : Nat)
  /-- the standby logic reads the Vigil slots; the operands say whether the stored package of each still
  reads back as written -/
  | vigilImageVerify (t : Nat) (readA readB : Bool)
  /-- the boot ROM reads the firmware slots; the operands as for VIGIL_IMAGE_VERIFY -/
  | firmwareBoot (t : Nat) (readA readB : Bool)
  | groupsLeaveReset (t : Nat)
  /-- `failed`: detectors that did not respond, each with the physical cluster for a per-cluster detector -/
  | startupInjectionEnd (t : Nat) (failed : List (Nat × Nat))
  | abandonRuns (t : Nat)
  | domainReset (t : Nat)
  /-- `decayed`: handles of images whose data did not survive self-refresh -/
  | imageHashCheck (t : Nat) (decayed : List Nat)
  | sStreamReopen (t : Nat)
  | resumption (t : Nat)
  | watchdogExpiry (t : Nat) (core : Nat)
  | autoDegrade (t : Nat)
  | rootLockLoss (t : Nat)
  | rootRelock (t : Nat)
  | refclkLoss (t : Nat)
  | coolantLoss (t : Nat)
  | coolantGlitch (t : Nat)
  | stopClockGate (t : Nat)
  | stopComplete (t : Nat)
  | vin48Loss (t : Nat)
  | vstbyLoss (t : Nat)
  /-- `readings`, in °C: groups 0 to 47, the six memory controller groups, the control complex, the Comet engine -/
  | sensorRead (t : Nat) (readings : List Nat)
  /-- `pm`: measured power in mW; `activity`: what groups 0 to 47 did in the interval, as the counts that R312 lists; `fixed`: the
  estimate of the other branches in mW; `supply`: VIN_48 mV and mA, VSTBY_3V3 mV and mA; `droop`: deepest droop of groups in mV -/
  | powerInterval (t : Nat) (pm : Nat) (activity : List (List Nat)) (fixed : Nat) (supply : List Nat) (droop : List Nat)
  | capUpdate (t : Nat)
  | roundStart (t : Nat) (g : Nat)
  /-- `held`: cycles for which the slot's test was held; `mapReads`: what the reads of the rows that the slot maps out met, in
  the order in which their records were written -/
  | almanacSlotEnd (t : Nat) (g : Nat) (result : TestResult) (held : Nat) (mapReads : List Met := [])
  /-- the notice of the oldest unstamped complete chunk of `stream` arrives -/
  | readinessNotice (t : Nat) (stream : Nat)
  /-- `reads`: the rows of the home whose read met an error -/
  | swapInDone (t : Nat) (g slot : Nat) (fault : TransferFault) (reads : MemReads := []) (retries : WriteRetries := [])
  /-- `reads`: the rows of the committed copy whose read met an error; `acked`: the controller acknowledged the write -/
  | swapOutDone (t : Nat) (g slot : Nat) (reads : List (Nat × Met)) (acked : Bool) (retries : WriteRetries := [])
  | exportBegin (t : Nat) (stream : Nat)
  /-- `copyReads` and `homeReads`: the rows of the committed copy, or of the home, whose read met an error -/
  | exportDone (t : Nat) (stream : Nat) (fault : TransferFault) (copyReads : List (Nat × Met) := [])
      (homeReads : MemReads := []) (retries : WriteRetries := [])
  | moveBegin (t : Nat) (stream : Nat)
  | moveEnd (t : Nat) (stream : Nat)
  | streamClosed (t : Nat) (stream : Nat)
  | unitDisabled (t : Nat) (type index : Nat)
  /-- `discarded`: replies for the unit that came while it was RESETTING (R362) -/
  | unitResetEnd (t : Nat) (type index : Nat) (failed : List (Nat × Nat)) (discarded : Nat := 0)
  | loadSeg (t : Nat) (g : Nat)
  | segmentArrival (t : Nat) (g : Nat) (damaged : Bool)
  | start (t : Nat) (g : Nat)
  | expand (t : Nat) (g : Nat)
  /-- the next block of the running EXPAND; `late`: its stored form is not complete in the input buffer; `reads` is
  what the reads of its stored rows met, counted from 0 over those of the data block and then those of its side block,
  each with its repetition where that has come; a row that no entry names was read clean -/
  | blockDecode (t : Nat) (g : Nat) (late : Bool) (reads : List (Nat × RowRead × Option RowRead))
  | expanderBlockArrival (t : Nat) (g : Nat)
  | fetch (t : Nat) (g : Nat)
  | store (t : Nat) (g : Nat) (ecc : Ecc) (writeRetries : WriteRetries)
  | xfer (t : Nat) (g : Nat) (ecc : Ecc)
  | stateIn (t : Nat) (g : Nat) (ecc : Ecc)
  | stateOut (t : Nat) (g : Nat) (ecc : Ecc)
  | input (t : Nat) (g : Nat)
  | output (t : Nat) (g : Nat) (ecc : Ecc)
  | barrier (t : Nat) (g : Nat)
  | endRun (t : Nat) (g : Nat)
  | gapEnd (t : Nat) (g : Nat)
  | rowDue (t : Nat) (g : Nat)
  /-- stored row `i` of the oldest transfer that still lacks it arrives -/
  | memoryRowArrival (t : Nat) (g : Nat) (i : Nat) (read : RowRead)
  | rereadArrival (t : Nat) (g : Nat) (read : RowRead)
  | storeBufferDrain (t : Nat) (g : Nat)
  | scrubHoldEnd (t : Nat) (g : Nat)
  | holdTimeout (t : Nat) (g : Nat)
  | quiesceEnd (t : Nat) (g : Nat) (retries : WriteRetries := [])
  /-- commit of chunk position `p` of the run in commit lane `lane` -/
  | commitState (t : Nat) (g lane p : Nat)
  | commitOutput (t : Nat) (g lane p : Nat)
  | completionStamp (t : Nat) (g lane p : Nat)
  | controlNop (t : Nat) (g c : Nat)
  | wait (t : Nat) (g c : Nat)
  | loop (t : Nat) (g c : Nat)
  | halt (t : Nat) (g c : Nat)
  | mma (t : Nat) (g c : Nat) (ecc : Ecc)
  | mepi (t : Nat) (g c : Nat) (ecc : Ecc)
  | mfac (t : Nat) (g c : Nat)
  /-- `upset`: verdict 2 to 6 that a hardware fault brings about, or 0 -/
  | epilogueEnd (t : Nat) (g c acc : Nat) (upset : Nat)
  | factorFormationEnd (t : Nat) (g c : Nat) (upset : Bool)
  | seta (t : Nat) (g c : Nat)
  | setb (t : Nat) (g c : Nat)
  | ew (t : Nat) (g c : Nat) (ecc : Ecc) (upset : LaneUpset)
  | cvt (t : Nat) (g c : Nat) (ecc : Ecc) (upset : LaneUpset)
  | red (t : Nat) (g c : Nat) (ecc : Ecc) (upset : LaneUpset)
  | ldlut (t : Nat) (g c : Nat) (ecc : Ecc)
  | scan (t : Nat) (g c : Nat) (ecc : Ecc) (upset : LaneUpset)
  | vectorOperationEnd (t : Nat) (g c : Nat)
  /-- a frame of `port` with the slots' samples as received, most significant bits first in 32 bits; `start` is
  the time of its frame start -/
  | receiveFrame (t : Nat) (port : Nat) (start : Nat) (slots : List (BitVec 32))
  | transmitFrameStart (t : Nat) (port : Nat)
  | paceTick (t : Nat) (port : Nat)
  | rateWindowEnd (t : Nat) (port : Nat)
  | subWindowEnd (t : Nat) (port : Nat)
  | noClock (t : Nat) (port : Nat)
  | equinoxMasterRestart (t : Nat) (eqx : Nat)
  | equinoxTrigger (t : Nat) (eqx : Nat)
  | eqxOffsetWindow (t : Nat) (eqx : Nat)
  /-- `scores`: the score of each detector of the Vigil image, in its order; `processed`: every tap was processed -/
  | hopEnd (t : Nat) (scores : List Nat) (processed : Bool)
  | alertHoldEnd (t : Nat) (line : Nat)
  | vigilSelfCheck (t : Nat) (passed : Bool)
  /-- tap `tap` has received no frame for 4 nominal frame periods -/
  | tapLost (t : Nat) (tap : Nat)
  | refresh (t : Nat) (channel : Nat) (tempC : Nat)
  | channelCalibration (t : Nat) (channel : Nat) (ok : Bool)
  /-- the patrol scrub reads the row at `offset` of the channel, and again where the first read finds an uncorrectable
  error; `other` and `otherAgain` read the second copy of data that the control complex holds twice; `last` ends a complete
  pass -/
  | patrolScrub (t : Nat) (channel offset : Nat) (read : RowRead) (last : Bool) (reread other otherAgain : RowRead := {})
  | injectTimeout (t : Nat) (detector : Nat)
  | importDone (t : Nat) (stream : Nat) (retries : WriteRetries := [])
  | fwWriteDone (t : Nat) (verified : Bool)
  | repairRecordWritten (t : Nat)
  /-- `crcBad`: the transaction's CRC does not match; else it met a busy port -/
  | safetyPortCommandRejected (t : Nat) (crcBad : Bool)
  | memoryWindowRead (t : Nat) (offset : Nat) (read : RowRead) (reread : RowRead := {})
  | configurationRequest (t : Nat) (req : ConfigReq := .other)
  | coolantRestored (t : Nat)
  | refclkReturn (t : Nat)
deriving DecidableEq, Repr

end Sys2Proof
end

