-- ==== Sys2Proof/Decode.lean ====
section
/-! DEFINITION. The commands that a word of the table's bits spells. The table gives no row any bits, so no word
spells a command. -/

namespace Sys2Proof

/-- The command that the `nbits` bits `w` of spec/opcode_table.json spell: the table gives bits to no row. -/
def decodeTableWord (_nbits _w : Nat) : Option Instr := none

end Sys2Proof
end

