-- ==== Sys2Proof/Machine/Entry.lean ====
section
/-! DEFINITION. The 64-byte command entry (R290, Table 13-1): its fixed fields, the parameters of Table 13-4 at their places, and
its reserved bits. -/

namespace Sys2Proof

/-- `n` bits of the entry from bit `pos`. -/
def Hdr.bitsAt (h : Hdr) (pos n : Nat) : Nat := Machine.bits h.entry.toNat pos n

def Hdr.opcode (h : Hdr) : Nat := h.bitsAt 0 16
def Hdr.fence (h : Hdr) : Bool := h.bitsAt 16 1 == 1
def Hdr.tag (h : Hdr) : BitVec 32 := BitVec.ofNat 32 (h.bitsAt 32 32)

end Sys2Proof

namespace Sys2Proof.Machine

/-- A parameter of a command: bit position, width, and the value that the command has it at. -/
structure EntryField where
  pos : Nat
  width : Nat
  value : Nat
deriving DecidableEq, Repr

/-- The parameter of `width` bits from bit 0 of byte `byte`. -/
def param (byte width value : Nat) : EntryField := ⟨8 * byte, width, value⟩

/-- The opcodes of Table 13-4. -/
def listedOpcodes : List Nat :=
  [0x0001, 0x0002, 0x0010, 0x0011, 0x0012, 0x0013, 0x0100, 0x0101, 0x0102, 0x0103, 0x0210, 0x0211, 0x0212, 0x0213, 0x0214
  , 0x0215, 0x0216, 0x0217, 0x0220, 0x0300, 0x0301, 0x0302, 0x0303, 0x0400, 0x0401, 0x0500, 0x0501, 0x0502, 0x0503
  , 0x0600, 0x0601, 0x0602, 0x0700, 0x0701, 0x0702, 0x0703, 0x0800, 0x0801, 0x0802, 0x0803]

/-- Step 1 of R291. -/
def opcodeListed (h : Hdr) : Bool := listedOpcodes.contains h.opcode

/-- The entry spells the command with opcode `op` and these parameters. -/
def spells (h : Hdr) (op : Nat) (fs : List EntryField) : Bool :=
  h.opcode == op && fs.all fun f => h.bitsAt f.pos f.width == f.value

/-- A bit of the entry is 1 that belongs to no field: OPCODE, FENCE, TAG and the parameters are all its fields (R290). -/
def reservedSet (h : Hdr) (fs : List EntryField) : Bool :=
  let all := (⟨0, 16, 0⟩ : EntryField) :: ⟨16, 1, 0⟩ :: ⟨32, 32, 0⟩ :: fs
  h.entry.toNat != all.foldl (fun a f => a + h.bitsAt f.pos f.width * 2 ^ f.pos) 0

/-- The entry of a command. -/
def encodeEntry (op tag : Nat) (fence : Bool) (fs : List EntryField) : BitVec 512 :=
  BitVec.ofNat 512 (fs.foldl (fun a f => a + f.value % 2 ^ f.width * 2 ^ f.pos)
    (op % 2 ^ 16 + 2 ^ 16 * b2n fence + 2 ^ 32 * (tag % 2 ^ 32)))

end Sys2Proof.Machine
end

