-- ==== Sys2Proof/Config.lean ====
section
/-! DEFINITION. What the spec leaves open, as constants without a body: fused secrets, random draws, and free
values. Nothing can prove what they are. Each is named in the assumption log. -/

namespace Sys2Proof.Config

/-- Free values: results that the spec gives to no rule (notes/assumptions/3.md). The machine's counter
`State.free` is applied to it. -/
opaque freeValue : Nat → Nat

/-- The signatures of the device passes 1 to 8 that flash holds (R342), and the CODE of the event log entry for an Almanac
mismatch, to which Table 16-2 gives none (R337; notes/assumptions/57.md). -/
opaque passSignature : Nat → BitVec 32
opaque mismatchCode : Nat

/-- The vendor's root key for firmware and Vigil packages (R375, R376). -/
opaque rootKey : List Byte

/-- DEVICE_ID, 128 bits (R374). -/
opaque deviceId : Nat

/-- The device secret of R374. -/
opaque deviceSecret : List Byte

/-- The private keys derived from it with HKDF-SHA-384 (R391): 0 the identity key, 1 the wrapping key; the spec gives no
salt or info for them (notes/assumptions/13.md). -/
opaque privateKey : List Byte → Nat → Nat

/-- What the body of a Vigil package spells (R329): its tap list (port, slot), the PORT_CFG word of each port, its detectors
(tap, detector class, threshold, whether a tone detector), the lines of its alert map by class, its keyword network, and its
CRC. The spec gives no byte layout of it (notes/assumptions/31.md). -/
opaque vigilTaps : List Byte → List (Nat × Nat)
opaque vigilPortCfg : List Byte → Nat → BitVec 32
opaque vigilDetectors : List Byte → List (Nat × Nat × Nat × Bool)
opaque vigilAlertMap : List Byte → List (Nat × Nat)
opaque vigilNetwork : List Byte → List Byte
opaque vigilCrc : List Byte → BitVec 32

/-- The energies of a group's activities, in nJ, as they are calibrated at production test and held in flash (R312): by kind,
0 to 5 a K-step of modes 0 to 5, 6 a vector beat, 7 a scratchpad row, 8 an expander cycle, 9 a bus cycle, 10 a memory row; and
its leakage in µW by the junction temperature in °C. -/
opaque energy : Nat → Nat
opaque leakage : Nat → Nat

/-- Bytes of a run that no rule gives, the same wherever and whenever the image runs (R4): by the image's digest, what they
belong to (0 the last row of an INPUT, 1 an output), and their place (notes/assumptions/25.md). -/
opaque unstated : List Byte → Nat → Nat → Nat

/-- Random draws: a nonce, a spill key, a signature's nonce, each by a number drawn from `State.free`. -/
opaque random : Nat → Nat

/-- The whole number in which a register reports the quotient of two figures whose rounding the spec does not give
(notes/assumptions/28.md). -/
opaque roundTo : Nat → Nat → Nat

/-- The certificate chain that ATTEST writes (R392). -/
opaque certChain : List Byte

end Sys2Proof.Config
end

