-- ==== Sys2Proof/Machine/State.lean ====
section
/-! DEFINITION. The state of the FJ-1200 as plain data: everything the spec names, the queue of waiting
commands, and the model's own clock and free-value counter. Numbered things (groups, streams, rings, ports,
bytes of memory) stand in sparse tables whose unlisted entries have the reset content given here by the
default values of the structures. -/

namespace Sys2Proof.Machine

/-! ### Life cycle -/

/-- Start-up, reset and stop condition of the device (Tables 17-3, 17-4, 15-8, 14-5). -/
inductive Phase where
  | off           -- before POWER_UP, or supplies lost (R398)
  | powerUp       -- from P to the start of the firmware (Table 17-3)
  | resetPending  -- a device reset or safe-state sequence has started, before its 1 ms entry
  | abandoned     -- runs are abandoned, before the domain reset (1 ms entry)
  | inReset       -- the control, group, memory, Comet and audio data path domains are in reset
  | booted        -- verified firmware runs, groups still in reset
  | injecting     -- groups out of reset, start-up injection in progress (R366)
  | hashing       -- safe state: injection over, images not yet hashed (Table 15-8)
  | reopening     -- safe state: images hashed, S streams not yet reopened
  | resuming      -- safe state: S streams reopened, resumption outstanding
  | ready         -- READY = 1 (Table 19-3)
  | recovery      -- boot ROM recovery (R378)
  | startFail     -- START_FAIL set (R367)
  | stopDeclared  -- stop declared (Table 14-5, cycle 0)
  | stopGated     -- clocks gated (cycle 10)
  | stopped       -- rails down (cycle 90,000)
deriving DecidableEq, Repr

/-- Which start the phases from `resetPending` on belong to. -/
inductive StartKind where
  | powerUp
  | deviceReset
  | safeState
deriving DecidableEq, Repr

/-- Life cycle, clocks and supplies. -/
structure Life where
  phase : Phase := .off
  /-- READY of Table 19-3 -/
  ready : Bool := false
  kind : StartKind := .powerUp
  /-- time of P (R377); the REFCLK count of Table 16-1 and UPTIME run from it -/
  pupAt : Nat := 0
  /-- start of the reset or sequence in progress -/
  seqAt : Nat := 0
  /-- time at which the CTRL counter (R23) reads 0 -/
  ctrlBase : Nat := 0
  /-- supply inputs in range (R397) -/
  vin48 : Bool := false
  vstby : Bool := false
  /-- REFCLK present (R20), and the time at which it was lost last -/
  refclk : Bool := false
  refclkAt : Nat := 0
  /-- the root loop counts as locked, or relocked after a loss (R19) -/
  rootLocked : Bool := false
  /-- VIGIL and AUDIO_SYN run from REFCLK (R19) -/
  onRefclk : Bool := false
  /-- level of COOLANT_OK, and the time since which it has been high or low (R323, R324) -/
  coolantOk : Bool := true
  coolantSince : Nat := 0
  /-- STOP_CAUSE (Table 14-7) -/
  stopCause : Nat := 0
  /-- time of the stop's declaration, and no restart since (R324) -/
  stopAt : Nat := 0
  stopOpen : Bool := false
  /-- device resets since power-up, modulo 256 -/
  epoch : Nat := 0
  /-- watchdogs armed (R369) -/
  armed : Bool := false
  /-- level of PERST_N (R400) -/
  perstN : Bool := true
  /-- VIN_48 mV and mA, VSTBY_3V3 mV and mA over the last power interval (Table 19-6) -/
  supply : List Nat := [0, 0, 0, 0]
deriving DecidableEq, Repr

/-! ### Owner, rings and transports -/

/-- The owner arbiter: its registers (Table 12-9), with the CTRL cycle in which the lease expires, and the CTRL cycle in which
the last command reached it, with that command's master (R284). -/
structure Owner where
  owner : Nat := 3
  role : Bool := false
  expired : Bool := false
  leaseEnd : Nat := 0
  reachedAt : Nat := 0
  reachedBy : Nat := 0
deriving DecidableEq, Repr

/-- RING_SQ (Table 12-6); FETCHED and REFUSED stand in `State.ctr`. -/
structure SqRing where
  base : Nat := 0
  en : Bool := false
  log2 : Nat := 1
  cq : Nat := 0
  error : Bool := false
  head : Nat := 0
  tail : Nat := 0
deriving DecidableEq, Repr

/-- RING_CQ (Table 12-7); DROPPED stands in `State.ctr`. -/
structure CqRing where
  base : Nat := 0
  en : Bool := false
  log2 : Nat := 1
  vector : Nat := 0
  ien : Bool := false
  overflow : Bool := false
  error : Bool := false
  tail : Nat := 0
  phase : Bool := true
  head : Nat := 0
  coalCount : Nat := 0
  coalUs : Nat := 0
  /-- the backlog (R278), oldest first, each entry of 32 bytes with PHASE still 0 or empty where it was dropped, and the place
  of the oldest among the 65,536 that the ring has in the backlog region -/
  backlog : List (List Byte) := []
  heldFrom : Nat := 0
  /-- entries written since the last MSI-X message, and the time of the first of them (R279) -/
  unsignalled : Nat := 0
  firstAt : Nat := 0
deriving DecidableEq, Repr

/-- An MSI-X table entry: message address, message data, and its mask bit. -/
structure MsixEntry where
  addr : Nat := 0
  data : Nat := 0
  masked : Bool := true
deriving DecidableEq, Repr

/-- The host interface outside the rings (Table 12-9, R411). -/
structure Hif where
  linkUp : Bool := false
  /-- the function's power state is D3hot, else D0 (R269) -/
  d3hot : Bool := false
  /-- the submission ring whose turn is next (R277) -/
  nextRing : Nat := 0
  speed : Nat := 0
  width : Nat := 0
  flit : Bool := false
  winPage : Nat := 0
  functionMasked : Bool := false
  msix : Table MsixEntry := []
  /-- pending bits, as the list of pending vectors -/
  pba : List Nat := []
  /-- DEV_INT and DEV_INT_EN (Table 19-4), and the vector of each cause 0 to 11 -/
  devInt : BitVec 12 := 0
  devIntEn : BitVec 12 := 0
  devIntVec : Table Nat := []
  /-- the CTRL cycle of the last messages of DEV_INT causes, and their vectors (R411) -/
  msgAt : Nat := 0
  msgVecs : List Nat := []
deriving DecidableEq, Repr

/-- The objects whose commands complete in the order taken (R296). -/
inductive Obj where
  | stream (n : Nat)
  | image (handle : Nat)
  | unit (type index : Nat)
  | ring (n : Nat)
deriving DecidableEq, Repr

/-- A command taken and not yet completed (R294, R296). `done` holds status and RESULT once the command has
completed but an earlier one on the same object has not. -/
structure Inflight where
  id : Nat
  hdr : Hdr
  /-- HEAD of the submission ring once the entry was fetched (Table 13-2) -/
  sqHead : Nat
  instr : Instr
  /-- the completion ring bound to the submission ring when the entry was fetched -/
  cq : Nat
  objs : List Obj
  /-- the command waits for a state of its stream or unit to end before it acts (R303, R305, R306) -/
  waiting : Bool := false
  done : Option (Nat × List Byte) := none
deriving DecidableEq, Repr

/-- A command with FENCE that waits before it takes effect (R297). -/
structure Fenced where
  instr : Instr
  hdr : Hdr
  id : Nat
  sqHead : Nat
  cq : Nat
deriving DecidableEq, Repr

/-- The safety port (R282): the command executing, the response waiting, and what is recorded for the
response code. -/
structure SafetyPort where
  executing : Option Nat := none
  response : Option (List Byte) := none
  crcError : Bool := false
  refused : Bool := false
deriving DecidableEq, Repr

/-- What leaves the device on an interface that is no memory, in the step that led to the state. -/
inductive Out where
  | regData (m : Master) (bar offset : Nat) (v : Reg)
  | msix (vector : Nat)
  | inBand (cause : Nat)
  /-- an MCTP response with its message tag -/
  | sideband (msgTag : Nat) (entry : List Byte)
  | safetyPort (bytes : List Byte)
  /-- a write into host memory, with its relaxed ordering attribute (R270) -/
  | hostWrite (relaxed : Bool) (addr len : Nat)
  | configRetry
  | configDone (v : Option Reg)
  | window (offset : Nat) (data : Option Reg)
  | frame (port : Nat) (slots : List Int)
  | clockFault (source : Nat)
deriving DecidableEq, Repr

/-! ### Streams and images -/

/-- The classes of Table 2-4. -/
inductive Cls where
  | s
  | c
  | b
deriving DecidableEq, Repr

/-- Stream states (Table 2-2). -/
inductive StrState where
  | closed
  | opened
  | moving
  | closing
  | exporting
deriving DecidableEq, Repr

/-- Where a ready chunk stands. -/
inductive ChunkPos where
  | waiting      -- ready, not placed
  | placed       -- in a planned run that has not started
  | running      -- in a run that has started and has not ended for it, reruns and wide-range runs included
  | committing   -- its run has ended; commit steps outstanding
deriving DecidableEq, Repr

/-- A chunk from its readiness stamp to its completion. -/
structure Chunk where
  seq : Nat
  /-- stream sample index of its first sample -/
  first : Nat
  /-- readiness stamp (R26, R28), signed -/
  stamp : Int
  /-- a pace violation, taken in the B position (R50) -/
  pace : Bool := false
  /-- H, and W of completed swap-ins (R54), in CORE cycles -/
  h : Nat := 0
  w : Nat := 0
  /-- clock of a swap-in request not yet completed -/
  swapReq : Option Int := none
  /-- start of the first round that passed the chunk over -/
  passedOver : Option Int := none
  /-- start of the round in which it was placed last -/
  placedIn : Option Int := none
  pos : ChunkPos := .waiting
  /-- class word it wrote, and whether its delivered result carries SCALE_OUT -/
  classWord : Nat := 0
  scaleOut : Bool := false
deriving DecidableEq, Repr

/-- An export asked for or in progress (R194). -/
structure ExportReq where
  keySlot : Nat
  move : Bool
  addr : Nat
  len : Nat
  cmd : Nat
  begun : Bool := false
deriving DecidableEq, Repr

/-- A home-group move asked for or in progress (R26, R303). -/
structure MoveReq where
  target : Nat
  /-- place of the input ring in the near window of the new group -/
  base : Nat
  cmd : Nat
  begun : Bool := false
deriving DecidableEq, Repr

/-- An import in progress (R196): what the container gave and where the record goes. -/
structure ImportReq where
  params : ImportParams
  cmd : Nat
  record : List Row
  nextSeq : Nat
  nextSample : Nat
  classWord : Nat
  image : Nat
  rate : Nat
  chunkSamples : Nat
  deadline : Nat
  stale : Nat
deriving DecidableEq, Repr

/-- A stream table entry (Table 2-1) with what the device keeps beside it. -/
structure Stream where
  st : StrState := .closed
  cls : Cls := .s
  image : Nat := 0
  home : Nat := 0
  /-- RESIDENT and LOCAL_SLOT -/
  slot : Option Nat := none
  nextSeq : Nat := 0
  nextSample : Nat := 0
  classWord : Nat := 0
  rate : Nat := 0
  chunkSamples : Nat := 0
  deadline : Nat := 0
  stale : Nat := 0
  source : BitVec 32 := 0
  sink : BitVec 32 := 0
  /-- RECORD_ADDR, SPILLED, and the bytes allocated for the home (R179) -/
  recordAddr : Nat := 0
  spilled : Bool := false
  homeSize : Nat := 0
  done : Nat := 0
  late : Nat := 0
  shed : Nat := 0
  maxLate : Nat := 0
  pace : Nat := 0
  /-- completion ring and OUT_BASE of STREAM_OPEN (Table 13-5) -/
  cq : Nat := 0
  outBase : Nat := 0
  /-- T_d, T_s and T_p of R40 -/
  td : Nat := 0
  ts : Nat := 0
  tp : Nat := 0
  /-- the input ring: its offset in the near window of the home group, the stream sample index of its oldest sample, and
  the samples (R251, R301) -/
  inBase : Nat := 0
  inStart : Nat := 0
  samples : List Int := []
  /-- how many of them an Equinox frame 0 lets the next samples replace (R264) -/
  redo : Nat := 0
  /-- accepted reset marks, ascending (R189) -/
  marks : List Nat := []
  /-- chunks stamped ready and not completed, oldest first -/
  chunks : List Chunk := []
  /-- number and first sample of the next chunk to be stamped -/
  stampSeq : Nat := 0
  stampFirst : Nat := 0
  /-- the last readiness stamp with its group (R50) -/
  lastStamp : Option (Nat × Int) := none
  /-- times at which notices held by the block that raises them arrived (R26, R362) -/
  heldNotices : List Nat := []
  /-- times of the ticks that emitted the last samples of complete chunks whose notice is still to come (R251) -/
  filled : List Nat := []
  /-- SEQ of the committed record (Table 8-1) -/
  recSeq : Nat := 0xFFFFFFFF
  /-- S index (R334) -/
  sIndex : Option Nat := none
  /-- the first output of a port SINK has committed (R252) -/
  firstOut : Bool := false
  xport : Option ExportReq := none
  move : Option MoveReq := none
  imp : Option ImportReq := none
deriving DecidableEq, Repr

/-- A slot table entry (Table 4-1). -/
structure SlotDecl where
  firstRow : Nat
  rows : Nat
  producer : Nat
  consumer : Nat
  passes : Nat
deriving DecidableEq, Repr

/-- A supervision descriptor (Table 7-6). -/
structure SupDesc where
  range : F32
  loExp : Int
  hiExp : Int
  en : Bool
  loOff : Bool
deriving DecidableEq, Repr

/-- A variant directory entry with its tables (Table 3-12). -/
structure Variant where
  w : Nat
  slots : List SlotDecl
  sup : List SupDesc
deriving DecidableEq, Repr

/-- An image Almanac entry (Table 15-6) with its state in the rotation (R343). -/
structure AlmEntry where
  segment : Nat
  entry : Nat
  inAddr : Nat
  inRows : Nat
  inFirst : Nat
  outFirst : Nat
  outRows : Nat
  cost : Nat
  sig : BitVec 32
  /-- its segment and its input rows as the Almanac store holds them -/
  segBytes : List Byte := []
  rows : List Row := []
  /-- in the rotation, and its signature has matched once -/
  enabled : Bool := true
  qualified : Bool := false
deriving DecidableEq, Repr

/-- A tensor descriptor (Table 9-5). -/
structure Tensor where
  cls : Nat
  format : Nat
  sparse : Bool
  enc : Bool
  keySlot : Nat
  tagBase : Nat
  rank16 : Nat
  blocks : Nat
  lastCount : Nat
  dataOff : Nat
  indexOff : Nat
  sideOff : Nat
  tableOff : Nat
  tweakHi : Nat
deriving DecidableEq, Repr

/-- A loaded Tuant image: what its header and tables give (Tables 3-1, 3-11, 9-5), its extents and the
variants retired (R75). -/
structure Image where
  loaded : Bool := false
  digest : List Byte := []
  profile : Nat := 0
  variants : Nat := 0
  initClassWord : Nat := 0
  recordRows : Nat := 0
  chunkSamples : Nat := 0
  audioOut : Nat := 0
  outBytes : Nat := 0
  /-- extents in 64-byte units, the offset of the near extent in every near window, the address of the far one -/
  nearExtent : Nat := 0
  farExtent : Nat := 0
  nearBase : Nat := 0
  farBase : Nat := 0
  /-- image-relative offsets, in 64-byte units -/
  actionDir : Nat := 0
  segDir : Nat := 0
  segCount : Nat := 0
  initBody : Nat := 0
  bodyBytes : Nat := 0
  dispatch : List Nat := []
  runcost : List (List Nat) := []
  roundcost : List Nat := []
  pk : List Nat := []
  vars : List Variant := []
  tensors : List Tensor := []
  /-- the state code table: symbols by length 1 to 12 -/
  stateNum : List Nat := []
  stateSym : List Nat := []
  alm : List AlmEntry := []
  /-- pairs of group and variant retired, and the groups in which IMAGE_RELOAD restores them at the next round start -/
  retired : List (Nat × Nat) := []
  restore : List Nat := []
deriving DecidableEq, Repr

/-- An allocated range of a memory region. -/
structure Range where
  base : Nat
  size : Nat
deriving DecidableEq, Repr

/-! ### A group -/

/-- Unit states (Table 13-8). -/
inductive UnitState where
  | enabled
  | draining
  | aborting
  | disabled
  | resetting
  | off
deriving DecidableEq, Repr

/-- Why a unit is held DISABLED until the next device reset (Table 16-11). -/
inductive HeldBy where
  | none
  | exhausted
  | latent
deriving DecidableEq, Repr

/-- A run planned for the round, or a wide-range run that waits (R47, R77, R316). -/
structure Run where
  image : Nat
  variant : Nat
  /-- stream number and chunk sequence number of each chunk position -/
  chunks : List (Nat × Nat)
  wide : Bool := false
  rerun : Bool := false
  /-- status of the failed first attempt of a rerun, and the position whose record check failed in it (R75, R181) -/
  firstStatus : Nat := 0
  firstRecord : Option Nat := none
  /-- length of each of its two peak gaps, 0 for none -/
  gap : Nat := 0
deriving DecidableEq, Repr

/-- The content of a weight position (Table 5-7). FULL reads as set from schedule value `fullAt` on. -/
structure WPos where
  full : Bool := false
  fullAt : Nat := 0
  formed : Bool := false
  codes : List Nat := []
  rs : List Int := []
  g : List Nat := []
  index : List Nat := []
  /-- position is released from this schedule value on -/
  freeAt : Option Nat := none
deriving DecidableEq, Repr

/-- A stream register (Table 6-1). -/
structure SReg where
  base : Nat := 0
  run : Nat := 0
  stride : Nat := 0
  length : Nat := 0
  fmt : Nat := 0
  mreg : Nat := 0
  men : Bool := false
  minv : Bool := false
deriving DecidableEq, Repr

/-- An MMA word in progress (R107, R110, R120): the K-steps still to run. -/
structure MmaOp where
  mode : Nat
  acc : Nat
  sp24 : Bool
  rel : Bool
  epi : Bool
  xu : Bool
  wu : Bool
  wpos : Nat
  xrow : Nat
  srow : Nat
  /-- K-steps of the word, the index of the next, and the schedule value in which it starts -/
  steps : Nat
  next : Nat
  starts : Nat
  ecc : Ecc
  /-- schedule value of the word's issue -/
  issued : Nat := 0
  /-- operand rows of the K-step in progress read so far, and zx as it stood at the step's start (R117) -/
  rows : List Row := []
  zx : Int := 0
deriving DecidableEq, Repr

/-- A MEPI whose rows are being read (R111): the word, its schedule value, and the rows read so far. -/
structure ParamLoad where
  word : MWord
  issued : Nat
  rows : List Row := []
deriving DecidableEq, Repr

/-- A tile queue entry with its header (Table 5-10). -/
structure Tile where
  vals : List (BitVec 32)
  fp : Bool
  verdict : Nat
  nonfinite : Bool
  saturated : Bool
  tileId : Nat
  acc : Nat
  /-- schedule value of its push -/
  pushed : Nat
  /-- schedule value in which a CVT frees it, once one reads it -/
  freed : Option Nat := none
deriving DecidableEq, Repr

/-- A vector operation in progress (R136, R137), with the stream registers latched at its issue. -/
structure VecOp where
  word : MWord
  d : SReg := {}
  a : SReg := {}
  b : SReg := {}
  c : SReg := {}
  e : SReg := {}
  s : SReg := {}
  /-- the flags of a SCAN -/
  f : SReg := {}
  /-- the mask stream, where a mask applies -/
  mask : Option SReg := none
  /-- float mode -/
  float : Bool := false
  /-- rows read in the issue cycle, and the codes of scalars A, B, C and S that they hold -/
  scalarRows : List Row := []
  scalars : List Nat := [0, 0, 0, 0]
  /-- the tile that a CVT with QSRC converts, as the queue's head held it in the first slot -/
  tile : Option Tile := none
  issued : Nat
  /-- c and B of R137 -/
  pace : Nat
  beats : Nat
  /-- the next slot -/
  slot : Nat := 0
  /-- rows read and still to serve beats: source (0 A, 1 B, 2 C, 3 mask, 4 old values of D), row of the stream, content -/
  rows : List (Nat × Nat × Row) := []
  /-- codes of D by beat, until their rows are written, and codes of E by element -/
  results : List (Nat × List Nat) := []
  sums : List (Nat × Nat) := []
  /-- RED: a group's accumulators, an FP32 code in float mode, none while no lane was active -/
  accs : List (Option Int) := []
  /-- SCAN: segment flags, and per channel the carry in and the decayed codes K and inputs of the steps so far -/
  flags : List Bool := []
  carry : List F32 := []
  hist : List (List (Nat × F32)) := []
  ecc : Ecc := []
  upset : LaneUpset := .none
  /-- the beat of a lane fault, whose destination row is not written -/
  faultBeat : Option Nat := none
  /-- the operation has ended and been counted -/
  retired : Bool := false
deriving DecidableEq, Repr

/-- What takes the row that a scheduled read delivers. -/
inductive Sink where
  /-- XFER: row `row` of every cluster of the mask, written in the same cycle -/
  | rows (clmask row : Nat)
  /-- row `i` of the STORE with this number; a row of the outputs of a chunk position; row `i` of the record that the
  STATE_IN or STATE_OUT with this number moves -/
  | store (op i : Nat)
  | output (position : Nat)
  | record (op i : Nat)
  /-- the K-step in progress, the MEPI issued at this schedule value, a scalar or the flags of the vector operation, row
  `j` of source `k` of the vector operation -/
  | operand
  | param (issued : Nat)
  | scalar
  | vector (k j : Nat)
deriving DecidableEq, Repr

/-- What a scheduled access or word brings about in its own cycle. -/
inductive DueKind where
  /-- a scheduled read by a requester (Table 4-2), what it meets, and where its row goes; a scheduled write -/
  | read (req : Nat) (met : Met) (dest : Sink)
  | write (req : Nat) (data : Row)
  /-- row `i` of the FETCH or INPUT with this number is written; block `n` of a spill FETCH starts to be decoded -/
  | row (op i : Nat)
  | spill (op n : Nat)
  /-- the last cycle of the STATE_IN or STATE_OUT with this number: record check, or header row (R181, R182) -/
  | recordEnd (op : Nat)
  /-- two accesses to one bank (R86), a tag or requester fault (R91), errors of a read (Table 4-3) -/
  | conflict
  | tagFault
  | corrected (lasting tagBad : Bool)
  | uncorrectable
  /-- a lane fault (R152): lane, word class, found by duplication, device pass of Table 15-4 -/
  | lane (lane cls : Nat) (dup : Bool) (pass : Nat)
  /-- any other failure with its status -/
  | fail (status : Nat)
  /-- a block failure with its status (R218) -/
  | block (status tensor block : Nat)
  /-- a STORE reads a row into the store buffer (R231) -/
  | storeRow
  /-- the record check of a position's STATE_IN fails (R181) -/
  | record (position : Nat)
  /-- a weight tile starts to be delivered to the clusters of the mask; its last symbol comes at `fullAt` (R214) -/
  | tile (clmask : Nat) (content : WPos)
  /-- a factor block's delivery to the clusters of the mask starts, and its last symbol is delivered (R129, R214) -/
  | factorStart (clmask : Nat)
  | factor (clmask : Nat) (codes : List Nat) (fmul : List Int)
  /-- the next K-step of the cluster's MMA and the arithmetic on its rows, the start of the epilogue of an accumulator, the
  scalars and the next slot of the cluster's vector operation -/
  | kstep
  | kcompute
  | epiStart (acc : Nat)
  | vstart
  | slot
deriving DecidableEq, Repr

/-- A due event with its schedule value, physical cluster, bank and bank row; `injected` when INJECT caused it. -/
structure Due where
  sched : Nat
  kind : DueKind
  phys : Nat := 0
  bank : Nat := 0
  row : Nat := 0
  injected : Bool := false
deriving DecidableEq, Repr

/-- A segment on its way to the microprogram stores (R64, R66). -/
structure SegLoad where
  segment : Nat
  half : Nat
  clmask : Nat
  arrives : Nat
deriving DecidableEq, Repr

/-- A FETCH or INPUT in progress (R230, R231). Stored row `u` of a plain one is its row `u`; those of a spill FETCH are the rows
of its stored blocks (R217). -/
structure Transfer where
  /-- its number among the run's transfers and records -/
  op : Nat
  /-- requester code of its writes (Table 4-2) -/
  req : Nat
  clmask : Nat
  row : Nat
  /-- scratchpad rows that it writes -/
  count : Nat
  issued : Nat
  /-- its first row in the far extent, or its count (Table 10-5) -/
  farFrom : Nat
  /-- tensor and first block of a spill FETCH, each of whose blocks is 65 stored rows -/
  spill : Option (Nat × Nat) := none
  /-- memory addresses of its stored rows, their contents, and for each the number of the STORE whose row it is, counted
  from 1, or 0 where memory held it at the issue (R231) -/
  addrs : List Nat
  data : List Row
  origin : List Nat
  /-- decoded rows of a spill FETCH -/
  decoded : List Row := []
  /-- scratchpad rows written -/
  written : Nat := 0
  /-- stored rows that have arrived -/
  arrived : List Nat := []
  /-- stored rows whose first read was uncorrectable and that are being reread (R233) -/
  rereads : List Nat := []
  /-- a stored row was due and had not come, and HOLD stands for it -/
  late : Bool := false
deriving DecidableEq, Repr

/-- A STORE in progress (R217, R230, R231): its rows are read at their pace and go to memory as they are read, those of a
spill tensor block by block. -/
structure StoreOp where
  op : Nat
  /-- image-relative address, in 64-byte units -/
  addr : Nat
  count : Nat
  /-- tensor and first block of a spill STORE -/
  spill : Option (Nat × Nat) := none
  retries : WriteRetries := []
  /-- rows read and not yet coded -/
  rows : List Row := []
deriving DecidableEq, Repr

/-- A STATE_IN or STATE_OUT in progress (R180 to R182). -/
structure RecordOp where
  op : Nat
  out : Bool
  position : Nat
  stream : Nat
  seq : Nat
  slot : Nat
  copy : Nat
  /-- first working row -/
  first : Nat
  /-- record rows read so far, by row number -/
  rows : Table (Option Row) := []
deriving DecidableEq, Repr

/-- An EXPAND in progress (R214, R215). -/
structure Expand where
  tensor : Nat
  first : Nat
  count : Nat
  factor : Bool
  clmask : Nat
  /-- index of the next block, and schedule value at which its decode starts -/
  next : Nat
  starts : Nat
  /-- the next block's stored form is late and HOLD stands from this cycle on -/
  late : Option Int := none
  /-- codes delivered so far of a factor block -/
  codes : List Nat := []
  fmul : List Int := []
  /-- HOLD stands because the stored form is incomplete, and for rereads of the rows at these memory addresses (R233) -/
  waiting : Bool := false
  rereads : List Nat := []
deriving DecidableEq, Repr

/-- The sources of Table 3-5 that hold a group. -/
inductive HoldSrc where
  | scrub
  | row
  | storeBuffer
  | expander
  | swap (slot : Nat)
  | injected      -- an armed hold timeout (R365) keeps HOLD raised
deriving DecidableEq, Repr

/-- A raised HOLD: its sources, its first cycle on the group clock counter, and how many of its cycles HOLD_CYCLES has
counted. -/
structure Hold where
  srcs : List HoldSrc
  since : Int
  counted : Nat := 0
deriving DecidableEq, Repr

/-- A run in progress. -/
structure RunInfo where
  run : Run
  start : Int
  /-- the action list (Table 3-3) as the directory gave it at the start: address and entries; next entry to issue -/
  listAddr : Nat
  entries : Nat
  next : Nat := 0
  /-- entries issued in the schedule cycle of the last issue, and that value -/
  inCycle : Nat := 0
  lastAt : Nat := 0
  /-- events of this run still to come in their cycles -/
  due : List Due := []
  /-- HOLD cycles raised during the run (R54) -/
  held : Nat := 0
  /-- the shadow units run (R151) -/
  shadow : Bool := false
  segs : List SegLoad := []
  transfers : List Transfer := []
  stores : List StoreOp := []
  records : List RecordOp := []
  /-- number of the next transfer, STORE or record, and the memory rows that STOREs have written with the number of the
  STORE whose row stands there -/
  nextOp : Nat := 0
  wrote : List (Nat × Nat) := []
  expands : List Expand := []
  /-- schedule values in which the decoder is and the spill coder is busy: first, and the one after the last -/
  decoder : List (Nat × Nat) := []
  coder : List (Nat × Nat) := []
  /-- staged outputs by chunk position (R79) -/
  staged : Table (List Byte) := []
  /-- corrected rows of the scrub hold in progress: physical cluster, bank, bank row, lasting; and a tag mismatch
  found on one, which fails the run in the last held cycle (R95) -/
  scrubs : List (Nat × Nat × Nat × Bool) := []
  tagFail : Option Due := none
  /-- first held cycle of the scrub hold in progress -/
  scrubAt : Int := 0
  /-- position of the chunk whose record check failed in STATE_IN (R181) -/
  recordFail : Option Nat := none
  /-- CONFLICTS and TAG_FAULTS have counted this run (Table 4-6) -/
  conflictSeen : Bool := false
  tagSeen : Bool := false
deriving DecidableEq, Repr

/-- A failed run in its quiescing time (R72). -/
structure Quiesce where
  info : RunInfo
  status : Nat
  failedAt : Int
  /-- DISABLE in ABORT mode took effect: no rerun, chunks fail with ST_ABORTED -/
  aborted : Bool := false
  /-- the queues and engines of the clusters have been emptied (R72) -/
  emptied : Bool := false
deriving DecidableEq, Repr

/-- A commit lane (R79): the end cycle of its run, and per chunk position what commits. -/
structure Lane where
  ended : Int
  image : Nat
  variant : Nat
  wide : Bool
  chunks : List (Nat × Nat)
  /-- positions that commit from this run, and how many of the three commit steps each has behind it -/
  commits : List (Nat × Nat)
deriving DecidableEq, Repr

/-- A stream slot (R177, R178). -/
structure Slot where
  stream : Nat := 0
  valid : Bool := false
  pinned : Bool := false
  clean : Bool := false
  committed : Bool := false
  /-- clock of its last commit or swap-in (R185) -/
  lastUse : Int := 0
deriving DecidableEq, Repr

/-- A swap in progress (R184 to R186): a swap-in into `slot`, or the swap-out that frees it. -/
structure Swap where
  slot : Nat
  /-- the stream swapped out, while the swap-out runs -/
  out : Option Nat
  /-- the stream that the slot is for; none for a write-back of R188 or a move -/
  inFor : Option Nat
  second : Bool := false
deriving DecidableEq, Repr

/-- A test set (Table 15-4): the row test of a bank row, or a pass (1 to 8 device, from 9 image passes). -/
inductive TestSet where
  | row (bank bankRow : Nat)
  | pass (n : Nat)
deriving DecidableEq, Repr

/-- The test of an Almanac slot, on a logical cluster. -/
structure AlmTest where
  targeted : Bool
  set : TestSet
  cluster : Nat
deriving DecidableEq, Repr

/-- An entry of the targeted self-test queue (R338, R341), for a physical cluster. -/
structure TestEntry where
  cluster : Nat
  /-- sets still to run, and those that have passed -/
  sets : List TestSet
  ran : List TestSet := []
  /-- an implicating event belongs to the entry -/
  implicated : Bool
  /-- SELF_TEST commands that wait for its verdict -/
  cmds : List Nat := []
deriving DecidableEq, Repr

/-- What a group does once a peak gap ends. -/
structure Gap where
  ends : Int
  /-- the run that a leading gap precedes -/
  before : Option Run
deriving DecidableEq, Repr

/-- A group. Its counters stand in `State.ctr` under their BAR0 offsets. -/
structure Group where
  /-- the group clock counter (R21) reads the time less this -/
  clockBase : Int := 0
  /-- the group is out of reset -/
  running : Bool := false
  unit : UnitState := .enabled
  expUnit : UnitState := .enabled
  heldBy : HeldBy := .none
  /-- schedule counter: the value `schedVal` at the clock `schedClk`, advancing from there unless held -/
  schedVal : Nat := 0
  schedClk : Int := 0
  hold : Option Hold := none
  /-- start of the current round, and whether one has been planned since the group reset -/
  round : Int := 0
  planned : Bool := false
  /-- U at the latest round start, Q and G in force (Table 2-5) -/
  budget : Nat := 4800000
  q : Nat := 100000
  gAllow : Nat := 0
  headroom : Nat := 25
  capacityShort : Bool := false
  /-- overrun and hold deductions already made from U in this round (R49, R342) -/
  deducted : Nat := 0
  /-- the overrun of this round, and the cost of the runs placed in it (R48, R49, R54) -/
  overrun : Nat := 0
  total : Nat := 0
  /-- the round's plan is made and its Almanac slot waits for a run of the previous round (R49) -/
  awaitSlot : Bool := false
  plan : List Run := []
  /-- KAPPA when the plan was made, which fixes its gaps (R316) -/
  planKappa : Nat := 4096
  cur : Option RunInfo := none
  quiesce : Option Quiesce := none
  wideQ : List Run := []
  gap : Option Gap := none
  lanes : Table (Option Lane) := []
  storeBuf : Nat := 0
  slots : Table Slot := []
  swaps : List Swap := []
  swapQ : List Nat := []
  /-- Almanac slot: start, test; visit counter; slots since reset; queue of targeted tests -/
  almStart : Option Int := none
  almTest : Option AlmTest := none
  visit : Nat := 0
  almSlots : Nat := 0
  tests : List TestEntry := []
  /-- logical to physical clusters (R12) -/
  remap : List Nat := List.range 25
  spare : Nat := 25
  clusterOk : BitVec 26 := 0x3FFFFFF
  /-- physical cluster whose retirement is in progress (R359), and whether it exhausts the group (R360) -/
  retiring : Option (Nat × Bool) := none
  /-- out of a reset, until a round start finds its S streams in their slots (R188) -/
  refill : Bool := false
  /-- a UNIT_RESET in progress ends in OFF (R307) -/
  resetToOff : Bool := false
  /-- a UNIT_RESET's own DISABLE is in progress (R306, R307), for the group and for the expander -/
  resetAfter : Bool := false
  expResetAfter : Bool := false
  expResetToOff : Bool := false
  /-- clock in the last cycle before the reset in progress, and the time of that cycle (R362) -/
  resetClock : Int := 0
  resetTime : Nat := 0
  /-- rows whose repair record is written and whose map-out is pending: physical cluster, bank, bank row (R100) -/
  mapouts : List (Nat × Nat × Nat) := []
  /-- rows whose repair record is being written -/
  mapWait : List (Nat × Nat × Nat) := []
  /-- group detectors that failed the last injection (Table 16-11) -/
  latent : Nat := 0
  estimate : Nat := 0
  junction : Nat := 0
deriving DecidableEq, Repr

/-! ### A cluster -/

/-- A scratchpad row as stored: data and tag (R91, R94). -/
structure SRow where
  data : Row := 0
  tag : Nat := 0
  /-- its content was found uncorrectable and has not been written since (R100, R338) -/
  bad : Bool := false
deriving DecidableEq, Repr

/-- Tag state of a buffer slot (R91). -/
structure TagState where
  fill : Nat := 0
  drain : Nat := 0
  pass : Nat := 0
deriving DecidableEq, Repr

/-- A loop in progress (R109): first word of its body, the word after it, passes still to run. -/
structure LoopFrame where
  first : Nat
  last : Nat
  left : Nat
deriving DecidableEq, Repr

/-- An accumulator with its chain (R104, R117, R124, R125). -/
structure Acc where
  opened : Bool := false
  mode : Nat := 0
  xu : Bool := false
  wu : Bool := false
  steps : Nat := 0
  /-- INT32 accumulators P, or FP32 accumulators A, index 32 i + j -/
  p : List Int := []
  a : List F32 := []
  cs : List Int := []
  rs : List Int := []
  sumAB : Int := 0
  sumA : Int := 0
  sumB : Int := 0
  sumCS : Int := 0
  sumRS : Int := 0
  sumP : Int := 0
  tSum : Int := 0
  /-- row sums of the chain's steps for the correction check of I8B4 are in `sumRS` -/
  sR : F32 := 0
  sM : F32 := 0
  saturated : Bool := false
  nonfinite : Bool := false
  /-- schedule values in which the latest epilogue starts and ends, and whether it is over -/
  epi : Option (Nat × Nat) := none
  epiOver : Bool := false
deriving DecidableEq, Repr

/-- An epilogue parameter set (Table 5-6) with the OUT, BIAS and TILE_ID of its MEPI. -/
structure ParamSet where
  loaded : Bool := false
  /-- schedule value of the last of its reads -/
  readyAt : Nat := 0
  out : Bool := false
  bias : Bool := false
  tileId : Nat := 0
  zw : List Nat := []
  zx : Nat := 0
  kc : Int := 0
  sx : F32 := 0
  sw : List F32 := []
  biases : List F32 := []
deriving DecidableEq, Repr

/-- A factor bank (R121). -/
structure FactorBank where
  full : Bool := false
  fullAt : Nat := 0
  codes : List Nat := []
  fmul : List Int := []
deriving DecidableEq, Repr

/-- A factor formation in progress (R121, R122). -/
structure Formation where
  ends : Nat
  dest : Nat
  codes : List Nat
  rs : List Int
  ok : Bool
  ubank : Nat
  vbank : Nat
  urel : Bool
  vrel : Bool
deriving DecidableEq, Repr

/-- A supervision entry of one chunk position (R145). -/
structure SupEntry where
  amax : F32 := 0
  sats : Nat := 0
  vals : Nat := 0
deriving DecidableEq, Repr

/-- A physical cluster. -/
structure Cluster where
  /-- rows by bank × 2,112 + bank row, spare row n of a bank at bank row 2,048 + n -/
  rows : Table (Option SRow) := []
  /-- drawn when a test of the Almanac slot has used the cluster: rows and words that nothing has written since
  hold free values of this number -/
  seed : Option Nat := none
  /-- remap of R98: bank × 2,048 + bank row to a spare row -/
  remap : Table (Option Nat) := []
  tags : Table TagState := []
  /-- microprogram store: half × 1,024 + word -/
  store : Table (Option MWord) := []
  /-- execution: HALT has issued, and the next word and the schedule value in which it issues -/
  haltIssued : Bool := true
  half : Nat := 0
  word : Nat := 0
  loops : List LoopFrame := []
  nextIssue : Nat := 0
  sig : BitVec 32 := 0
  /-- bank accesses claimed by scheduled work: schedule value × 4 + bank -/
  claims : List Nat := []
  /-- matrix engine -/
  acc : Table Acc := []
  params : Table ParamSet := []
  loads : List ParamLoad := []
  wpos : Table WPos := []
  fillPtr : Nat := 0
  mma : Option MmaOp := none
  /-- the last schedule value in which the array works, 0 for none -/
  arrayBusy : Nat := 0
  banks : Table FactorBank := []
  bankPtr : Nat := 0
  formation : Option Formation := none
  queue : List Tile := []
  /-- vector engine -/
  sregs : Table SReg := []
  lut : List F32 := []
  sup : Table SupEntry := []
  vec : Option VecOp := none
deriving DecidableEq, Repr

/-! ### Memory channels, ports, Equinox -/

/-- A memory channel (Table 10-9); its counters stand in `State.ctr`. -/
structure Channel where
  st : Nat := 0
  tempC : Nat := 0
  calFails : Nat := 0
  /-- times of its stored errors within the last second -/
  stored : List Nat := []
  /-- offsets of rows corrected and written back, with the time -/
  corrected : List (Nat × Nat) := []
  /-- offsets of rows recorded as lasting faults, and pages retired -/
  lasting : List Nat := []
  pages : List Nat := []
  /-- rows that a damaged write leaves to be treated as stored errors (R235) -/
  damaged : List Nat := []
  /-- time of the last calibration (R238) -/
  calAt : Nat := 0
deriving DecidableEq, Repr

/-- One frame in a port's receive chain: the slots' x values and the mask it carries (R249, R262). -/
structure Frame where
  slots : List Int
  mask : BitVec 32
deriving DecidableEq, Repr

/-- Phase of the receive underrun sequence (R260). -/
inductive Underrun where
  | none
  | fade
  | silence
deriving DecidableEq, Repr

/-- A slip pending (R257, R258): drop or repeat, frame index chosen, ticks since the choice. -/
structure Slip where
  drop : Bool
  w : Nat
  ticks : Nat
deriving DecidableEq, Repr

/-- Frame start stamps of the measurement window of number `idx` (R253). -/
structure Window where
  idx : Nat := 0
  first : Nat := 0
  last : Nat := 0
  n : Nat := 0
deriving DecidableEq, Repr

/-- A serial audio port (Table 11-7); its counters stand in `State.ctr`. -/
structure Port where
  unit : UnitState := .enabled
  heldBy : HeldBy := .none
  resetToOff : Bool := false
  en : Bool := false
  master : Bool := false
  format : Nat := 0
  delay : Bool := false
  slotBits : Nat := 2
  sampleBits : Nat := 2
  slots : Nat := 1
  rate : Nat := 8
  rampMs : Nat := 4
  /-- the port edge's configuration is read-only because Vigil taps the port (R247) -/
  tapped : Bool := false
  rxMask : BitVec 32 := 0
  txMask : BitVec 32 := 0
  /-- masks latched: at the last frame start, at the one before, and at the last tick (R262) -/
  rxLatched : BitVec 32 := 0
  rxLatchedPrev : BitVec 32 := 0
  txLatched : BitVec 32 := 0
  rateThresh : Nat := 0
  rateFault : Bool := false
  underrun : Underrun := .none
  cfgReject : Bool := false
  codeValid : Bool := false
  code : Nat := 0
  noClock : Bool := false
  rateMhz : Nat := 0
  devPpb : Int := 0
  /-- REF_MHZ, and the family of the previous valid window: none before one, some 0 none, 1 the 48 kHz, 2 the 44.1 kHz family -/
  refMhz : Option Nat := none
  family : Option Nat := none
  int : BitVec 4 := 0
  intEn : BitVec 4 := 0
  driftRx : Int := 0
  driftTx : Int := 0
  eqxRx : Int := 0
  eqxTx : Int := 0
  rxFifo : List Frame := []
  delayLine : List Frame := []
  txFifo : List (List Int) := []
  /-- the last frame emitted in each direction, f[-1] of R258 -/
  lastRx : List Int := []
  lastTx : List Int := []
  slipRx : Option Slip := none
  slipTx : Option Slip := none
  /-- the next tick emits the repeated frame and pulls none (R258) -/
  repeatRx : Option Frame := none
  /-- pace accumulator: the value `paceAcc` at the CTRL count `paceCtrl` -/
  paceAcc : Nat := 0
  paceCtrl : Nat := 0
  window : Window := {}
  windowNext : Window := {}
  subWindow : Window := {}
  subNext : Window := {}
  /-- time of the last frame start, and of EN -/
  lastStart : Nat := 0
  /-- of a master: a frame start from which its frame clock counts (R245) -/
  clock : Option Nat := none
  /-- time from which the data path receives frames: EN, ENABLE, the end of a partial reset, frame 0 of a fire -/
  since : Nat := 0
  /-- masters hold BCLK and FS low after ARM (R263) -/
  clockHeld : Bool := false
  /-- frame 0 of an Equinox fire with this trigger cycle is awaited (R264) -/
  frame0At : Option Nat := none
  /-- the receive chain fills after a frame 0: its silence is not written to the streams (R264) -/
  aligning : Bool := false
deriving DecidableEq, Repr

/-- A port channel (Table 11-9): (port × 32 + slot) × 2 + direction, 0 receive, 1 transmit. -/
structure Chan where
  stream : Nat := 0
  bound : Bool := false
  started : Bool := false
  live : Bool := false
  k : Nat := 0
  m : Nat := 0
  /-- RAMP_MS has changed and has not taken effect for the channel (R259) -/
  newRamp : Bool := false
  /-- pointer x_c of a transmit channel, and the committed samples at or beyond it (R252) -/
  xc : Option Int := none
  present : List (Int × Int) := []
deriving DecidableEq, Repr

/-- An Equinox group (Table 11-8). -/
structure Eqx where
  members : BitVec 16 := 0
  st : Nat := 0
  reject : Bool := false
  trigLo : Reg := 0
  trigHi : Reg := 0
  /-- trigger cycle T on the CTRL counter, and the CTRL cycle of the ARM write -/
  t : Nat := 0
  armedAt : Nat := 0
deriving DecidableEq, Repr

/-! ### Configuration, power, safety, Vigil, repair, boot -/

/-- Writable configuration fields of BAR0 (Tables 2-8, 4-5, 6-8, 8-6, 10-7, 15-13). -/
structure Cfg where
  headroom : Nat := 25
  holdReserve : Nat := 100
  slotRows : Nat := 0
  dupAll : Bool := false
  slotCap : Nat := 256
  nearSize : Nat := 16
  autoSafe : Bool := false
  degradeLimit : Nat := 200
  recoverMs : Nat := 1000
deriving DecidableEq, Repr

/-- Power, thermal and coolant (Tables 14-7, 14-8). -/
structure Power where
  capSet : Nat := 850
  thermalCap : Nat := 850
  l : Nat := 0
  m : Nat := 0
  kappa : Nat := 4096
  /-- P_m in mW and P_a in 1⁄4,096 mW of recent power intervals, newest first, at most 11 -/
  recent : List (Nat × Nat) := []
  /-- numbers, from P on, of the last power interval that ended, of the last one at whose end the cap controller ran,
  and of the last reading of the sensors -/
  intervalNo : Nat := 0
  updateNo : Nat := 0
  sensorNo : Nat := 0
  /-- consecutive disagreeing and agreeing intervals (R313) -/
  disagree : Nat := 0
  agree : Nat := 0
  mismatch : Bool := false
  mismatchActive : Bool := false
  /-- last and last but one sensor readings (R321, R322) -/
  sensors : List Nat := []
  sensorsBefore : List Nat := []
  /-- power intervals since a peak gap was placed; 10 or more clear throttle flag bit 4 -/
  sinceGap : Nat := 10
deriving DecidableEq, Repr

/-- SAFE_S entry (Table 15-16) with its recovery (R335). -/
structure SafeS where
  stream : Nat := 0
  valid : Bool := false
  degraded : Bool := false
  covered : Bool := false
  /-- cause bits 0 to 6 in force, bit 7 RECOVERING -/
  causes : BitVec 8 := 0
  /-- chunks still to commit on time before the recovery interval ends -/
  recoverLeft : Nat := 0
  /-- time since which a condition cause has held without interruption (R336) -/
  condSince : Option Nat := none
deriving DecidableEq, Repr

/-- The safety set frozen at the 1 ms entry (R345, R347): entries of the open S streams with their input
index at the start, images with handle and extents, settings, port masks. -/
structure SafetySet where
  streams : List (Nat × Stream) := []
  /-- stream number and input index at the start -/
  x0 : List (Nat × Nat) := []
  safeS : Table SafeS := []
  /-- DEGRADED_ENTRIES by S index -/
  entries : Table Nat := []
  images : List (Nat × Image) := []
  cfg : Cfg := {}
  /-- port, RX_MASK, TX_MASK, RATE_THRESH, PORT_INT_EN -/
  ports : List (Nat × BitVec 32 × BitVec 32 × Nat × BitVec 4) := []
deriving DecidableEq, Repr

/-- Safety state (Tables 15-13 to 15-16). -/
structure Safety where
  seq : Bool := false
  cause : Nat := 0
  lastCause : Nat := 0
  safeStates : Nat := 0
  notResumed : Nat := 0
  table : Table SafeS := []
  set : Option SafetySet := none
  /-- REFCLK stamps of transient verdicts by group × 26 + physical cluster (R340) -/
  stamps : Table (List Nat) := []
  /-- SAFE_STATE_REQUEST of the owner that awaits its completion at the 1 ms entry -/
  ownerCmd : Option Nat := none
deriving DecidableEq, Repr

/-- A detector of the Vigil image: its tap, its class, the threshold of its score, and whether it is a tone detector or one
of the keyword network's. -/
structure VigilDetector where
  tap : Nat
  cls : Nat
  threshold : Nat
  tone : Bool
deriving DecidableEq, Repr

/-- The Vigil image (R329): taps as port and slot, PORT_CFG words of the tapped ports, detectors, the alert map as pairs of
detector class and line, the keyword network, and the CRC. -/
structure VigilImage where
  taps : List (Nat × Nat) := []
  ports : List (Nat × BitVec 32) := []
  detectors : List VigilDetector := []
  alertMap : List (Nat × Nat) := []
  network : List Byte := []
  crc : BitVec 32 := 0
deriving DecidableEq, Repr

/-- The Vigil island (R329 to R333). -/
structure Vigil where
  running : Bool := false
  imageValid : Bool := false
  selfCheckFail : Bool := false
  heartbeat : Bool := false
  heartbeatOn : Bool := false
  level : BitVec 3 := 0
  /-- a detector mapped to the line decided positive at the last hop end, and the end of the line's 250 ms -/
  positive : BitVec 3 := 0
  holdUntil : Table Nat := []
  alerts : Nat := 0
  tapLost : BitVec 64 := 0
  /-- the time of the last frame that reached a tapped port's edge -/
  lastFrame : Table Nat := []
  /-- frames received at a tapped port, hops of a tap that have been scored, and for each detector whether its score exceeded
  its threshold at its tap's last hop end (R330) -/
  frames : Table Nat := []
  scored : Table Nat := []
  above : List Bool := []
  image : VigilImage := {}
deriving DecidableEq, Repr

/-- An event log entry (Table 16-1). -/
structure LogEntry where
  seq : Nat
  code : Nat
  injected : Bool
  epoch : Nat
  refclk : Nat
  ctrl : Nat
  unit : Nat
  cluster : Nat
  status : Nat
  data : List Byte
  mirrored : Bool
  /-- place of its source in the order of R354, and its cycle on that source's own clock -/
  source : Nat
  cycle : Nat
deriving DecidableEq, Repr

/-- The event log and its mirror (R354, R356). `fresh` holds the entries of the REFCLK cycle in progress, which are numbered
when it is over. -/
structure EvLog where
  fresh : List LogEntry := []
  slots : Table (Option LogEntry) := []
  next : Nat := 0
  mirrorEn : Bool := false
  mirrorBase : Nat := 0
deriving DecidableEq, Repr

/-- A repair record (Tables 16-3, 16-4). -/
structure Record where
  kind : Nat
  origin : Nat
  location : Nat
  powerUps : Nat
  refclk : Nat
  number : Nat
deriving DecidableEq, Repr

/-- What a repair record's completed flash write lets happen (R357). -/
inductive RepairNext where
  | row (g cluster bank row : Nat)
  | cluster (g : Nat)
  | exhausted (g : Nat)
  | other
deriving DecidableEq, Repr

/-- Errors and repair (Tables 16-10, 16-11). -/
structure Repair where
  journal : List Record := []
  /-- records being written, oldest first -/
  writing : List (Record × RepairNext) := []
  powerUps : Nat := 0
  profile1152 : Bool := false
  profilePending : Bool := false
  service : Bool := false
  startFail : Bool := false
  latentFaults : Nat := 0
  firstLatent : Nat := 0
  watchdogExpiries : Nat := 0
deriving DecidableEq, Repr

/-- A detector armed by INJECT (R368). -/
structure Armed where
  left : Nat
  fired : Nat
  cmd : Nat
  since : Nat
deriving DecidableEq, Repr

/-- A firmware package in a slot (Table 17-2). -/
structure FwPkg where
  version : Nat
  svn : Nat
  digest : List Byte
deriving DecidableEq, Repr

/-- A Vigil package in a slot. -/
structure VigilPkg where
  version : Nat
  digest : List Byte
  image : VigilImage
deriving DecidableEq, Repr

/-- A FW_WRITE in progress (R381). -/
structure FwJob where
  vigil : Option VigilPkg
  firmware : Option FwPkg
  slotB : Bool
  cmd : Nat
deriving DecidableEq, Repr

/-- Flash and fuses (Tables 17-1, R374), and the boot status (Table 17-8). -/
structure Boot where
  fwA : Option FwPkg := some ⟨0, 0, List.replicate 32 0⟩
  fwB : Option FwPkg := some ⟨0, 0, List.replicate 32 0⟩
  vigilA : Option VigilPkg := none
  vigilB : Option VigilPkg := none
  /-- running slot: 0 A, 1 B, 3 recovery -/
  running : Nat := 0
  markedB : Bool := false
  trial : Bool := false
  /-- the start in progress is the trial start -/
  trialStart : Bool := false
  vigilSlotB : Bool := false
  vigilPending : Bool := false
  enrolledKey : List Byte := []
  enrolled : Bool := false
  keyHash : List Byte := []
  svnFuse : Nat := 0
  fwWrites : Nat := 0
  job : Option FwJob := none
deriving DecidableEq, Repr

/-- A key slot (R387): none when empty, else its kind (0 model, 1 export) and key. -/
structure KeySlot where
  kind : Nat
  key : List Byte
deriving DecidableEq, Repr

/-- The state of the machine. -/
structure State where
  /-- commands that are waiting, first in first out -/
  pending : List Instr
  /-- the model's clock, in CORE cycles -/
  now : Nat
  /-- the counter that free values are applied to -/
  free : Nat
  outs : List Out
  life : Life
  owner : Owner
  sq : Table SqRing
  cq : Table CqRing
  hif : Hif
  /-- commands taken and not completed, in the order taken, and the number of the next one -/
  inflight : List Inflight
  nextCmd : Nat
  /-- commands with FENCE that wait (R297) -/
  fenced : List Fenced
  safePort : SafetyPort
  /-- latched HI words by master × 2^26 + BAR0 offset of the pair's LO word (R407) -/
  latches : Table Nat
  hostMem : List Host.Cell
  streams : Table Stream
  images : Table Image
  /-- allocated ranges of the near windows (offsets), of the interleaved region and of the spill region -/
  nearAlloc : List Range
  farAlloc : List Range
  spillAlloc : List Range
  spill : Option Range
  groups : Table Group
  /-- clusters by group × 26 + physical cluster -/
  clusters : Table Cluster
  /-- counters of the register tables, each under its BAR0 offset -/
  ctr : Table Nat
  mem : List Host.Cell
  channels : Table Channel
  ports : Table Port
  chans : Table Chan
  eqx : Table Eqx
  cometUnit : UnitState
  cometToOff : Bool
  cometResetAfter : Bool
  cfg : Cfg
  power : Power
  safety : Safety
  vigil : Vigil
  log : EvLog
  repair : Repair
  armed : Table (Option Armed)
  boot : Boot
  keys : Table (Option KeySlot)
  spillKey : List Byte
deriving DecidableEq, Repr

/-- The reasons a step could stop with a fault. No meaning of this model raises one: the spec gives every row
an effect. -/
inductive Fault where
  /-- raised by no meaning; it stands here because the interface asks for a type of faults. Safe. -/
  | unused
deriving DecidableEq, Repr

/-- The reasons a step could be refused. -/
inductive Refusal where
  /-- raised by an arm of `exec` whose row has no meaning yet. Safe: nothing is claimed of such a row. -/
  | notModelled (mnemonic : String)
deriving DecidableEq, Repr

/-- The device before its power-up: nothing powered, every register and table at its reset content, nothing
waiting. How a run comes about from here is said in notes/assumptions/6.md. -/
def State.reset : State where
  pending := []
  now := 0
  free := 0
  outs := []
  life := {}
  owner := {}
  sq := []
  cq := []
  hif := {}
  inflight := []
  nextCmd := 0
  fenced := []
  safePort := {}
  latches := []
  hostMem := []
  streams := []
  images := []
  nearAlloc := []
  farAlloc := []
  spillAlloc := []
  spill := none
  groups := []
  clusters := []
  ctr := []
  mem := []
  channels := []
  ports := []
  chans := []
  eqx := []
  cometUnit := .enabled
  cometToOff := false
  cometResetAfter := false
  cfg := {}
  power := {}
  safety := {}
  vigil := {}
  log := {}
  repair := {}
  armed := []
  boot := {}
  keys := []
  spillKey := []

end Sys2Proof.Machine
end

