-- ==== Sys2Proof/Machine/Table.lean ====
section
/-! DEFINITION. Reading and writing a sparse table. A write keeps the numbers strictly rising and lists no
entry equal to the table's default, so that equal contents are equal data (notes/assumptions/2.md). -/

namespace Sys2Proof.Machine

/-- The content of number `k`, `d` where the table lists none. -/
def tget {α : Type} (d : α) : Table α → Nat → α
  | [], _ => d
  | (j, v) :: r, k => if k < j then d else if k = j then v else tget d r k

/-- The part of a table beyond number `k`. -/
def tdrop {α : Type} (k : Nat) : Table α → Table α
  | [] => []
  | (j, v) :: r => if j ≤ k then tdrop k r else (j, v) :: r

/-- The table with content `v` at number `k`. -/
def tput {α : Type} [DecidableEq α] (d : α) : Table α → Nat → α → Table α
  | [], k, v => if v = d then [] else [(k, v)]
  | (j, w) :: r, k, v =>
    if k < j then (if v = d then (j, w) :: r else (k, v) :: (j, w) :: r)
    else if k = j then (if v = d then tdrop k r else (k, v) :: tdrop k r)
    else (j, w) :: tput d r k v

/-- The canonical form: numbers strictly rising, no entry equal to the default. -/
def tableWf {α : Type} [DecidableEq α] (d : α) : Table α → Bool
  | [] => true
  | [(_, v)] => !decide (v = d)
  | (j, v) :: (k, w) :: r => !decide (v = d) && decide (j < k) && tableWf d ((k, w) :: r)

/-- `f` applied to the content of number `k`. -/
def tmod {α : Type} [DecidableEq α] (d : α) (t : Table α) (k : Nat) (f : α → α) : Table α :=
  tput d t k (f (tget d t k))

end Sys2Proof.Machine
end

