-- ==== Sys2Proof/Machine/Ops.lean ====
section
/-! DEFINITION. The named operations that the meanings share: time and clocks (R17 to R24), the parts of the
state, the counters of the register tables, host memory, and the LPDDR6 address map (R226). -/

namespace Sys2Proof.Machine

/-! ### Time -/

/-- The clock stands at time `t`: it never runs backwards (notes/assumptions/1.md). -/
def State.tick (s : State) (t : Nat) : State := { s with now := max s.now t }

/-- The control domain is out of reset (R408, Table 1-4). -/
def State.controlUp (s : State) : Bool :=
  match s.life.phase with
  | .off | .powerUp | .inReset | .stopGated | .stopped => false
  | _ => true

/-- A stop is in progress or complete (R323). -/
def State.isStopped (s : State) : Bool :=
  s.life.phase == .stopDeclared || s.life.phase == .stopGated || s.life.phase == .stopped

/-- The firmware runs: after the boot entry of Table 17-3 or 17-4, and before the domain reset. -/
def State.firmwareUp (s : State) : Bool :=
  match s.life.phase with
  | .booted | .injecting | .hashing | .reopening | .resuming | .ready | .resetPending | .abandoned
  | .startFail => s.boot.running != 3
  | _ => false

/-- The boot ROM's recovery serves the PCIe host (R378). -/
def State.romRuns (s : State) : Bool :=
  match s.life.phase with
  | .recovery => true
  | .resetPending | .abandoned => s.boot.running == 3
  | _ => false

/-- The standby domain is up: it runs before P and after a loss of VIN_48 too (R377, R398). -/
def State.standbyUp (s : State) : Bool := s.life.vstby

/-- REFCLK cycles since P (R17: 100 MHz, 25 CORE cycles); none is counted while REFCLK is absent. -/
def State.refclk (s : State) : Nat := ((if s.life.refclk then s.now else s.life.refclkAt) - s.life.pupAt) / 25

/-- The control complex counter (R23), 4 CORE cycles a count (R18). A stop gates its clock in REFCLK cycle 10 (Table 14-5),
and it stands from then on; it reads 0 while the control domain is in reset (Table 16-1). -/
def State.ctrl (s : State) : Nat :=
  if s.life.phase = .stopGated then (s.life.stopAt + 250 - s.life.ctrlBase) / 4
  else if s.controlUp then (s.now - s.life.ctrlBase) / 4 else 0

/-- The first CTRL cycle that begins at time `t` or later and after everything that has taken place. Register accesses and
commands take place there, before the events of that cycle: a read gives the value before them, a bit that they set ends
set, and the arbiter takes one command a cycle (R7, R284; notes/assumptions/59.md). -/
def State.ctrlStart (s : State) (t : Nat) : Nat :=
  s.life.ctrlBase + 4 * ceilDiv (max t (s.now + 1) - s.life.ctrlBase) 4

/-- CORE cycles in a microsecond and in a millisecond (Table 1-6). -/
def usCycles : Nat := 2500
def msCycles : Nat := 2500000

/-- A CORE-cycle difference in whole microseconds, rounded up (R24). -/
def toUs (d : Int) : Nat := ceilDiv d.toNat 2500

/-- A round (R22) and the Almanac reservation (R42). -/
def roundCycles : Nat := 5000000
def almanacCycles : Nat := 100000

/-! ### Parts of the state -/

def State.grp (s : State) (g : Nat) : Group := tget {} s.groups g
def State.setGrp (s : State) (g : Nat) (v : Group) : State := { s with groups := tput {} s.groups g v }
def State.modGrp (s : State) (g : Nat) (f : Group → Group) : State := s.setGrp g (f (s.grp g))

/-- Cluster `p` (physical) of group `g`. -/
def State.clu (s : State) (g p : Nat) : Cluster := tget {} s.clusters (g * 26 + p)
def State.setClu (s : State) (g p : Nat) (v : Cluster) : State :=
  { s with clusters := tput {} s.clusters (g * 26 + p) v }
def State.modClu (s : State) (g p : Nat) (f : Cluster → Cluster) : State := s.setClu g p (f (s.clu g p))

/-- The physical cluster that serves logical cluster `c` (R12). -/
def Group.phys (G : Group) (c : Nat) : Nat := G.remap.getD c 26

/-- Active logical clusters of the profile (R361). -/
def State.clusterCount (s : State) : Nat := if s.repair.profile1152 then 24 else 25

def State.str (s : State) (n : Nat) : Stream := tget {} s.streams n
def State.setStr (s : State) (n : Nat) (v : Stream) : State := { s with streams := tput {} s.streams n v }
def State.modStr (s : State) (n : Nat) (f : Stream → Stream) : State := s.setStr n (f (s.str n))

def State.img (s : State) (h : Nat) : Image := tget {} s.images h
def State.setImg (s : State) (h : Nat) (v : Image) : State := { s with images := tput {} s.images h v }

def State.sqr (s : State) (n : Nat) : SqRing := tget {} s.sq n
def State.setSq (s : State) (n : Nat) (v : SqRing) : State := { s with sq := tput {} s.sq n v }
def State.cqr (s : State) (n : Nat) : CqRing := tget {} s.cq n
def State.setCq (s : State) (n : Nat) (v : CqRing) : State := { s with cq := tput {} s.cq n v }

def State.prt (s : State) (p : Nat) : Port := tget {} s.ports p
def State.setPrt (s : State) (p : Nat) (v : Port) : State := { s with ports := tput {} s.ports p v }
def State.modPrt (s : State) (p : Nat) (f : Port → Port) : State := s.setPrt p (f (s.prt p))

/-- Channel of port `p`, slot `k`, direction `d` (0 receive, 1 transmit). -/
def chanKey (p k d : Nat) : Nat := (p * 32 + k) * 2 + d
def State.chn (s : State) (p k d : Nat) : Chan := tget {} s.chans (chanKey p k d)
def State.setChn (s : State) (p k d : Nat) (v : Chan) : State :=
  { s with chans := tput {} s.chans (chanKey p k d) v }

def State.eqxOf (s : State) (e : Nat) : Eqx := tget {} s.eqx e
def State.setEqx (s : State) (e : Nat) (v : Eqx) : State := { s with eqx := tput {} s.eqx e v }

def State.memCh (s : State) (c : Nat) : Channel := tget {} s.channels c
def State.setMemCh (s : State) (c : Nat) (v : Channel) : State := { s with channels := tput {} s.channels c v }

def State.keyAt (s : State) (n : Nat) : Option KeySlot := tget none s.keys n

def State.safeS (s : State) (n : Nat) : SafeS := tget {} s.safety.table n
def State.setSafeS (s : State) (n : Nat) (v : SafeS) : State :=
  { s with safety := { s.safety with table := tput {} s.safety.table n v } }

/-- The next free value, and the state with it drawn (notes/assumptions/3.md). -/
def State.drawFree (s : State) : Nat × State := (Config.freeValue (2 * s.free), { s with free := s.free + 1 })

/-- The `i`th of the free values of the drawn number `k`. -/
def freeOf (k i : Nat) : Nat := Config.freeValue (2 * (65536 * k + i) + 1)
def State.drawRandom (s : State) : Nat × State := (Config.random s.free, { s with free := s.free + 1 })

/-! ### Counters -/

/-- The counter at BAR0 offset `o`. -/
def State.ctrAt (s : State) (o : Nat) : Nat := tget 0 s.ctr o
def State.setCtr (s : State) (o v : Nat) : State := { s with ctr := tput 0 s.ctr o v }

/-- A saturating counter `n` up (R36, R57, R82, R103, R289). -/
def State.count (s : State) (o n : Nat) : State := s.setCtr o (min 0xFFFFFFFF (s.ctrAt o + n))

/-- A 64-bit device counter 1 up (R414). -/
def State.count64 (s : State) (o : Nat) : State := s.setCtr o ((s.ctrAt o + 1) % 2 ^ 64)

/-- A counter that keeps the greatest value. -/
def State.countMax (s : State) (o v : Nat) : State := s.setCtr o (max (s.ctrAt o) (min 0xFFFFFFFF v))

/-- BAR0 offsets of the group blocks of Table 19-1. -/
def grpSvc (g : Nat) : Nat := 0x201000 + g * 0x40
def grpSeq (g : Nat) : Nat := 0x210000 + g * 0x40
def grpSpad (g : Nat) : Nat := 0x220000 + g * 0x40
def grpMtx (g : Nat) : Nat := 0x230000 + g * 0x40
def grpVec (g : Nat) : Nat := 0x240000 + g * 0x40
def grpScl (g : Nat) : Nat := 0x250000 + g * 0x40
def grpState (g : Nat) : Nat := 0x260000 + g * 0x40
def grpExp (g : Nat) : Nat := 0x270000 + g * 0x40
def memChReg (c : Nat) : Nat := 0x280000 + c * 0x40
def apPort (p : Nat) : Nat := 0x290000 + p * 0x80
def apCh (p k d : Nat) : Nat := 0x291000 + chanKey p k d * 0x10
def ringSq (n : Nat) : Nat := 0x2A0000 + n * 0x20
def ringCq (n : Nat) : Nat := 0x2A1000 + n * 0x20
def grpPwr (g : Nat) : Nat := 0x2B0000 + g * 0x40
def grpSafe (g : Nat) : Nat := 0x2C0000 + g * 0x40
def safeSReg (n : Nat) : Nat := 0x2C1000 + n * 8
def grpRepair (g : Nat) : Nat := 0x2D0000 + g * 0x40
def devCnt : Nat := 0x20100

/-! ### A group's clocks -/

/-- The group clock counter (R21). -/
def State.clk (s : State) (g : Nat) : Int := (s.now : Int) - (s.grp g).clockBase

/-- The schedule counter (R21): it stands from the first held cycle on. -/
def Group.sched (G : Group) (clk : Int) : Nat :=
  let upTo := match G.hold with
    | some h => min clk h.since
    | none => clk
  G.schedVal + (upTo - G.schedClk).toNat

def State.schedNow (s : State) (g : Nat) : Nat := (s.grp g).sched (s.clk g)

/-- The groups are out of reset and work: after start-up, and until a reset's runs are abandoned or a stop begins. -/
def State.groupsWork (s : State) : Bool :=
  match s.life.phase with
  | .hashing | .reopening | .resuming | .ready | .resetPending | .startFail => true
  | _ => false

/-- Group `g` works. -/
def State.groupUp (s : State) (g : Nat) : Bool := (s.grp g).running && s.groupsWork

/-- HOLD is raised in the cycle `clk` (Table 3-5). -/
def Group.isHeld (G : Group) (clk : Int) : Bool :=
  match G.hold with
  | some h => decide (h.since ≤ clk)
  | none => false

/-! ### Host memory and LPDDR6 -/

/-- Bytes written one by one from address `a`. -/
def writeCells : List Host.Cell → Nat → List Byte → List Host.Cell
  | m, _, [] => m
  | m, a, b :: r => writeCells (tput 0 m a b) (a + 1) r

/-- `n` bytes read from address `a`. -/
def readCells (m : List Host.Cell) (a n : Nat) : List Byte := (List.range n).map fun i => tget 0 m (a + i)

/-- The canonical form of a memory: addresses strictly rising, no byte listed that an unlisted one equals. -/
def Memory.wf (m : List Host.Cell) : Bool := tableWf (0 : Byte) m

/-- A write into host memory over PCIe with its relaxed ordering attribute (R270); without a link it is lost
(notes/assumptions/9.md). -/
def State.hostWriteAs (s : State) (relaxed : Bool) (a : Nat) (l : List Byte) : State :=
  if s.hif.linkUp then
    { s with hostMem := writeCells s.hostMem a l, outs := s.outs ++ [.hostWrite relaxed a l.length] }
  else s

/-- A write in order: completion entries, messages, and all data but output and containers. -/
def State.hostWrite (s : State) (a : Nat) (l : List Byte) : State := s.hostWriteAs false a l

/-- A write of output data or of a state container. -/
def State.hostWriteRelaxed (s : State) (a : Nat) (l : List Byte) : State := s.hostWriteAs true a l

/-- The near size of each channel in bytes (R226). -/
def State.nearBytes (s : State) : Nat := 2 ^ 28 * s.cfg.nearSize

/-- Data bytes of a channel. -/
def chanBytes : Nat := 9 * 2 ^ 30

/-- The channels that are not retired, ascending, and those that are (R226, R240). -/
def State.active (s : State) : List Nat := (List.range 48).filter fun c => (s.memCh c).st != 2
def State.retiredChs (s : State) : List Nat := (List.range 48).filter fun c => (s.memCh c).st == 2

/-- S, the size of the interleaved index space. -/
def State.ilSize (s : State) : Nat := s.active.length * (chanBytes - s.nearBytes)

/-- The channel and channel offset of interleaved index `i` below the index space's end. -/
def State.ilResolve (s : State) (i : Nat) : Option (Nat × Nat) :=
  let act := s.active
  let m := act.length
  if m = 0 ∨ s.ilSize ≤ i then none
  else
    let st := i / 4096
    some (act.getD (st % m) 0, s.nearBytes + 4096 * (st / m) + i % 4096)

/-- The channel and channel offset at which memory address `a` lies (R226). -/
def State.resolve (s : State) (a : Nat) : Option (Nat × Nat) :=
  let n := s.nearBytes
  let ret := s.retiredChs
  if a < 48 * n then
    let g := a / n
    if (s.memCh g).st != 2 then some (g, a % n)
    else
      let j := (ret.takeWhile (· < g)).length
      if (ret.length - j) * n ≤ s.ilSize + a % n then s.ilResolve (s.ilSize + a % n - (ret.length - j) * n) else none
  else
    let i := a - 48 * n
    if i < s.ilSize - ret.length * n then s.ilResolve i else none

/-- The index in the interleaved region of a channel offset beyond the near size. -/
def State.ilIndex (s : State) (c off : Nat) : Nat :=
  let k := ((s.active).takeWhile (· != c)).length
  4096 * ((off - s.nearBytes) / 4096 * s.active.length + k) + off % 4096

/-- The memory address that lies at a channel offset (R226), in the near window of a retired channel too. -/
def State.addrOf (s : State) (c off : Nat) : Nat :=
  let n := s.nearBytes
  if off < n then c * n + off
  else
    let i := s.ilIndex c off
    let ret := s.retiredChs
    let relocated := s.ilSize - ret.length * n
    if i < relocated then 48 * n + i else ret.getD ((i - relocated) / n) 0 * n + (i - relocated) % n

/-- The place of a channel offset in `State.mem`. -/
def cellKey (c off : Nat) : Nat := chanBytes * c + off

/-- `n` bytes at memory address `a`; bytes at no address read 0. Each row lies on one channel, as a stripe is
4 KiB. -/
def State.memRead (s : State) (a n : Nat) : List Byte :=
  (List.range n).map fun i =>
    match s.resolve (a + i) with
    | some (c, o) => tget 0 s.mem (cellKey c o)
    | none => 0

/-- A byte written at memory address `a`; one at no address is lost. -/
def State.memPutByte (s : State) (a : Nat) (b : Byte) : State :=
  match s.resolve a with
  | some (c, o) => { s with mem := tput 0 s.mem (cellKey c o) b }
  | none => s

/-- Bytes written from memory address `a`. -/
def State.memWrite : State → Nat → List Byte → State
  | s, _, [] => s
  | s, a, b :: r => (s.memPutByte a b).memWrite (a + 1) r

/-- A 64-byte row as bytes, and back (R83, Table 0-6). -/
def rowBytes (r : Row) : List Byte := leBytes 64 r.toNat
def bytesRow (l : List Byte) : Row := BitVec.ofNat 512 (leNat (l.take 64))

def State.memRow (s : State) (a : Nat) : Row := bytesRow (s.memRead a 64)
def State.memPutRow (s : State) (a : Nat) (r : Row) : State := s.memWrite a (rowBytes r)

/-- The start of the interleaved region, and of its part that the control complex leaves free (R227). -/
def State.ilBase (s : State) : Nat := 48 * s.nearBytes
def reservedBytes : Nat := 384 * 2 ^ 20

/-! ### Allocation (notes/assumptions/8.md: lowest address that fits, 64-byte aligned) -/

/-- The lowest start at or above `a` at which `size` bytes meet none of the ranges, with fuel. -/
def firstFit : Nat → List Range → Nat → Nat → Nat
  | 0, _, _, a => a
  | f + 1, rs, size, a =>
    match rs.find? fun r => decide (a < r.base + r.size ∧ r.base < a + size) with
    | some r => firstFit f rs size (ceilDiv (r.base + r.size) 64 * 64)
    | none => a

/-- The ranges with `size` bytes at the lowest free place between `lo` and `hi`. -/
def allocate (rs : List Range) (lo hi size : Nat) : Option (Nat × List Range) :=
  if size = 0 then some (lo, rs)
  else
    let a := firstFit (rs.length + 1) rs size lo
    if a + size ≤ hi then some (a, rs ++ [⟨a, size⟩]) else none

/-- The ranges without the one that starts at `base` with `size`. -/
def freeRange (rs : List Range) (base size : Nat) : List Range :=
  rs.filter fun r => !(decide (r.base = base) && decide (r.size = size))

/-- Retired pages as ranges of interleaved addresses or near offsets are excluded from allocation (R236). -/
def State.retiredPageCount (s : State) : Nat := sumOf ((List.range 48).map fun c => (s.memCh c).pages.length)

/-- CAPACITY_MIB (R227). -/
def State.capacityMib (s : State) : Nat := 9216 * s.active.length - 384 - s.retiredPageCount / 256

end Sys2Proof.Machine
end

