-- ==== Sys2Proof/Machine/Flags.lean ====
section
/-! DEFINITION. The status that the device raises beside its data: device interrupts and MSI-X messages (R279,
R411, R412), in-band interrupts (R281), and the event log with its mirror (R354 to R356). -/

namespace Sys2Proof.Machine

/-- Something leaves the device. -/
def State.emit (s : State) (o : Out) : State := { s with outs := s.outs ++ [o] }

/-! ### MSI-X -/

def State.msixEntry (s : State) (v : Nat) : MsixEntry := tget {} s.hif.msix v

/-- A message on vector `v`: with its vector or the function masked it sets the pending bit (R411). -/
def State.sendMsi (s : State) (v : Nat) : State :=
  let e := s.msixEntry v
  if s.hif.functionMasked || e.masked then
    if s.hif.pba.contains v then s else { s with hif := { s.hif with pba := s.hif.pba ++ [v] } }
  else if s.hif.linkUp then (s.emit (.msix v)).hostWrite e.addr (leBytes 4 e.data)
  else s

/-- Messages on the vectors of DEV_INT causes: one for each vector in a CTRL cycle (R411). -/
def State.sendCauses (s : State) : List Nat → State
  | [] => s
  | v :: r =>
    let old := if s.hif.msgAt = s.ctrl then s.hif.msgVecs else []
    if old.contains v then s.sendCauses r
    else
      let s1 : State := { s with hif := { s.hif with msgAt := s.ctrl, msgVecs := v :: old } }
      (s1.sendMsi v).sendCauses r

/-- The vector of cause `k` (Table 19-4). -/
def State.causeVector (s : State) (k : Nat) : Nat := tget 0 s.hif.devIntVec k

/-- Events of causes of Table 19-5: each sets its bit, and a rising enabled bit sends a message (R411). The
registers lie in the control domain, so nothing is set while it is in reset. -/
def State.raiseInts (s : State) (causes : List Nat) : State :=
  if s.controlUp then
    let rising := causes.filter fun k => !s.hif.devInt.getLsbD k
    let mask : BitVec 12 := causes.foldl (fun m k => m ||| BitVec.ofNat 12 (2 ^ k)) 0
    let s1 : State := { s with hif := { s.hif with devInt := s.hif.devInt ||| mask } }
    s1.sendCauses ((rising.filter fun k => s.hif.devIntEn.getLsbD k).map s.causeVector)
  else s

/-- Causes of Table 19-5. -/
def intAudio : Nat := 0
def intOwner : Nat := 1
def intLease : Nat := 2
def intPower : Nat := 3
def intThermal : Nat := 4
def intCapacity : Nat := 5
def intRetire : Nat := 6
def intRepair : Nat := 7
def intDegraded : Nat := 8
def intService : Nat := 9
def intEvlogLost : Nat := 10
def intRestarted : Nat := 11

/-- Causes of in-band interrupts of the sideband (R281, R19, R323). -/
def ibiOwner : Nat := 0
def ibiLease : Nat := 1
def ibiSafeState : Nat := 2
def ibiStop : Nat := 3
def ibiClock : Nat := 4

/-! ### Event log -/

/-- Counters of Table 16-9. -/
def evlogLost : Nat := 0x2D0C04
def evlogGaps : Nat := 0x2D0C0C

/-- An entry as its 64 bytes (Table 16-1). -/
def logBytes (e : LogEntry) : List Byte :=
  leBytes 4 e.seq ++ leBytes 2 e.code ++ leBytes 1 (b2n e.injected) ++ leBytes 1 e.epoch ++ leBytes 8 e.refclk
    ++ leBytes 8 e.ctrl ++ leBytes 1 e.unit ++ leBytes 1 e.cluster ++ leBytes 2 e.status ++ pad 36 e.data

/-- The entry is written to the mirror, or counted as a gap while the link is down (R356). -/
def State.mirrorEntry (s : State) (e : LogEntry) : State :=
  if s.hif.linkUp then
    let s1 := s.hostWrite (s.log.mirrorBase + e.seq % 4096 * 64) (logBytes e)
    { s1 with log := { s1.log with slots := tput none s1.log.slots (e.seq % 4096) (some { e with mirrored := true }) } }
  else s.count evlogGaps 1

/-- The place of an entry's source in the order of R354: 0 standby domain, 1 control complex, from 2 the groups, from 50 the
memory channels, 98 the Comet engine, 99 the audio subsystem. Which source makes which entry is read from the contents of
the domains (Table 1-4; notes/assumptions/19.md). -/
def logSource (code unit : Nat) : Nat :=
  if code = 0x0001 ∨ code = 0x0005 ∨ code = 0x0006 ∨ code = 0x0007 ∨ code = 0x0009 then 0
  else if 0x0100 ≤ code ∧ code ≤ 0x0122 then 2 + unit
  else if code = 0x0140 then 50 + unit
  else if code = 0x0123 then 98
  else if code = 0x0172 then 99
  else 1

/-- CORE cycles in a cycle of a source's own clock (Tables 1-4, 1-5). -/
def logPeriod (source : Nat) : Nat :=
  if source = 0 then 25 else if source = 1 ∨ source = 99 then 4 else if source < 50 then 1 else 2

/-- An entry is made by the source of this place in the order (R354). It gets its number when the REFCLK cycle is over. -/
def State.logFrom (s : State) (source : Nat) (injected : Bool) (code unit cluster status : Nat) (data : List Byte) : State :=
  let e : LogEntry :=
    { seq := 0, code, injected, epoch := s.life.epoch % 256, refclk := s.refclk, ctrl := s.ctrl, unit, cluster, status, data
      mirrored := false, source, cycle := s.now / logPeriod source }
  { s with log := { s.log with fresh := s.log.fresh ++ [e] } }

/-- An entry of a code of Table 16-2. -/
def State.logAs (s : State) (injected : Bool) (code unit cluster status : Nat) (data : List Byte) : State :=
  s.logFrom (logSource code unit) injected code unit cluster status data

/-- An entry for an event that INJECT did not cause. -/
def State.logEvent (s : State) (code unit cluster status : Nat) (data : List Byte) : State :=
  s.logAs false code unit cluster status data

/-- The order of R354: the REFCLK cycle, the source, the cycle of its own clock, CODE, CLUSTER. -/
def LogEntry.before (a b : LogEntry) : Bool :=
  let k (e : LogEntry) : List Nat := [e.refclk, e.source, e.cycle, e.code, e.cluster]
  decide (k a ≤ k b)

/-- An entry takes the next SEQ, overwrites the entry of its slot, and is mirrored (R354, R356). -/
def State.numberEntry (s : State) (e0 : LogEntry) : State :=
  let e := { e0 with seq := s.log.next }
  let k := e.seq % 4096
  let lost := match tget none s.log.slots k with
    | some old => !old.mirrored
    | none => false
  let s1 : State :=
    { s with log := { s.log with slots := tput none s.log.slots k (some e), next := (e.seq + 1) % 2 ^ 32 } }
  let s2 := if lost then (s1.count evlogLost 1).raiseInts [intEvlogLost] else s1
  if s2.log.mirrorEn then s2.mirrorEntry e else s2

/-- The entries of REFCLK cycles that are over are numbered, in the order of R354. While REFCLK is absent no cycle of it
ends, and an entry is numbered as the clock of the model moves on (notes/assumptions/19.md). -/
def State.numberEntries (s : State) : State :=
  let past (e : LogEntry) : Bool := !s.life.refclk || decide (e.refclk < s.refclk)
  let ready := s.log.fresh.filter past
  let s1 : State := { s with log := { s.log with fresh := s.log.fresh.filter fun e => !past e } }
  (sortBy LogEntry.before ready).foldl (fun s e => s.numberEntry e) s1

/-- `f`, with the entries that it makes marked INJECTED (R368). -/
def State.asInjected (s : State) (f : State → State) : State :=
  let n := s.log.fresh.length
  let s1 := f s
  { s1 with
    log := { s1.log with
      fresh := s1.log.fresh.take n ++ (s1.log.fresh.drop n).map fun e => { e with injected := true } } }

/-- Every entry that the ring still holds, oldest first. -/
def State.heldEntries (s : State) : List LogEntry :=
  let n := s.log.next
  ((List.range 4096).filterMap fun i => tget none s.log.slots ((n + i) % 4096))

/-- Unit 0xFF and cluster 0xFF: none (Table 16-1). -/
def noUnit : Nat := 0xFF

end Sys2Proof.Machine
end

