-- ==== Sys2Proof/Machine/Complete.lean ====
section
/-! DEFINITION. Completions: status values (Table 13-10), completion entries (Tables 13-2, 13-3), completion
rings with backlog and interrupts (R278, R279, R293), and the order of command completions (R296). -/

namespace Sys2Proof.Machine

/-! ### Status values (Table 13-10) -/

def stSuccess : Nat := 0x0000
def stBadOpcode : Nat := 0x0001
def stInvalidParam : Nat := 0x0002
def stHostError : Nat := 0x0003
def stCancelled : Nat := 0x0004
def stDisabled : Nat := 0x0005
def stNotFound : Nat := 0x0006
def stNoCapacity : Nat := 0x0010
def stShed : Nat := 0x0011
def stSeqFault : Nat := 0x0020
def stHoldTimeout : Nat := 0x0021
def stCheckFail : Nat := 0x0022
def stVariantRetired : Nat := 0x0023
def stTargetReset : Nat := 0x0024
def stAborted : Nat := 0x0025
def stImageInvalid : Nat := 0x0030
def stProfileMismatch : Nat := 0x0031
def stSignature : Nat := 0x0032
def stImageBusy : Nat := 0x0033
def stStateLost : Nat := 0x0040
def stImportInvalid : Nat := 0x0041
def stImportMismatch : Nat := 0x0042
def stStreamBusy : Nat := 0x0043
def stBlockCheck : Nat := 0x0050
def stBlockInvalid : Nat := 0x0051
def stBlockOverrun : Nat := 0x0052
def stBlockShort : Nat := 0x0053
def stScaleSkew : Nat := 0x0054
def stMemError : Nat := 0x0060
def stNotOwner : Nat := 0x0070
def stOwned : Nat := 0x0071
def stLeaseLive : Nat := 0x0072
def stNotReady : Nat := 0x0073
def stBusy : Nat := 0x0074
def stNotRole : Nat := 0x0075
def stKeyInvalid : Nat := 0x0080
def stFwInvalid : Nat := 0x0081

/-! ### Entries -/

/-- The number of a master (Table 12-1). -/
def Master.num : Sys2Proof.Master → Nat
  | .pcie => 0
  | .sideband => 1
  | .safety => 2

/-- RESULT, bytes 12 to 31, from pairs of byte offset and bytes. -/
def resultOf (fs : List (Nat × List Byte)) : List Byte :=
  fs.foldl (fun l f => patch l (f.1 - 12) f.2) (List.replicate 20 0)

/-- A command completion (Table 13-2) with PHASE 0. -/
def cmdEntry (i : Inflight) (status : Nat) (result : List Byte) : List Byte :=
  let ring := match i.hdr.master with
    | .pcie => i.hdr.ring % 64
    | _ => 0
  leBytes 2 status ++ leBytes 1 0 ++ leBytes 1 (ring + 64 * Master.num i.hdr.master) ++ leBytes 4 i.hdr.tag.toNat
    ++ leBytes 2 i.sqHead ++ leBytes 2 0 ++ pad 20 result

/-- What a chunk completion reports (Table 13-3). -/
structure ChunkReport where
  stream : Nat
  image : Nat
  home : Nat
  seq : Nat
  status : Nat
  scaleOut : Bool
  outcome : Nat
  latenessUs : Nat
  hold : Nat
  swapUs : Nat
  deferUs : Nat
  classWord : Nat
deriving DecidableEq, Repr

/-- A chunk completion (Table 13-3) with PHASE 0; 32-bit fields saturate. -/
def chunkEntry (c : ChunkReport) : List Byte :=
  let sat (v : Nat) := leBytes 4 (min v 0xFFFFFFFF)
  leBytes 2 c.status ++ leBytes 1 (2 + 4 * b2n c.scaleOut + 8 * c.outcome) ++ leBytes 1 c.home
    ++ leBytes 4 (c.stream + 2 ^ 20 * c.image) ++ leBytes 4 c.seq ++ sat c.latenessUs ++ sat c.hold ++ sat c.swapUs
    ++ sat c.deferUs ++ leBytes 1 c.classWord ++ leBytes 3 0

/-- The entry with the ring's phase in bit 0 of byte 2. -/
def withPhase (e : List Byte) (phase : Bool) : List Byte :=
  patch e 2 [(e.getD 2 0) ||| (if phase then 1 else 0)]

/-! ### Completion rings -/

def CqRing.size (r : CqRing) : Nat := 2 ^ r.log2
def SqRing.size (r : SqRing) : Nat := 2 ^ r.log2

/-- A completion ring takes no entry when one more would make its tail meet its head (R275, R278). -/
def CqRing.full (r : CqRing) : Bool := (r.tail + 1) % r.size == r.head

/-- DROPPED of a completion ring. -/
def cqDropped (n : Nat) : Nat := ringCq n + 0x1C

/-- The message of R279, and the start of a new count. -/
def State.signalCq (s : State) (n : Nat) : State :=
  let r := s.cqr n
  (s.setCq n { r with unsignalled := 0 }).sendMsi r.vector

/-- The ring after an entry: tail, phase, and the count since the last message (R278, R279, R293). -/
def CqRing.advance (r : CqRing) (now : Nat) : CqRing :=
  let tail := (r.tail + 1) % r.size
  { r with
    tail
    phase := if tail = 0 then !r.phase else r.phase
    unsignalled := r.unsignalled + 1
    firstAt := if r.unsignalled = 0 then now else r.firstAt }

/-- An entry is written at the tail of completion ring `n`. -/
def State.writeEntry (s : State) (n : Nat) (e : List Byte) : State :=
  let r := s.cqr n
  let s1 := s.hostWrite (r.base + 32 * r.tail) (withPhase e r.phase)
  let r1 := r.advance s.now
  let s2 := s1.setCq n r1
  if r.ien && (r.coalCount == 0 || decide (r.coalCount ≤ r1.unsignalled)) then s2.signalCq n else s2

/-- Entries that a backlog holds at most (R278). -/
def backlogMax : Nat := 65536

/-- An entry for completion ring `n` is dropped: OVERFLOW, DROPPED, the event log (R278). -/
def State.dropEntry (s : State) (n : Nat) : State :=
  ((s.setCq n { s.cqr n with overflow := true }).count (cqDropped n) 1).logEvent 0x0161 noUnit noUnit 0
    (leBytes 1 n ++ leBytes 1 1)

/-- An entry goes to completion ring `n`: written, or held in the backlog, or dropped (R278); none is posted from the
declaration of a stop on (R323). -/
def State.postEntry (s : State) (n : Nat) (e : List Byte) : State :=
  let r := s.cqr n
  if s.isStopped then s
  else if r.en && r.backlog.isEmpty && !r.full then s.writeEntry n e
  else if r.backlog.length < backlogMax then s.setCq n { r with backlog := r.backlog ++ [e] }
  else s.dropEntry n

/-- Backlogged entries are posted in order while the ring has room, with fuel (BACKLOG_POST). -/
def State.postBacklog (n : Nat) : Nat → State → State
  | 0, s => s
  | f + 1, s =>
    let r := s.cqr n
    match r.backlog with
    | [] => s
    | e :: rest =>
      let s1 := s.setCq n { r with backlog := rest, heldFrom := (r.heldFrom + 1) % backlogMax }
      if e.isEmpty then State.postBacklog n f s1
      else if r.en && !r.full && !s.isStopped then State.postBacklog n f (s1.writeEntry n e) else s

/-- A chunk completion is posted to its stream's ring (R294). -/
def State.postChunk (s : State) (cq : Nat) (c : ChunkReport) : State := s.postEntry cq (chunkEntry c)

/-! ### Command completions -/

/-- REFUSED of a submission ring. -/
def sqRefused (n : Nat) : Nat := ringSq n + 0x18

/-- A command's completion leaves on the transport the command came by (R294), and is counted (R414). -/
def State.deliver (s : State) (i : Inflight) (status : Nat) (result : List Byte) : State :=
  let e := cmdEntry i status result
  let s1 := if s.controlUp then s.count64 (devCnt + 0x38) else s
  match i.hdr.master with
  | .pcie =>
    let s2 := if status = stNotOwner then s1.count (sqRefused i.hdr.ring) 1 else s1
    s2.postEntry i.cq e
  | .sideband => s1.emit (.sideband i.hdr.msgTag e)
  | .safety => { s1 with safePort := { s1.safePort with executing := none, response := some e } }

/-- Commands that have completed and name no object of one that took effect earlier and has not (R296), and the rest. The list
is in the order of effect; a command that waits has taken none, and holds nothing back. -/
def readyToPost : List Obj → List Inflight → List Inflight × List Inflight
  | _, [] => ([], [])
  | held, i :: r =>
    if i.done.isSome && !(i.objs.any held.contains) then
      let (p, k) := readyToPost held r
      (i :: p, k)
    else
      let (p, k) := readyToPost (if i.waiting then held else i.objs ++ held) r
      (p, i :: k)

/-- Completions that nothing holds back any more are delivered, in order; none from the declaration of a stop on (R323). -/
def State.flushDone (s : State) : State :=
  if s.isStopped then s
  else
    let (post, keep) := readyToPost [] s.inflight
    post.foldl (fun s i => match i.done with
      | some (st, r) => s.deliver i st r
      | none => s) { s with inflight := keep }

/-- The wait of command `id` is over and it takes effect: it comes last in the order of effect (R296, R303). -/
def State.takesEffect (s : State) (id : Nat) : State :=
  { s with
    inflight := s.inflight.filter (fun i => !(i.id == id && i.waiting))
      ++ (s.inflight.filter fun i => i.id == id && i.waiting).map fun i => { i with waiting := false } }

/-- Command `id` completes with `status` and `result`. -/
def State.finish (s : State) (id status : Nat) (result : List Byte) : State :=
  let s1 := s.takesEffect id
  ({ s1 with inflight := s1.inflight.map fun i =>
      if i.id = id && i.done.isNone then { i with done := some (status, result) } else i } : State).flushDone

/-- Command `id` is refused: it takes no effect, so nothing orders its completion (notes/assumptions/10.md). -/
def State.failCmd (s : State) (id status : Nat) : State :=
  match s.inflight.find? fun i => i.id == id with
  | some i =>
    (({ s with inflight := s.inflight.filter fun j => j.id != id } : State).deliver i status []).flushDone
  | none => s

/-- Command `id` waits for the end of a state of its stream or unit. -/
def State.waitCmd (s : State) (id : Nat) : State :=
  { s with inflight := s.inflight.map fun i => if i.id = id then { i with waiting := true } else i }

/-- Every command of the list completes with `status`. -/
def State.finishAll (s : State) (ids : List Nat) (status : Nat) (result : List Byte) : State :=
  ids.foldl (fun s i => s.finish i status result) s

/-! ### Armed detectors (R368) -/

def State.armedAt (s : State) (d : Nat) : Option Armed := tget none s.armed d

/-- Detector numbers of R365: a group's by its index in Table 16-6, the device's by its index in Table 16-7. -/
def grpDetector (g index : Nat) : Nat := g * 64 + index
def devDetector (index : Nat) : Nat := 0xC00 + index

/-- INJECTED of Table 16-10. -/
def ctrInjected : Nat := 0x2D0C58

/-- The injection of detector `d` ends: INJECT completes with the occurrences fired. -/
def State.endInject (s : State) (d : Nat) : State :=
  match s.armedAt d with
  | some a =>
    ({ s with armed := tput none s.armed d none } : State).finish a.cmd stSuccess
      (resultOf [(12, leBytes 1 a.fired)])
  | none => s

/-- An armed occurrence of detector `d`: whether it fires, and the state with it counted. -/
def State.fireArmed (s : State) (d : Nat) : Bool × State :=
  match s.armedAt d with
  | some a =>
    let a1 : Armed := { a with left := a.left - 1, fired := a.fired + 1 }
    let s1 := ({ s with armed := tput none s.armed d (some a1) } : State).count ctrInjected 1
    (true, if a1.left = 0 then s1.endInject d else s1)
  | none => (false, s)

end Sys2Proof.Machine
end

