-- ==== Sys2Proof/Machine/Operands.lean ====
section
/-! DEFINITION. How a command arrives and is checked: the three transports (R277, R280, R282), FENCE (R297),
the owner arbiter and the lease (R284 to R288), and the checks of R291 in their order. -/

namespace Sys2Proof.Machine

/-! ### Owner and lease -/

/-- The lease in CTRL cycles (R285). -/
def leaseCycles : Nat := 1250000000

/-- CHANGES of OWN_STAT. -/
def ownChanges : Nat := 0x2A2008

/-- The owner's lease has run out and its expiry has not been recorded. -/
def State.leaseDue (s : State) : Bool :=
  s.owner.owner != 3 && !s.owner.expired && decide (s.owner.leaseEnd ≤ s.ctrl)

/-- The lease expires (R286): EXPIRED, an event, interrupts. The master stays the owner. -/
def State.expireLease (s : State) : State :=
  if s.leaseDue then
    let o := s.owner.owner
    ((({ s with owner := { s.owner with expired := true } } : State).logEvent 0x0160 noUnit noUnit 0
        (leBytes 1 o ++ leBytes 1 o ++ leBytes 2 0)).raiseInts [intLease]).emit (.inBand ibiLease)
  else s

/-- The lease is renewed when the arbiter takes a command of the owner (R286). -/
def State.renewLease (s : State) (m : Master) : State :=
  if s.owner.owner = Master.num m then
    { s with owner := { s.owner with expired := false, leaseEnd := s.ctrl + leaseCycles } }
  else s

/-- The device gets the owner `new` (3 for none) with a role and a new lease; a change is counted, recorded with
the opcode that caused it, and signalled (R281, R285, R288). -/
def State.setOwner (s : State) (new : Nat) (role : Bool) (opcode : Nat) : State :=
  let old := s.owner.owner
  let s1 : State :=
    { s with owner := { s.owner with owner := new, role, expired := false, leaseEnd := s.ctrl + leaseCycles } }
  if old = new then s1
  else
    (((s1.count ownChanges 1).logEvent 0x0160 noUnit noUnit 0
        (leBytes 1 old ++ leBytes 1 new ++ leBytes 2 opcode)).raiseInts [intOwner]).emit (.inBand ibiOwner)

/-! ### Classes of Table 13-4 and what the device's condition lets execute -/

/-- The Class column of Table 13-4; `election` marks CLAIM, RELEASE and GRANT, which Table 12-5 decides. -/
inductive CmdClass where
  | read
  | owner
  | rackManager
  | election
deriving DecidableEq, Repr

/-- The command processor serves the master (R377, R378, R408). -/
def State.served (s : State) (m : Master) : Bool :=
  s.firmwareUp || (s.romRuns && m == .pcie)

/-- READY = 1 and RESET_PENDING = 0 (step 3 of R291). -/
def State.isReady (s : State) : Bool := s.life.phase == .ready && s.life.ready

/-- Opcodes that execute in recovery (R378). -/
def recoveryOps : List Nat := [0x0002, 0x0010, 0x0011, 0x0012, 0x0013, 0x0803, 0x0800, 0x0801, 0x0802]

/-- Opcodes that are not read-class and execute under START_FAIL (R367). -/
def startFailOps : List Nat := [0x0010, 0x0011, 0x0012, 0x0800, 0x0801, 0x0802]

/-- A device reset or a safe-state sequence is in progress, as against a first start. -/
def State.resetting (s : State) : Bool :=
  match s.life.phase with
  | .resetPending | .abandoned | .inReset => true
  | .booted | .injecting | .hashing | .reopening | .resuming => s.life.kind != .powerUp
  | _ => false

/-- Step 3 of R291. -/
def State.readyFor (s : State) (op : Nat) (cls : CmdClass) : Bool :=
  if s.romRuns then recoveryOps.contains op && (cls == .read || s.life.phase == .recovery)
  else if cls == .read then true
  else if s.isReady then true
  else if s.life.phase == .startFail then startFailOps.contains op
  else op == 0x0600 && s.resetting

/-- Step 2 of R291 for CLAIM, RELEASE and GRANT (Table 12-5): the refusal, if any. -/
def State.electionRefusal (s : State) (m : Master) (op : Nat) (brk : Bool) : Option Nat :=
  let o := s.owner.owner
  if op = 0x0010 then
    if m = .safety then some (if o = 3 then stNotOwner else stOwned)
    else if o = 3 ∨ o = Master.num m then none
    else if brk ∧ m = .sideband then (if s.owner.expired then none else some stLeaseLive)
    else some stOwned
  else if o = Master.num m then none
  else some stNotOwner

/-- Step 2 of R291 (R287): the refusal, if any. -/
def State.ownerRefusal (s : State) (m : Master) (op : Nat) (cls : CmdClass) (brk : Bool) : Option Nat :=
  match cls with
  | .read => none
  | .election => s.electionRefusal m op brk
  | .owner => if s.owner.owner = Master.num m then none else some stNotOwner
  | .rackManager =>
    if s.owner.owner ≠ Master.num m then some stNotOwner else if s.owner.role then none else some stNotRole

/-! ### A command's own description -/

/-- What the arrival of a command needs to know of it: opcode, class and parameters (Table 13-4), BREAK of a CLAIM, whether
every field lies in its stated range (step 4), and the objects it names (R296). -/
structure CmdInfo where
  op : Nat
  cls : CmdClass
  inRange : Bool
  fields : List EntryField := []
  brk : Bool := false
  objs : List Obj := []

/-- The status of the first of steps 1 to 4 of R291 that fails. -/
def State.refusal (s : State) (h : Hdr) (c : CmdInfo) : Option Nat :=
  if !opcodeListed h then some stBadOpcode
  else match s.ownerRefusal h.master c.op c.cls c.brk with
  | some st => some st
  | none =>
    if !s.readyFor c.op c.cls then some stNotReady
    else if reservedSet h c.fields || !c.inRange then some stInvalidParam
    else none

/-- The arbiter takes a command (R284): an expiry due comes first, the owner's lease is renewed, the command is
checked, and then its own effect follows. A read-class command holds no other completion back (R296). -/
def State.takeCmd (s : State) (i : Inflight) (c : CmdInfo) (eff : Inflight → State → State) : State :=
  let s1 := (s.expireLease).renewLease i.hdr.master
  match s1.refusal i.hdr c with
  | some st => s1.deliver i st []
  | none =>
    let j : Inflight := { i with objs := if c.cls == .read then [] else c.objs }
    eff j { s1 with inflight := s1.inflight ++ [j] }

/-- Commands of the same ring, or of the sideband, that came earlier and have not completed (R297). -/
def State.fenceHolds (s : State) (m : Master) (ring id : Nat) : Bool :=
  match m with
  | .pcie =>
    (s.inflight.any fun i => i.hdr.master == .pcie && i.hdr.ring == ring && decide (i.id < id))
      || (s.fenced.any fun f => f.hdr.master == .pcie && f.hdr.ring == ring && decide (f.id < id))
  | .sideband =>
    (s.inflight.any fun i => i.hdr.master == .sideband && decide (i.id < id))
      || (s.fenced.any fun f => f.hdr.master == .sideband && decide (f.id < id))
  | .safety => false

/-- A command has reached the command processor: with FENCE it may have to wait (R297), else the arbiter takes
it. -/
def State.reach (s : State) (h : Hdr) (instr : Instr) (sqHead cq : Nat) (c : CmdInfo)
    (eff : Inflight → State → State) : State :=
  let id := s.nextCmd
  let s1 : State := { s with nextCmd := id + 1 }
  if h.fence && s1.fenceHolds h.master h.ring id then
    { s1 with fenced := s1.fenced ++ [{ instr, hdr := h, id, sqHead, cq }] }
  else s1.takeCmd { id, hdr := h, sqHead, instr, cq, objs := [] } c eff

/-- FETCHED of a submission ring. -/
def sqFetched (n : Nat) : Nat := ringSq n + 0x14

/-- A submission ring that is enabled and holds an entry that no FENCE keeps back (R271, R275, R276, R297). -/
def State.hasEntry (s : State) (ring : Nat) : Bool :=
  let r := s.sqr ring
  s.hif.linkUp && !s.hif.d3hot && s.served .pcie && decide (ring < 64) && r.en && r.head != r.tail
    && !(s.fenced.any fun f => f.hdr.master == .pcie && f.hdr.ring == ring)

/-- The ring from which the next entry is fetched: the rings take turns in ascending number (R277). -/
def State.nextFetch (s : State) : Option Nat :=
  ((List.range 64).map fun i => (s.hif.nextRing + i) % 64).find? s.hasEntry

/-- It is the turn of a submission ring. -/
def State.canFetch (s : State) (ring : Nat) : Bool := s.nextFetch == some ring

/-- The entry at the head of a submission ring is fetched. -/
def State.fetchEntry (s : State) (ring : Nat) : State :=
  let r := s.sqr ring
  let s1 : State := { s with hif := { s.hif with nextRing := (ring + 1) % 64 } }
  (s1.setSq ring { r with head := (r.head + 1) % r.size }).count (sqFetched ring) 1

/-- The status with which the standby logic answers a command of the safety port, and the model a command of the
sideband, while the command processor does not run (R283, notes/assumptions/11.md). -/
def standbyStatus (h : Hdr) (c : CmdInfo) : Nat :=
  if !opcodeListed h then stBadOpcode else if c.cls == .read then stNotReady else stNotOwner

/-- Requests of the sideband that are outstanding (R280). -/
def State.sidebandOutstanding (s : State) : Nat :=
  (s.inflight.filter fun i => i.hdr.master == .sideband).length
    + (s.fenced.filter fun f => f.hdr.master == .sideband).length

/-- The completion of a command that nothing executes. -/
def State.answer (s : State) (h : Hdr) (instr : Instr) (status : Nat) : State :=
  s.deliver { id := s.nextCmd, hdr := h, sqHead := 0, instr, cq := 0, objs := [] } status []

/-- The safety port's CRC check (Table 16-7). -/
def safetyCrcDetector : Nat := devDetector 103

/-- A command comes over its transport (R277, R280, R282, R283). One that cannot come, because its ring holds no entry or has
not its turn, because its entry spells another command, or because the standby domain is down, does not
(notes/assumptions/12.md); an entry with an opcode that Table 13-4 does not list may come under any row's name. -/
def State.arrive (s : State) (h : Hdr) (instr : Instr) (c : CmdInfo) (eff : Inflight → State → State) : State :=
  if opcodeListed h && !spells h c.op c.fields then s
  else match h.master with
  | .pcie =>
    if s.canFetch h.ring then
      let s1 := s.fetchEntry h.ring
      s1.reach h instr (s1.sqr h.ring).head (s1.sqr h.ring).cq c eff
    else s
  | .sideband =>
    if !s.standbyUp || s.isStopped then s
    else if 8 ≤ s.sidebandOutstanding then s.answer h instr stBusy
    else if s.served .sideband then s.reach h instr 0 0 c eff
    else s.answer h instr (standbyStatus h c)
  | .safety =>
    if !s.standbyUp then s
    else if (s.fireArmed safetyCrcDetector).1 then
      let s1 := (s.fireArmed safetyCrcDetector).2
      { s1 with safePort := { s1.safePort with crcError := true } }
    else if s.safePort.executing.isSome || s.safePort.response.isSome then
      { s with safePort := { s.safePort with refused := true, crcError := false } }
    else
      let s1 : State :=
        { s with safePort := { s.safePort with executing := some s.nextCmd, crcError := false, refused := false } }
      if s1.served .safety then s1.reach h instr 0 0 c eff else s1.answer h instr (standbyStatus h c)

/-- The CTRL cycle in which a command that comes at time `t` reaches the arbiter. -/
def State.reachCycle (s : State) (t : Nat) : Nat := ceilDiv (max t s.now - s.life.ctrlBase) 4

/-- Of commands that reach the arbiter in one CTRL cycle that of the lower master goes first (R284): one that stands behind
another master's in the queue does not come then (notes/assumptions/59.md). -/
def State.inTurn (s : State) (t : Nat) (m : Sys2Proof.Master) : Bool :=
  s.reachCycle t != s.owner.reachedAt || decide (s.owner.reachedBy ≤ Master.num m)

end Sys2Proof.Machine
end

