-- ==== Sys2Proof/Machine/Channels.lean ====
section
/-! DEFINITION. Memory channels and their rows: what a read of a row meets (R225, R233, R234), lasting faults and failing
channels (R236, R240, R358), repeated writes (R235), the repair records that they ask for (R357), SERVICE (R371). -/

namespace Sys2Proof.Machine

/-! ### SERVICE -/

/-- SERVICE is set; its rise raises the cause (R371, R412). -/
def State.setService (s : State) : State :=
  if s.repair.service then s
  else ({ s with repair := { s.repair with service := true } } : State).raiseInts [intService]

/-! ### Repair records -/

/-- Records in the journal and on their way into it. -/
def State.allRecords (s : State) : List Record := s.repair.journal ++ s.repair.writing.map (·.1)

/-- A repair record of ORIGIN 1 starts to be written (R357). -/
def State.writeRecord (s : State) (kind location : Nat) (next : RepairNext) : State :=
  let r : Record :=
    { kind, origin := 1, location, powerUps := s.repair.powerUps, refclk := s.refclk
      number := s.repair.journal.length + s.repair.writing.length }
  { s with repair := { s.repair with writing := s.repair.writing ++ [(r, next)] } }

/-! ### Channels -/

/-- A channel is marked FAILING (R240). -/
def State.markFailing (s : State) (c : Nat) : State :=
  let ch := s.memCh c
  if ch.st ≠ 0 then s
  else
    (((s.setMemCh c { ch with st := 1 }).logEvent 0x0140 c noUnit 0 (leBytes 1 2 ++ leBytes 8 0)).writeRecord 5 c
      .other).setService

/-- Counters of MEM_CH (Table 10-9). -/
def chCorrected (c : Nat) : Nat := memChReg c + 0x04
def chUncorrectable (c : Nat) : Nat := memChReg c + 0x08
def chLinkRetries (c : Nat) : Nat := memChReg c + 0x0C
def chWriteRetries (c : Nat) : Nat := memChReg c + 0x10
def chLateRows (c : Nat) : Nat := memChReg c + 0x14

/-- Records of a kind for a channel (Table 16-4). -/
def channelRecords (l : List Record) (kind c : Nat) : List Record :=
  l.filter fun r => r.kind == kind && bits r.location 0 6 == c

/-- A lasting fault of the row at channel offset `off` (R236, R358): a record for the row, for its page once the channel
has 4,096 row records, or the channel fails. -/
def State.lastingMemRow (s : State) (c off : Nat) : State :=
  let ch := s.memCh c
  if ch.lasting.contains off then s
  else
    let s1 := (s.setMemCh c { ch with lasting := ch.lasting ++ [off] }).logEvent 0x0140 c noUnit 0
      (leBytes 1 1 ++ leBytes 8 (s.addrOf c off))
    if (channelRecords s1.allRecords 3 c).length < 4096 then s1.writeRecord 3 (c + off * 2 ^ 6) .other
    else if (channelRecords s1.allRecords 4 c).length < 4096 then s1.writeRecord 4 (c + off / 4096 * 2 ^ 6) .other
    else s1.markFailing c

/-- CORE cycles of a second, and of the patrol scrub's pass of 24 hours (R236). -/
def secondCycles : Nat := 2500000000
def passCycles : Nat := 86400 * secondCycles

/-- A correctable error at channel offset `off` (R233): counted, written back; a second one within a patrol pass of
the write-back is a lasting fault (R236). -/
def State.memCorrected (s : State) (c off : Nat) : State :=
  let s1 := s.count (chCorrected c) 1
  let ch := s1.memCh c
  let kept := ch.corrected.filter fun x => decide (s.now ≤ x.2 + passCycles)
  let again := kept.any fun x => x.1 == off
  let s2 := s1.setMemCh c { ch with corrected := (kept.filter fun x => x.1 != off) ++ [(off, s.now)] }
  if again then s2.lastingMemRow c off else s2

/-- A stored error at channel offset `off` (R233): counted and recorded; it is a lasting fault (R236), and the 65th
within a second marks the channel FAILING (R240). -/
def State.storedError (s : State) (c off : Nat) : State :=
  let s1 := (s.count (chUncorrectable c) 1).logEvent 0x0140 c noUnit stMemError (leBytes 1 0 ++ leBytes 8 (s.addrOf c off))
  let ch := s1.memCh c
  let recent := (ch.stored.filter fun x => decide (s.now < x + secondCycles)) ++ [s.now]
  let s2 := (s1.setMemCh c { ch with stored := recent }).lastingMemRow c off
  if 64 < recent.length then s2.markFailing c else s2

/-! ### Rows of memory (R225, R233 to R236) -/

/-- The channel and row offset at which a memory address lies. -/
def State.rowPlace (s : State) (a : Nat) : Option (Nat × Nat) := (s.resolve a).map fun x => (x.1, x.2 / 64 * 64)

/-- A half's read finds an error that its code corrects, or one that it detects (R225). -/
def halfCorrected (h : HalfRead) : Bool := !h.misplaced && h.bytes == 1
def halfDetected (h : HalfRead) : Bool := h.misplaced || decide (2 ≤ h.bytes)

/-- The outcome of a read of a row (R233): uncorrectable where one of its halves detects an error. -/
inductive RowVerdict where
  | clean
  | correctable
  | uncorrectable
deriving DecidableEq, Repr

def rowVerdict (r : RowRead) : RowVerdict :=
  if halfDetected r.lower || halfDetected r.upper then .uncorrectable
  else if halfCorrected r.lower || halfCorrected r.upper then .correctable
  else .clean

/-- What a list of reads says of row `i`; one that no entry names was read clean. -/
def verdictAt (l : List (Nat × RowRead)) (i : Nat) : RowVerdict :=
  match l.find? fun x => x.1 == i with
  | some x => rowVerdict x.2
  | none => .clean

/-- A damaged write has left the row at this place to be treated as a stored error (R235). -/
def State.isDamaged (s : State) (p : Option (Nat × Nat)) : Bool :=
  match p with
  | some (c, o) => (s.memCh c).damaged.contains o
  | none => false

/-- The row at memory address `a` has been written, after `n` repetitions: each is counted; a write that fails 8 of them
marks the channel and leaves the row damaged, any other makes it good (R235). -/
def State.rowWritten (s : State) (a n : Nat) : State :=
  match s.rowPlace a with
  | none => s
  | some (c, o) =>
    let s1 := if n = 0 then s else s.count (chWriteRetries c) (min 8 n)
    let s2 := if 9 ≤ n then s1.markFailing c else s1
    let ch := s2.memCh c
    let rest := ch.damaged.filter (· != o)
    if 9 ≤ n then s2.setMemCh c { ch with damaged := rest ++ [o] }
    else if ch.damaged.contains o then s2.setMemCh c { ch with damaged := rest } else s2

/-- How often the write of row `i` was repeated. -/
def retriesOf (l : WriteRetries) (i : Nat) : Nat :=
  match l.find? fun x => x.1 == i with
  | some x => x.2
  | none => 0

/-- `n` rows from memory address `a` have been written (R235). -/
def State.rowsWritten (s : State) (a n : Nat) (l : WriteRetries) : State :=
  (List.range n).foldl (fun s i => s.rowWritten (a + 64 * i) (retriesOf l i)) s

/-- Bytes written from memory address `a`, with the rows that they lie in (R235). -/
def State.memStore (s : State) (a : Nat) (b : List Byte) (l : WriteRetries) : State :=
  (s.memWrite a b).rowsWritten (a / 64 * 64) (ceilDiv (a % 64 + b.length) 64) l

/-- A read of the row at channel offset `o` that met `first`, and `again` where it had to be repeated (R233): whether it is a
stored error, or the memory reports one because a write left the row damaged (R235). -/
def State.meetRow (s : State) (c o : Nat) (first again : RowRead) : State × Bool :=
  let bad := s.isDamaged (some (c, o))
  match if bad then .uncorrectable else rowVerdict first with
  | .clean => (s, false)
  | .correctable => (s.memCorrected c o, false)
  | .uncorrectable =>
    match if bad then .uncorrectable else rowVerdict again with
    | .clean => (s.count (chLinkRetries c) 1, false)
    | .correctable => ((s.count (chLinkRetries c) 1).memCorrected c o, false)
    | .uncorrectable => (s.storedError c o, true)

/-- The reads of the `n` rows from memory address `a`, of which the list names those that met an error; a damaged row reads as
a stored error (R235): whether one of them is a stored error. -/
def State.meetRows (s : State) (a n : Nat) (reads : MemReads) : State × Bool :=
  let clean : RowRead := ⟨⟨0, false⟩, ⟨0, false⟩⟩
  let more := (List.range n).filter fun i => s.isDamaged (s.rowPlace (a + 64 * i)) && !(reads.any fun x => x.1 == i)
  (reads ++ more.map fun i => (i, clean, clean)).foldl (fun (acc : State × Bool) x =>
    match if x.1 < n then acc.1.rowPlace (a + 64 * x.1) else none with
    | none => acc
    | some (c, o) =>
      let (s1, e) := acc.1.meetRow c o x.2.1 x.2.2
      (s1, acc.2 || e)) (s, false)

end Sys2Proof.Machine
end

