-- ==== Sys2Proof/Machine/Chunks.lean ====
section
/-! DEFINITION. Streams and their chunks: rates and time limits (R40), service outcomes (R52 to R55), chunk
completions (R79, R294, R414), degraded operation of S streams (R334 to R336), bindings (R248, R300). -/

namespace Sys2Proof.Machine

/-! ### Rates -/

/-- The rate in Hz of a code of Table 2-3, 0 for a reserved one. -/
def rateHz (code : Nat) : Nat :=
  [8000, 11025, 12000, 16000, 22050, 24000, 32000, 44100, 48000, 88200, 96000, 176400, 192000].getD code 0

/-- CORE cycles of `n` samples at `f` Hz (R40). -/
def sampleCycles (n f : Nat) : Nat := ceilDiv (2500000000 * n) f

/-! ### Bindings (Tables 11-3 and 13-6) -/

def bindKind (w : BitVec 32) : Nat := bits w.toNat 28 4
def bindPort (w : BitVec 32) : Nat := bits w.toNat 24 4
def bindSlot (w : BitVec 32) : Nat := bits w.toNat 19 5
def bindSfmt (w : BitVec 32) : Bool := bit w.toNat 18
def bindLead (w : BitVec 32) : Nat := bits w.toNat 0 18
def bindOutSlots (w : BitVec 32) : Nat := bits w.toNat 0 16

def Stream.portSource (r : Stream) : Bool := bindKind r.source == 1
def Stream.portSink (r : Stream) : Bool := bindKind r.sink == 1

/-- A list of numbers of the streams whose entry is not CLOSED. -/
def State.openStreams (s : State) : List Nat :=
  (s.streams.filter fun e => e.2.st != .closed).map (·.1)

/-- The open streams homed in group `g`. -/
def State.homed (s : State) (g : Nat) : List Nat := s.openStreams.filter fun n => (s.str n).home == g

/-- Streams that have been admitted into group `g` by a move that has not ended (R303). -/
def State.coming (s : State) (g : Nat) : List Nat :=
  s.openStreams.filter fun n => (s.str n).home != g && (s.str n).move.any fun m => m.target == g

/-- Streams of which admission counts as the group's: those homed there, and those that are to move there
(notes/assumptions/61.md). -/
def State.claimed (s : State) (g : Nat) : List Nat := s.homed g ++ s.coming g

def State.openOf (s : State) (c : Cls) : List Nat := s.openStreams.filter fun n => (s.str n).cls == c

/-! ### The input ring (R251, R301) -/

/-- The bytes of a sample in its stream's format (R249). -/
def sampleBytes (wide : Bool) (v : Int) : List Byte := if wide then leBytes 4 (toTwos 32 v) else leBytes 2 (toTwos 16 v)

/-- The memory address of sample `x` of a stream: the ring holds 4 × CHUNK_SAMPLES samples. That sample x stands at place x
mod 4 × CHUNK_SAMPLES is PRESUMED (notes/assumptions/37.md). -/
def State.ringAddr (s : State) (r : Stream) (x : Nat) : Nat :=
  r.home * s.nearBytes + r.inBase + x % (4 * r.chunkSamples) * (if bindSfmt r.source then 4 else 2)

/-- Samples of stream `n` from index `first`, as its entry holds them, are written to its ring. -/
def State.putRing (s : State) (n first count : Nat) : State :=
  let r := s.str n
  (List.range count).foldl (fun s i =>
    s.memStore (s.ringAddr r (first + i)) (sampleBytes (bindSfmt r.source) (r.samples.getD (first + i - r.inStart) 0)) []) s

/-- The samples that the staged row of a stream holds once sample `x` is in it: they are written with the row's last sample,
or with a chunk's (R251). -/
def Stream.rowDue (r : Stream) (x : Nat) : Nat :=
  let per := if bindSfmt r.source then 16 else 32
  let k := x % (4 * r.chunkSamples) % per
  if k + 1 = per ∨ x % (4 * r.chunkSamples) + 1 = 4 * r.chunkSamples ∨ (x + 1 - r.stampFirst) % r.chunkSamples = 0 then
    min (k + 1) (x + 1 - r.inStart)
  else 0

/-! ### Chunks -/

/-- The chunks of a stream that are complete in its input ring and not stamped ready yet. -/
def Stream.unstamped (r : Stream) : Nat :=
  if r.chunkSamples = 0 then 0 else (r.inStart + r.samples.length - r.redo - r.stampFirst) / r.chunkSamples

/-- The input index: samples taken so far (R301). -/
def Stream.inputIndex (r : Stream) : Nat := r.inStart + r.samples.length - r.redo

/-- Free positions of the input ring (R251). -/
def Stream.ringFree (r : Stream) : Nat := 4 * r.chunkSamples - (r.samples.length - r.redo)

/-- Samples enter the input ring at the input index. -/
def Stream.putSamples (r : Stream) (l : List Int) : Stream :=
  let keep := r.samples.length - r.redo
  { r with
    samples := r.samples.take keep ++ l ++ r.samples.drop (keep + l.length), redo := r.redo - l.length }

/-- Something of the stream is outstanding (R37). -/
def Stream.outstanding (r : Stream) : Bool := !r.chunks.isEmpty || decide (0 < r.unstamped)

/-- A chunk is running or awaits commit (R194). -/
def Stream.busy (r : Stream) : Bool := r.chunks.any fun c => c.pos == .running || c.pos == .committing

/-- Class order of step 3 of R47; a chunk with a pace violation goes in the B position (R50). -/
def Stream.rank (r : Stream) (c : Chunk) : Nat :=
  match r.cls with
  | .s => if c.pace then 2 else 0
  | .c => if c.pace then 2 else 1
  | .b => 2

/-- The order of step 3 of R47 over stream numbers, by their oldest outstanding chunks. -/
def State.before (s : State) (m n : Nat) : Bool :=
  let a := s.str m
  let b := s.str n
  match a.chunks, b.chunks with
  | c :: _, d :: _ =>
    let ra := a.rank c
    let rb := b.rank d
    if ra ≠ rb then decide (ra < rb)
    else if c.stamp ≠ d.stamp then decide (c.stamp < d.stamp)
    else decide (m < n)
  | _ :: _, [] => true
  | [], _ :: _ => false
  | [], [] => decide (m < n)

/-- D of R54. -/
def Chunk.deferral (c : Chunk) : Nat :=
  match c.passedOver, c.placedIn with
  | some a, some b => (b - a).toNat
  | _, _ => 0

/-- OUTCOME (R55). -/
def outcomeOf (shed : Bool) (lateness : Int) (td d w h : Nat) : Nat :=
  if shed then 4
  else if lateness ≤ (td : Int) - 5000 then 0
  else if w ≤ d ∧ h ≤ d then 3
  else if h ≤ w then 2
  else 1

/-! ### Degraded operation -/

/-- The source port of a stream is in a condition of the PORT cause (Table 15-3). -/
def State.portTrouble (s : State) (r : Stream) : Bool :=
  r.portSource &&
    let p := s.prt (bindPort r.source)
    p.rateFault || p.underrun != .none || p.noClock

/-- The condition causes of an S stream that hold (Table 15-3, bits 2 to 6). -/
def State.conditions (s : State) (n : Nat) : Nat :=
  let r := s.str n
  let G := s.grp r.home
  4 * b2n (!G.tests.isEmpty) + 8 * b2n G.capacityShort + 16 * b2n (s.portTrouble r)
    + 32 * b2n (G.unit != .enabled || G.expUnit != .enabled || s.cometUnit != .enabled || r.st == .moving)
    + 64 * b2n G.retiring.isSome

/-- Chunks that the recovery interval asks for (R335). -/
def State.recoveryChunks (s : State) (r : Stream) : Nat :=
  max 1 (ceilDiv (s.cfg.recoverMs * rateHz r.rate) (1000 * r.chunkSamples))

/-- A SAFE_S entry under the conditions `cond` and the event causes `events` (bits 0 and 1): an event, and the end
of the last condition, start the recovery interval (R335); the time of unbroken conditions is kept (R336). -/
def SafeS.update (e : SafeS) (cond events need now : Nat) : SafeS :=
  let had := bits e.causes.toNat 2 5 != 0
  let has := cond != 0
  let left := if events ≠ 0 then need else if had && !has then need else e.recoverLeft
  let ev := if events ≠ 0 then events else if left = 0 then 0 else bits e.causes.toNat 0 2
  { e with
    recoverLeft := left
    causes := BitVec.ofNat 8 (ev + cond + 128 * b2n (left != 0))
    degraded := has || left != 0
    condSince := if has then (if had && e.condSince.isSome then e.condSince else some now) else none }

/-- DEGRADED_ENTRIES of a SAFE_S entry. -/
def safeSEntries (i : Nat) : Nat := safeSReg i + 4

/-- S index `i` is judged afresh: a change from NORMAL to DEGRADED is counted and raises the cause (R335, R412). -/
def State.judge (s : State) (i events : Nat) : State :=
  let e := s.safeS i
  if e.valid then
    let e1 := e.update (s.conditions e.stream) events (s.recoveryChunks (s.str e.stream)) s.now
    let s1 := s.setSafeS i e1
    if e1.degraded && !e.degraded then (s1.count (safeSEntries i) 1).raiseInts [intDegraded] else s1
  else s

/-- Every S stream is judged afresh. -/
def State.judgeAll (s : State) : State := (s.safety.table.map (·.1)).foldl (fun s i => s.judge i 0) s

/-- An event cause of stream `n` (FAILED is bit 0, LATE bit 1 of Table 15-3). -/
def State.safetyEvent (s : State) (n events : Nat) : State :=
  match (s.str n).sIndex with
  | some i => s.judge i events
  | none => s

/-- A chunk of stream `n` committed on time: one fewer is left of the recovery interval (R335). -/
def State.recoverStep (s : State) (n : Nat) : State :=
  match (s.str n).sIndex with
  | some i =>
    let e := s.safeS i
    if 0 < e.recoverLeft then (s.setSafeS i { e with recoverLeft := e.recoverLeft - 1 }).judge i 0 else s
  | none => s

/-! ### Completion of a chunk -/

/-- Saturating counters of a stream table entry (R36). -/
def satAdd (a b : Nat) : Nat := min 0xFFFFFFFF (a + b)

/-- Counters of the device for a chunk completion (Table 19-7). -/
def devChunkCounter (status : Nat) : Nat :=
  if status = stSuccess then devCnt else if status = stShed then devCnt + 0x10 else devCnt + 0x08

def State.countChunk (s : State) (status outcome : Nat) : State :=
  let s1 := s.count64 (devChunkCounter status)
  if outcome < 4 then s1.count64 (devCnt + 0x18 + 8 * outcome) else s1

/-- How a chunk ends: status, completion stamp, and whether its service fields are formed (R53). -/
structure ChunkEnd where
  status : Nat
  stamp : Int
  measured : Bool := true
deriving DecidableEq, Repr

/-- The report of a chunk of stream `n` (Tables 2-6 and 13-3). -/
def chunkReport (r : Stream) (n : Nat) (c : Chunk) (e : ChunkEnd) (classWord : Nat) : ChunkReport :=
  let lat := e.stamp - c.stamp
  let d := c.deferral
  { stream := n, image := r.image, home := r.home, seq := c.seq, status := e.status
    scaleOut := e.status == stSuccess && c.scaleOut
    outcome := if e.measured then outcomeOf (e.status == stShed) lat r.td d c.w c.h else 0
    latenessUs := if e.measured then toUs lat else 0
    hold := if e.measured then c.h else 0
    swapUs := if e.measured then toUs c.w else 0
    deferUs := if e.measured then toUs d else 0
    classWord }

/-- The input of the chunk is freed in the stream's ring (R251), unless an older chunk still stands before it. -/
def Stream.freeInput (r : Stream) (upTo : Nat) : Stream :=
  { r with
    inStart := max r.inStart upTo
    samples := r.samples.drop (upTo - r.inStart)
    redo := min r.redo (r.samples.length - (upTo - r.inStart))
    marks := r.marks.filter fun m => decide (upTo ≤ m) }

/-- The stream after chunk `c`: its number is used up, its input is freed, its counters step (R36, R51, R62). A
commit takes the class word that the chunk wrote; any other end keeps it. -/
def Stream.afterChunk (r : Stream) (c : Chunk) (p : ChunkReport) : Stream :=
  let rest := r.chunks.filter fun d => d.seq != c.seq
  let next := match rest with
    | d :: _ => (d.seq, d.first)
    | [] => (r.stampSeq, r.stampFirst)
  ({ r with
    chunks := rest
    nextSeq := next.1
    nextSample := next.2
    classWord := p.classWord
    recSeq := if p.status = stSuccess then c.seq else r.recSeq
    done := satAdd r.done 1
    late := satAdd r.late (b2n (1 ≤ p.outcome && p.outcome ≤ 3))
    shed := satAdd r.shed (b2n (p.status == stShed))
    maxLate := max r.maxLate (min p.latenessUs 0xFFFFFFFF) } : Stream).freeInput next.2

/-- The chunk of stream `n` with number `seq` completes: stamped, counted, reported, and judged for the safety
state of an S stream (R31 step 4 and 5, R52 to R55, R335). -/
def State.completeChunk (s : State) (n : Nat) (c : Chunk) (e : ChunkEnd) : State :=
  let r := s.str n
  let p := chunkReport r n c e (if e.status = stSuccess then c.classWord else r.classWord)
  let s1 := s.setStr n (r.afterChunk c p)
  let s2 := s1.countChunk p.status p.outcome
  let s3 := if 1 ≤ p.outcome ∧ p.outcome ≤ 3 then s2.count (grpSvc r.home + 0x14) 1 else s2
  let s4 := if p.status = stShed then s3.count (grpSvc r.home + 0x0C) 1 else s3
  let s5 := s4.postChunk r.cq p
  if p.status ≠ stSuccess then s5.safetyEvent n 1
  else if p.outcome ≠ 0 then s5.safetyEvent n 2
  else s5.recoverStep n

/-- The oldest chunk of stream `n` ends with `status` at the group clock of now. -/
def State.endOldest (s : State) (n status : Nat) : State :=
  let r := s.str n
  match r.chunks with
  | c :: _ => s.completeChunk n c { status, stamp := s.clk r.home }
  | [] => s

/-- Every stamped chunk of stream `n` that `sel` names ends with `status` at the group clock of now. -/
def State.endChunks (s : State) (n status : Nat) (sel : Chunk → Bool) : State :=
  let r := s.str n
  (r.chunks.filter sel).foldl (fun s c => s.completeChunk n c { status, stamp := s.clk r.home }) s

/-- Complete chunks of stream `n` whose notice has not come end with `status`; the ending cycle serves as their
readiness stamp (Table 2-12). Fuel bounds their number. -/
def State.endUnstamped (n status : Nat) : Nat → State → State
  | 0, s => s
  | f + 1, s =>
    let r := s.str n
    if r.unstamped = 0 then s
    else
      let at_ := s.clk r.home
      let c : Chunk := { seq := r.stampSeq, first := r.stampFirst, stamp := at_ }
      let s1 := s.setStr n { r with
        stampSeq := (r.stampSeq + 1) % 2 ^ 32, stampFirst := r.stampFirst + r.chunkSamples, filled := r.filled.drop 1
        heldNotices := r.heldNotices.drop 1 }
      State.endUnstamped n status f (s1.completeChunk n c { status, stamp := at_ })

/-! ### Chunks of a stream, one by one -/

/-- Chunk `seq` of stream `n` changed by `f`. -/
def State.modChunk (s : State) (n seq : Nat) (f : Chunk → Chunk) : State :=
  s.modStr n fun r => { r with chunks := r.chunks.map fun c => if c.seq = seq then f c else c }

def State.chunkOf (s : State) (n seq : Nat) : Option Chunk := (s.str n).chunks.find? fun c => c.seq == seq

/-- The chunks of a list of pairs of stream and number, changed by `f`. -/
def State.modChunks (s : State) (cs : List (Nat × Nat)) (f : Chunk → Chunk) : State :=
  cs.foldl (fun s p => s.modChunk p.1 p.2 f) s

end Sys2Proof.Machine
end

