-- ==== Sys2Proof/Machine/Float.lean ====
section
/-! DEFINITION. Number formats and exact arithmetic: signed dyadic numbers, the float formats and rne_ helpers (R156 to
R162), f32s and ftree (R117, R125), correctly rounded functions (R139), the B4 grid (R166), decays (R190). The sign of
an exact zero follows IEEE 754 (notes/assumptions/18.md). -/

namespace Sys2Proof.Machine

/-! ### Exact dyadic numbers -/

/-- (−1)^neg × m × 2^e; a zero keeps its sign. -/
structure Dy where
  neg : Bool := false
  m : Nat := 0
  e : Int := 0
deriving DecidableEq, Repr

def Dy.ofInt (v : Int) : Dy := { neg := decide (v < 0), m := v.natAbs, e := 0 }
def Dy.negate (a : Dy) : Dy := { a with neg := !a.neg }
def Dy.abs (a : Dy) : Dy := { a with neg := false }
def Dy.isZero (a : Dy) : Bool := a.m == 0

/-- The signed mantissa at exponent `x`, for `x` at most the number's own exponent. -/
def Dy.intAt (a : Dy) (x : Int) : Int :=
  let v : Int := a.m * 2 ^ (a.e - x).toNat
  if a.neg then -v else v

/-- The exact sum; of two zeros, −0 only if both are. -/
def Dy.add (a b : Dy) : Dy :=
  if a.m = 0 then (if b.m = 0 then { neg := a.neg && b.neg } else b)
  else if b.m = 0 then a
  else
    let x := min a.e b.e
    let v := a.intAt x + b.intAt x
    { neg := decide (v < 0), m := v.natAbs, e := x }

def Dy.sub (a b : Dy) : Dy := a.add b.negate

/-- The exact product. -/
def Dy.mul (a b : Dy) : Dy := { neg := a.neg != b.neg, m := a.m * b.m, e := a.e + b.e }

/-- The number times 2^k. -/
def Dy.scale (a : Dy) (k : Int) : Dy := { a with e := a.e + k }

/-- a < b as real numbers. -/
def Dy.lt (a b : Dy) : Bool :=
  let x := min a.e b.e
  decide (a.intAt x < b.intAt x)

def Dy.eqv (a b : Dy) : Bool := !a.lt b && !b.lt a

/-- The exact sum of a list, from +0. -/
def dySum (l : List Dy) : Dy := l.foldl Dy.add {}

/-- ⌊log2 m⌋ + 1, the number of bits of `m`, with fuel. -/
def bitLenGo : Nat → Nat → Nat
  | 0, _ => 0
  | f + 1, m => if m = 0 then 0 else 1 + bitLenGo f (m / 2)
def bitLen (m : Nat) : Nat := bitLenGo 4096 m

/-- m ÷ 2^s to the nearest integer, ties to even. -/
def shiftRne (m s : Nat) : Nat :=
  let q := m / 2 ^ s
  let r2 := 2 * (m % 2 ^ s)
  if 2 ^ s < r2 ∨ (r2 = 2 ^ s ∧ q % 2 = 1) then q + 1 else q

/-- The integer nearest the number, ties to even (rne_int of R143 before its clamp). -/
def Dy.toInt (a : Dy) : Int :=
  let v : Nat := if 0 ≤ a.e then a.m * 2 ^ a.e.toNat else shiftRne a.m (-a.e).toNat
  if a.neg then -(v : Int) else v

/-! ### Float formats -/

/-- A float format (Table 7-2): fraction bits, exponent bits, bias, and its largest finite value. -/
structure FFmt where
  fb : Nat
  eb : Nat
  bias : Nat
  maxM : Nat
  maxE : Int
deriving DecidableEq, Repr

def fmtF32 : FFmt := ⟨23, 8, 127, 2 ^ 24 - 1, 104⟩
def fmtBf16 : FFmt := ⟨7, 8, 127, 2 ^ 8 - 1, 120⟩
def fmtE4m3 : FFmt := ⟨3, 4, 7, 14, 5⟩
def fmtE5m2 : FFmt := ⟨2, 5, 15, 7, 13⟩

/-- A code's value; NaN and infinity read as +0 (R158), and whether that was so. -/
def FFmt.decode (f : FFmt) (code : Nat) : Dy × Bool :=
  let frac := code % 2 ^ f.fb
  let ex := code / 2 ^ f.fb % 2 ^ f.eb
  let neg := code / 2 ^ (f.fb + f.eb) % 2 == 1
  let bad := if f.eb = 4 then ex == 15 && frac == 7 else ex == 2 ^ f.eb - 1
  if bad then ({}, true)
  else if ex = 0 then ({ neg, m := frac, e := 1 - (f.bias : Int) - f.fb }, false)
  else ({ neg, m := 2 ^ f.fb + frac, e := (ex : Int) - f.bias - f.fb }, false)

/-- rne_fmt (R160) as a value, and whether it has clamped. -/
def FFmt.round (f : FFmt) (a : Dy) : Dy × Bool :=
  if a.m = 0 then ({ neg := a.neg }, false)
  else
    let q : Int := 1 - (f.bias : Int) - f.fb
    let x : Int := max (a.e + bitLen a.m - 1 - f.fb) q
    let r : Nat := if x ≤ a.e then a.m * 2 ^ (a.e - x).toNat else shiftRne a.m (x - a.e).toNat
    let big : Dy := { m := f.maxM, e := f.maxE }
    if big.lt { m := r, e := x } then ({ big with neg := a.neg }, true)
    else ({ neg := a.neg, m := r, e := if r = 0 then 0 else x }, false)

/-- The code of a value that the format holds exactly. -/
def FFmt.encode (f : FFmt) (a : Dy) : Nat :=
  let s := if a.neg then 2 ^ (f.fb + f.eb) else 0
  if a.m = 0 then s
  else
    let q : Int := 1 - (f.bias : Int) - f.fb
    let x : Int := max (a.e + bitLen a.m - 1 - f.fb) q
    let r : Nat := if x ≤ a.e then a.m * 2 ^ (a.e - x).toNat else a.m / 2 ^ (x - a.e).toNat
    if r < 2 ^ f.fb then s + r else s + ((x - q).toNat + 1) * 2 ^ f.fb + (r - 2 ^ f.fb)

/-- f32s of an exact value, and whether it saturated (R117, R160). -/
def f32s (a : Dy) : Dy × Bool := fmtF32.round a

/-- The value of an FP32 code, and whether it was not finite. -/
def f32Val (x : F32) : Dy × Bool := fmtF32.decode x.toNat
def f32Code (a : Dy) : F32 := BitVec.ofNat 32 (fmtF32.encode a)

/-- The magnitude of a finite FP32 code, in units of 2^−149. -/
def f32Mag (x : F32) : Nat := ((f32Val x).1.abs.intAt (-149)).toNat

/-- f32s of a sum, with the saturation of both. -/
def f32Add (a b : Dy × Bool) : Dy × Bool :=
  let r := f32s (a.1.add b.1)
  (r.1, r.2 || a.2 || b.2)

/-- ftree of R125 over 2^k values. -/
def ftree : Nat → List Dy → Dy × Bool
  | 0, l => (l.getD 0 {}, false)
  | k + 1, l => f32Add (ftree k (l.take (2 ^ k))) (ftree k (l.drop (2 ^ k)))

/-! ### Correctly rounded functions (R139)

The functions are evaluated in fixed point with 512 fraction bits, far beyond the precision that decides the rounding
of any FP32 argument, and then rounded once. -/

def fxBits : Nat := 512
def fxOne : Int := 2 ^ fxBits

/-- Fixed-point value of a number, floored. -/
def Dy.toFx (a : Dy) : Int :=
  let x : Int := a.e + fxBits
  let v : Int := if 0 ≤ x then a.m * 2 ^ x.toNat else a.m / 2 ^ (-x).toNat
  if a.neg then -v else v

def fxDy (v : Int) : Dy := { neg := decide (v < 0), m := v.natAbs, e := -(fxBits : Int) }
def fxMul (a b : Int) : Int := a * b / fxOne

/-- Σ of the exponential series from term `n` on, with the present term. -/
def expSeries : Nat → Nat → Int → Int → Int
  | 0, _, _, _ => 0
  | f + 1, n, x, term => term + expSeries f (n + 1) x (fxMul term x / (n + 1 : Nat))

def fxSquares : Nat → Int → Int
  | 0, v => v
  | n + 1, v => fxSquares n (fxMul v v)

/-- e^x in fixed point for |x| below 128. -/
def fxExp (x : Int) : Int := fxSquares 12 (expSeries 100 0 (x / 4096) fxOne)

/-- Σ z^(2n+1) ÷ (2n+1). -/
def atanhSeries : Nat → Nat → Int → Int → Int
  | 0, _, _, _ => 0
  | f + 1, n, z2, p => p / (2 * n + 1 : Nat) + atanhSeries f (n + 1) z2 (fxMul p z2)

/-- ln of v ÷ 2^512 for v from 1 to 2 in fixed point. -/
def fxLog1 (v : Int) : Int :=
  let z := (v - fxOne) * fxOne / (v + fxOne)
  2 * atanhSeries 170 0 (fxMul z z) z
def fxLn2 : Int := fxLog1 (2 * fxOne)

/-- The greatest n with n × n × m at most 2^(2t), by its bits from 2^k down. -/
def rootBits (m t : Nat) : Nat → Nat → Nat
  | 0, n => n
  | k + 1, n =>
    let c := n + 2 ^ k
    rootBits m t k (if c * c * m ≤ 2 ^ (2 * t) then c else n)

/-- A value truncated at its last bit, with a sticky bit for what was cut. -/
def sticky (neg : Bool) (n : Nat) (cut : Bool) (e : Int) : Dy := { neg, m := 2 * n + (if cut then 1 else 0), e := e - 1 }

/-- 1 ÷ a. -/
def dyRcp (a : Dy) : Dy :=
  let n := 2 ^ 600 / a.m
  sticky a.neg n (2 ^ 600 % a.m != 0) (-600 - a.e)

/-- 1 ÷ √a for a > 0. -/
def dyRsqrt (a : Dy) : Dy :=
  let odd := a.e % 2 != 0
  let m := if odd then 2 * a.m else a.m
  let e := if odd then a.e - 1 else a.e
  let n := rootBits m 200 201 0
  sticky false n (n * n * m != 2 ^ 400) (-200 - e / 2)

/-- Magnitudes at or above this bound saturate or vanish in every function of e. -/
def hugeArg (a : Dy) : Bool := Dy.lt { m := 120 } a.abs

/-- e^a, a power of 2 far below or above every FP32 value for large arguments. -/
def dyExp (a : Dy) : Dy :=
  if a.m = 0 then { m := 1 }
  else if hugeArg a then { m := 1, e := if a.neg then -170 else 170 }
  else fxDy (fxExp a.toFx)

/-- ln a for a > 0. -/
def dyLog (a : Dy) : Dy :=
  let k := bitLen a.m - 1
  let ex : Int := a.e + k
  fxDy (fxLog1 ((a.m * 2 ^ (fxBits - k) : Nat) : Int) + ex * fxLn2)

/-- 1 ÷ (1 + e^−a). -/
def dySigmoid (a : Dy) : Dy :=
  if hugeArg a then (if a.neg then { m := 1, e := -170 } else { m := 1 })
  else fxDy (fxOne * fxOne / (fxOne + fxExp (-a.toFx)))

/-- tanh a. -/
def dyTanh (a : Dy) : Dy :=
  if a.m = 0 then a
  else if hugeArg a then { neg := a.neg, m := 1 }
  else
    let t := fxExp (-2 * a.abs.toFx)
    { fxDy ((fxOne - t) * fxOne / (fxOne + t)) with neg := a.neg }

/-- a ÷ (1 + e^−a). -/
def dySilu (a : Dy) : Dy :=
  if a.m = 0 then a
  else if hugeArg a then (if a.neg then { neg := true, m := 1, e := -160 } else a)
  else a.mul (fxDy (fxOne * fxOne / (fxOne + fxExp (-a.toFx))))

/-! ### Integers -/

/-- rshift_rne of R122. -/
def rshiftRne (x : Int) (s : Nat) : Int :=
  let q := x / (2 ^ s : Nat)
  let r2 := 2 * (x - q * (2 ^ s : Nat))
  if ((2 ^ s : Nat) : Int) < r2 ∨ (r2 = ((2 ^ s : Nat) : Int) ∧ q % 2 = 1) then q + 1 else q

/-- c(q) of the B4 grid (Table 7-5). -/
def b4Code (q : Nat) : Int :=
  let m : Nat := [5, 16, 27, 39, 53, 69, 90, 127].getD (q % 8) 0
  if 8 ≤ q % 16 then -(m : Int) else m

/-! ### Decays (R190) -/

/-- DT[m] as FP32 codes. -/
def decayTable : List Nat :=
  [0x3F800000, 0x3F7F4ECB, 0x3F7E9E11, 0x3F7DEDD2, 0x3F7D3E0C, 0x3F7C8EC0, 0x3F7BDFED, 0x3F7B3194
  , 0x3F7A83B3, 0x3F79D64A, 0x3F79295A, 0x3F787CE1, 0x3F77D0DF, 0x3F772555, 0x3F767A41, 0x3F75CFA4]
    ++ [0x3F75257D, 0x3F747BCC, 0x3F73D290, 0x3F7329C9, 0x3F728177, 0x3F71D99A, 0x3F713231, 0x3F708B3B
       , 0x3F6FE4BA, 0x3F6F3EAB, 0x3F6E9910, 0x3F6DF3E7, 0x3F6D4F30, 0x3F6CAAEC, 0x3F6C0719, 0x3F6B63B7]
    ++ [0x3F6AC0C7, 0x3F6A1E47, 0x3F697C38, 0x3F68DA99, 0x3F68396A, 0x3F6798AB, 0x3F66F85B, 0x3F665879
       , 0x3F65B907, 0x3F651A03, 0x3F647B6D, 0x3F63DD44, 0x3F633F89, 0x3F62A23C, 0x3F62055B, 0x3F6168E7]
    ++ [0x3F60CCDF, 0x3F603143, 0x3F5F9613, 0x3F5EFB4E, 0x3F5E60F5, 0x3F5DC706, 0x3F5D2D82, 0x3F5C9468
       , 0x3F5BFBB8, 0x3F5B6371, 0x3F5ACB94, 0x3F5A3421, 0x3F599D16, 0x3F590673, 0x3F587039, 0x3F57DA67]
    ++ [0x3F5744FD, 0x3F56AFFA, 0x3F561B5E, 0x3F558729, 0x3F54F35B, 0x3F545FF3, 0x3F53CCF1, 0x3F533A54
       , 0x3F52A81E, 0x3F52164C, 0x3F5184DF, 0x3F50F3D7, 0x3F506334, 0x3F4FD2F4, 0x3F4F4319, 0x3F4EB3A1]
    ++ [0x3F4E248C, 0x3F4D95DA, 0x3F4D078C, 0x3F4C799F, 0x3F4BEC15, 0x3F4B5EED, 0x3F4AD226, 0x3F4A45C1
       , 0x3F49B9BE, 0x3F492E1B, 0x3F48A2D8, 0x3F4817F7, 0x3F478D75, 0x3F470353, 0x3F467991, 0x3F45F02E]
    ++ [0x3F45672A, 0x3F44DE85, 0x3F44563F, 0x3F43CE57, 0x3F4346CD, 0x3F42BFA1, 0x3F4238D2, 0x3F41B261
       , 0x3F412C4D, 0x3F40A695, 0x3F40213B, 0x3F3F9C3C, 0x3F3F179A, 0x3F3E9353, 0x3F3E0F68, 0x3F3D8BD8]
    ++ [0x3F3D08A4, 0x3F3C85CA, 0x3F3C034A, 0x3F3B8126, 0x3F3AFF5B, 0x3F3A7DEA, 0x3F39FCD2, 0x3F397C14
       , 0x3F38FBAF, 0x3F387BA3, 0x3F37FBF0, 0x3F377C95, 0x3F36FD92, 0x3F367EE7, 0x3F360094, 0x3F358298]
    ++ [0x3F3504F3, 0x3F3487A6, 0x3F340AAF, 0x3F338E0E, 0x3F3311C4, 0x3F3295D0, 0x3F321A32, 0x3F319EE9
       , 0x3F3123F6, 0x3F30A957, 0x3F302F0E, 0x3F2FB519, 0x3F2F3B79, 0x3F2EC22D, 0x3F2E4934, 0x3F2DD090]
    ++ [0x3F2D583F, 0x3F2CE041, 0x3F2C6897, 0x3F2BF13F, 0x3F2B7A3A, 0x3F2B0387, 0x3F2A8D26, 0x3F2A1718
       , 0x3F29A15B, 0x3F292BEF, 0x3F28B6D5, 0x3F28420C, 0x3F27CD94, 0x3F27596C, 0x3F26E595, 0x3F26720E]
    ++ [0x3F25FED7, 0x3F258BEF, 0x3F251958, 0x3F24A70F, 0x3F243516, 0x3F23C36B, 0x3F23520F, 0x3F22E102
       , 0x3F227043, 0x3F21FFD2, 0x3F218FAF, 0x3F211FD9, 0x3F20B051, 0x3F204116, 0x3F1FD228, 0x3F1F6387]
    ++ [0x3F1EF532, 0x3F1E872A, 0x3F1E196E, 0x3F1DABFE, 0x3F1D3EDA, 0x3F1CD201, 0x3F1C6573, 0x3F1BF931
       , 0x3F1B8D3A, 0x3F1B218D, 0x3F1AB62B, 0x3F1A4B13, 0x3F19E046, 0x3F1975C2, 0x3F190B88, 0x3F18A197]
    ++ [0x3F1837F0, 0x3F17CE92, 0x3F17657D, 0x3F16FCB1, 0x3F16942D, 0x3F162BF2, 0x3F15C3FF, 0x3F155C53
       , 0x3F14F4F0, 0x3F148DD4, 0x3F1426FF, 0x3F13C072, 0x3F135A2B, 0x3F12F42C, 0x3F128E72, 0x3F122900]
    ++ [0x3F11C3D3, 0x3F115EED, 0x3F10FA4D, 0x3F1095F2, 0x3F1031DC, 0x3F0FCE0C, 0x3F0F6A81, 0x3F0F073B
       , 0x3F0EA43A, 0x3F0E417D, 0x3F0DDF04, 0x3F0D7CD0, 0x3F0D1ADF, 0x3F0CB933, 0x3F0C57CA, 0x3F0BF6A4]
    ++ [0x3F0B95C2, 0x3F0B3523, 0x3F0AD4C6, 0x3F0A74AD, 0x3F0A14D5, 0x3F09B541, 0x3F0955EE, 0x3F08F6DD
       , 0x3F08980F, 0x3F083981, 0x3F07DB35, 0x3F077D2B, 0x3F071F62, 0x3F06C1D9, 0x3F066491, 0x3F06078A]
    ++ [0x3F05AAC3, 0x3F054E3D, 0x3F04F1F6, 0x3F0495F0, 0x3F043A29, 0x3F03DEA1, 0x3F038359, 0x3F032850
       , 0x3F02CD87, 0x3F0272FC, 0x3F0218AF, 0x3F01BEA1, 0x3F0164D2, 0x3F010B41, 0x3F00B1ED, 0x3F0058D8]

/-- dec(K, x). -/
def decay (k : Nat) (x : Dy) : Dy :=
  if 300 < k / 256 then {}
  else (x.mul (fmtF32.decode (decayTable.getD (k % 256) 0)).1).scale (-(k / 256 : Nat))

end Sys2Proof.Machine
end

