-- ==== Sys2Proof/Machine/Audio.lean ====
section
/-! DEFINITION. The serial audio ports' data path: channels and their gain (R248, R249, R259), output rings (R252),
measurement windows and rate faults (R253 to R256), slips (R257, R258), underrun and drift (R260, R261), masks (R262),
frame 0 of an Equinox fire (R264), and resets (R266). -/

namespace Sys2Proof.Machine

/-! ### A port's settings -/

/-- Width in bits of a code of SLOT_BITS or SAMPLE_BITS (Table 11-7). -/
def bitsOfCode (c : Nat) : Nat := 16 + 8 * c

/-- Slots of a frame. -/
def Port.slotCount (p : Port) : Nat := p.slots + 1

/-- The nominal frame rate in Hz. -/
def Port.hz (p : Port) : Nat := rateHz p.rate

/-- N of R259. -/
def Port.rampLen (p : Port) : Nat := ceilDiv ((p.rampMs + 1) * p.hz) 1000

/-- An enabled port whose data path is neither in reset nor off: in DISABLED its frame clock is still watched (R255,
Table 13-9). -/
def Port.clocked (p : Port) : Bool := p.en && p.unit != .resetting && p.unit != .off

/-- The port's data path works: DISABLED takes no work (Table 13-8; notes/assumptions/43.md). -/
def Port.works (p : Port) : Bool := p.clocked && p.unit != .disabled

/-- The filler of R250. -/
def Port.filler (p : Port) : List (List Int) := List.replicate 4 (List.replicate p.slotCount 0)

/-- Signed 32-bit counters saturate at their range (R267). -/
def satI32 (v : Int) : Int := clampInt (-(2 ^ 31)) (2 ^ 31 - 1) v
def Port.driftR (p : Port) (d : Int) : Port := { p with driftRx := satI32 (p.driftRx + d) }
def Port.driftT (p : Port) (d : Int) : Port := { p with driftTx := satI32 (p.driftTx + d) }

/-- Counters of Tables 11-7 and 11-9. -/
def apRxDrops (p : Nat) : Nat := apPort p + 0x1C
def apRxRepeats (p : Nat) : Nat := apPort p + 0x20
def apTxDrops (p : Nat) : Nat := apPort p + 0x24
def apTxRepeats (p : Nat) : Nat := apPort p + 0x28
def apUnderruns (p : Nat) : Nat := apPort p + 0x2C
def apRxFull (p : Nat) : Nat := apPort p + 0x30
def apTxEmpty (p : Nat) : Nat := apPort p + 0x34
def apMaxWrite (p : Nat) : Nat := apPort p + 0x48
def chDiscarded (p k d : Nat) : Nat := apCh p k d + 0x08
def chMissing (p k d : Nat) : Nat := apCh p k d + 0x0C

/-! ### PORT_INT and the audio interrupt -/

/-- The port's bit of AUD_INT_SUM (R255). -/
def Port.summary (p : Port) : Bool := (p.int &&& p.intEn) != 0

/-- A port changed by `f`; a rise of its summary bit sets the AUDIO cause (R412). -/
def State.modPortInt (s : State) (p : Nat) (f : Port → Port) : State :=
  let was := (s.prt p).summary
  let s1 := s.modPrt p f
  if !was && (s1.prt p).summary then s1.raiseInts [intAudio] else s1

/-- Causes of a port occur: PORT_INT bits are set, and recorded (R255, Table 16-2). -/
def State.portCause (s : State) (p : Nat) (causes : BitVec 4) : State :=
  if causes = 0 then s
  else (s.modPortInt p fun r => { r with int := r.int ||| causes }).logEvent 0x0172 p noUnit 0 (leBytes 1 causes.toNat)

/-! ### Gain -/

/-- π with 128 fraction bits. -/
def fxPi : Nat := 1069028584064966747859680373161870783300


/-- One more term of the series: −t x² / ((2i + 1)(2i + 2)). -/
def cosTerm (x2 : Int) (i : Nat) (t : Int) : Int := -(t * x2 / 2 ^ 128) / (((2 * i + 1) * (2 * i + 2) : Nat) : Int)

def cosSum (x2 : Int) : Nat → Nat → Int → Int
  | 0, _, _ => 0
  | f + 1, i, t => t + cosSum x2 f (i + 1) (cosTerm x2 i t)

/-- cos(π k ÷ m) with 128 fraction bits. -/
def cosPi (k m : Nat) : Int :=
  let x : Int := ((fxPi * k / m : Nat) : Int)
  cosSum (x * x / 2 ^ 128) 40 0 (2 ^ 128)

/-- q15(k, m) of R259. -/
def q15 (k m : Nat) : Int :=
  if m = 0 ∨ k = 0 then 0 else if m ≤ k then 32768 else rshiftRne (2 ^ 128 - cosPi k m) 114

/-- gain_step of R259, with `n` the ramp length N; a new RAMP_MS takes effect at full gain too. -/
def Chan.gainStep (c0 : Chan) (n : Nat) (live : Bool) (avail : Nat) (fading : Bool) : Chan :=
  let c := if c0.newRamp && !fading && c0.k == c0.m then { c0 with k := n, m := n, newRamp := false } else c0
  let k := if !live || decide (avail ≤ c.k) then c.k - 1 else if c.k < c.m then c.k + 1 else c.k
  if k = 0 then { c with k, m := n, newRamp := false, live } else { c with k, live }

/-- gained of R259. -/
def Chan.gained (c : Chan) (x : Int) : Int := rshiftRne (x * q15 c.k c.m) 15

/-- A value x in the stream's sample format (R249). -/
def toSample (sfmt : Bool) (x : Int) : Int := if sfmt then x else clampInt (-32768) 32767 (rshiftRne x 16)
def ofSample (sfmt : Bool) (v : Int) : Int := if sfmt then v else 65536 * v

/-! ### Bindings (R248, R264) -/

/-- The port's Equinox group: number and state. -/
def State.eqxGroup (s : State) (p : Nat) : Option Nat := (List.range 4).find? fun e => (s.eqxOf e).members.getLsbD p

/-- A channel bound on the port waits for a fire (R263). -/
def State.portArmed (s : State) (p : Nat) : Bool :=
  (s.prt p).frame0At.isSome || (match s.eqxGroup p with
    | some e => (s.eqxOf e).st == 1 || (s.eqxOf e).st == 2
    | none => false)

/-- A binding word names a channel that a stream of this rate, chunk length and image can have (R248). -/
def State.bindOk (s : State) (w : BitVec 32) (sink : Bool) (rate chunk audioOut : Nat) : Bool :=
  let p := s.prt (bindPort w)
  p.en && decide (bindSlot w < p.slotCount) && rate == p.rate
    && !(s.chn (bindPort w) (bindSlot w) (b2n sink)).bound
    && (if sink then decide (bindLead w ≤ 2 * chunk) && bit audioOut rate else bindLead w == 0)

/-- A channel is bound to stream `n`, and started unless its port is armed. -/
def State.bindChan (s : State) (w : BitVec 32) (n : Nat) (sink : Bool) : State :=
  if bindKind w = 1 then
    let p := bindPort w
    s.setChn p (bindSlot w) (b2n sink)
      { stream := n, bound := true, started := !s.portArmed p, m := (s.prt p).rampLen }
  else s

/-- A stream's channels are given up: committed samples of a transmit channel still play to their end (R259). -/
def State.unbindChan (s : State) (w : BitVec 32) (sink : Bool) : State :=
  if bindKind w = 1 then
    let p := bindPort w
    let k := bindSlot w
    let c := s.chn p k (b2n sink)
    s.setChn p k (b2n sink) (if sink && c.started && !c.present.isEmpty then { c with stream := 0, bound := false } else {})
  else s

def State.unbind (s : State) (n : Nat) : State :=
  let r := s.str n
  (s.unbindChan r.source false).unbindChan r.sink true

/-- Every stream bound to a channel of port `p`. -/
def State.boundStreams (s : State) (p : Nat) : List Nat :=
  (((List.range 64).filterMap fun i =>
    let c := s.chn p (i / 2) (i % 2)
    if c.bound then some c.stream else none)).eraseDups

/-! ### Outputs (R252, R302) -/

/-- Samples of an output of stream `r` from its staged bytes, as x values. -/
def outSamples (r : Stream) (bytes : List Byte) : List Int :=
  let sfmt := bindSfmt r.sink
  let w := if sfmt then 4 else 2
  ((pieces w (min r.chunkSamples (bytes.length / w)) bytes).map fun b => ofSample sfmt (sext (8 * w) (leNat b)))

/-- The samples of a commit from position `first` join a transmit channel's output ring. -/
def Chan.receive (c : Chan) (first : Int) (chunk : Nat) (xs : List Int) : Chan × Nat :=
  let x0 := c.xc.getD first
  let placed := (List.range xs.length).map fun (i : Nat) => (first + (i : Int), xs.getD i 0)
  let top := x0 + 4 * chunk
  let fits := placed.filter fun e => decide (x0 ≤ e.1 ∧ e.1 < top)
  let past := placed.filter fun e => decide (top ≤ e.1)
  ({ c with present := c.present ++ fits }, past.length)

/-- Commit step 3 of chunk `c` of stream `n` (R31, R252, R302). -/
def State.deliverOutput (s : State) (n seq : Nat) (first : Nat) (bytes : List Byte) : State :=
  let r := s.str n
  match bindKind r.sink with
  | 1 =>
    let p := bindPort r.sink
    let k := bindSlot r.sink
    let c0 := s.chn p k 1
    let c1 := if !r.firstOut && c0.xc.isNone then { c0 with xc := some ((first : Int) - bindLead r.sink) } else c0
    let (c2, past) := c1.receive first r.chunkSamples (outSamples r bytes)
    ((s.setChn p k 1 c2).setStr n { r with firstOut := true }).count (chDiscarded p k 1) past
  | 2 => s.hostWriteRelaxed (r.outBase + seq % bindOutSlots r.sink * bytes.length) bytes
  | _ => s

/-! ### Underrun and rate fault -/

/-- A channel's gain as the fade of the underrun sequence starts (R260). -/
def Chan.shorten (c : Chan) (n : Nat) : Chan :=
  let m := min n 64
  if c.m = 0 then c else { c with k := ceilDiv (c.k * m) c.m, m }

/-- The channels of port `p`, direction `d`, each changed by `f`. -/
def State.mapChans (s : State) (p d : Nat) (f : Chan → Chan) : State :=
  (List.range 32).foldl (fun s k => s.setChn p k d (f (s.chn p k d))) s

/-- The delay line has drained: the frames in the FIFO move into it (R260). -/
def Port.toSilence (r : Port) : Port := { r with underrun := .silence, delayLine := r.rxFifo, rxFifo := [] }

/-- The receive chain enters the underrun sequence, unless it is in it (R260). -/
def State.enterUnderrun (s : State) (p : Nat) : State :=
  let r := s.prt p
  if r.underrun != .none then s
  else
    let s1 := s.mapChans p 0 fun c => if c.started then c.shorten r.rampLen else c
    let s2 := s1.modPrt p fun r =>
      let r1 : Port := { r with underrun := .fade, slipRx := none, slipTx := none, repeatRx := none }
      if r1.delayLine.isEmpty then r1.toSilence else r1
    (s2.count (apUnderruns p) 1).judgeAll

/-- RATE_FAULT changes (R256). -/
def State.setRateFault (s : State) (p : Nat) (on : Bool) : State :=
  let r := s.prt p
  if r.rateFault = on then s
  else if on then
    let s1 := s.modPrt p fun r => { r with rateFault := true, txFifo := [], slipTx := none, slipRx := none }
    ((s1.enterUnderrun p).portCause p 0b0100).judgeAll
  else
    ((s.modPrt p fun r => ({ r with rateFault := false, txFifo := r.filler } : Port).driftT 4).portCause p 0b0100).judgeAll

/-! ### Measurement (R253 to R255) -/

/-- CTRL counts of a window and of a sub-window. -/
def windowCtrl : Nat := 625000000
def subWindowCtrl : Nat := 6250000

/-- A stamp falls in a window. -/
def Window.add (w : Window) (idx stamp : Nat) : Window :=
  if w.n = 0 ∨ w.idx ≠ idx then { idx, first := stamp, last := stamp, n := 1 } else { w with last := stamp, n := w.n + 1 }

/-- Current and next window after a stamp: one beyond the current window's end waits in the next. -/
def addStamp (len stamp : Nat) (cur next : Window) : Window × Window :=
  let idx := stamp / len
  if cur.n = 0 ∨ cur.idx = idx then (cur.add idx stamp, next)
  else if next.n = 0 ∨ next.idx = idx then (cur, next.add idx stamp)
  else (next, ({} : Window).add idx stamp)

/-- rne_div: a ÷ b to nearest, ties to even. -/
def rneDiv (a : Int) (b : Nat) : Int :=
  let q := a / (b : Int)
  let r := a % (b : Int)
  if 2 * r < b then q else if (b : Int) < 2 * r then q + 1 else if q % 2 = 0 then q else q + 1

/-- measure of R253: rate in mHz and deviation in ppb. -/
def Window.measure (w : Window) (hz : Nat) : Option (Nat × Int) :=
  if w.n < 2 then none
  else
    let rate := (rneDiv ((625000000000 * (w.n - 1) : Nat) : Int) (w.last - w.first)).toNat
    some (rate, rneDiv (1000000000 * ((rate : Int) - 1000 * hz)) (1000 * hz))

/-- The code as which a rate classifies (R254). -/
def classify (mhz : Nat) : Option Nat :=
  (List.range 13).find? fun c =>
    decide (1000000 * (((mhz : Int) - 1000 * rateHz c).natAbs) ≤ 1000 * (1000 * rateHz c))

/-- The family of a code: 1 the 48 kHz family, 2 the 44.1 kHz family; 0 for none (R254). -/
def familyOf : Option Nat → Nat
  | none => 0
  | some c => if [1, 4, 7, 9, 11].contains c then 2 else 1

/-- A window of port `p` ends with a valid measurement (R254 to R256). -/
def State.windowResult (s : State) (p rate : Nat) (dev : Int) : State :=
  let r := s.prt p
  let code := classify rate
  let fam := familyOf code
  let moved := match r.refMhz with
    | some x => r.rateThresh != 0 && decide (r.rateThresh * x < 1000000 * ((rate : Int) - x).natAbs)
    | none => false
  let family := match r.family with
    | some f => f != fam
    | none => false
  let s1 := s.modPrt p fun r =>
    { r with
      rateMhz := rate, devPpb := satI32 dev, codeValid := code.isSome, code := code.getD 0, family := some fam
      refMhz := if moved || r.refMhz.isNone then some rate else r.refMhz }
  let s2 := s1.portCause p (BitVec.ofNat 4 (b2n moved + 2 * b2n family))
  if 1000000 < dev.natAbs then s2.setRateFault p true
  else if dev.natAbs ≤ 500000 then s2.setRateFault p false else s2

/-! ### Frame starts (R253, R262, R264) -/

/-- Frame 0's samples are to be written at NEXT_SAMPLE (R264): what the ring holds from there on of chunks already stamped
stands until they replace it, and a chunk that is incomplete is given up (notes/assumptions/24.md). -/
def Stream.rewind (r : Stream) : Stream :=
  let keep := r.samples.take (r.stampFirst - r.inStart)
  { r with samples := keep, redo := keep.length - (r.nextSample - r.inStart), filled := [] }

/-- Frame 0 of an Equinox fire at port `p`, in the CTRL cycle `stamp` (R264; notes/assumptions/24.md). -/
def State.frameZero (s : State) (p stamp : Nat) : State :=
  let s1 := s.modPrt p fun r =>
    { r with
      frame0At := none, paceAcc := 0, paceCtrl := stamp, driftRx := 0, driftTx := 0, rxFifo := [], delayLine := []
      underrun := .silence, aligning := true, since := s.life.ctrlBase + 4 * stamp, slipRx := none, slipTx := none, repeatRx := none
      txFifo := if r.rateFault then [] else r.filler }
  let n := (s.prt p).rampLen
  (List.range 32).foldl (fun s k =>
    let rx := s.chn p k 0
    let s2 :=
      if rx.bound then
        (s.setChn p k 0 { rx with started := true, k := 0, m := n, newRamp := false }).modStr rx.stream Stream.rewind
      else s
    let tx := s2.chn p k 1
    if tx.bound then
      let r := s2.str tx.stream
      let x : Int := (r.nextSample : Int) - bindLead r.sink + 4
      s2.setChn p k 1 { tx with
        started := true, k := 0, m := n, newRamp := false, xc := some x
        present := tx.present.filter fun e => decide (x ≤ e.1) }
    else s2) s1

/-- The frame clock of a master counts from `at_`. -/
def Port.restartClock (r : Port) (at_ : Nat) : Port := if r.master then { r with clockHeld := false, clock := some at_ } else r

/-- The start that the frame clock counts from once a frame starts at `at_`: a master's first start fixes it. -/
def Port.clockFrom (r : Port) (at_ : Nat) : Option Nat := if r.master && r.clock.isNone then some at_ else r.clock

/-- A frame start of a port falls at time `at_`: at any time on a slave; on a master at the exact nominal rate from the start
that its clock counts from, with its edge late by less than the jitter (R245: 1.6 ns, or 10 ns with AUDIO_SYN from REFCLK). -/
def Port.startsAt (r : Port) (onRefclk : Bool) (at_ : Nat) : Bool :=
  !r.master || (match r.clock with
    | none => true
    | some x => decide (x ≤ at_) && decide ((at_ - x) * r.hz % 2500000000 < (if onRefclk then 25 else 4) * r.hz))

/-- AMCLK runs while any port is enabled (R245). -/
def State.amclkRuns (s : State) : Bool := (List.range 16).any fun p => (s.prt p).en

/-- Measurement and reception begin afresh where the data path takes up work (R253, R306). -/
def Port.measureAfresh (r : Port) (now : Nat) : Port :=
  { r with window := {}, windowNext := {}, subWindow := {}, subNext := {}, since := now }

/-- A frame start of port `p` at time `at_` is stamped, once: measurement windows, NO_CLOCK, the receive mask, and
frame 0 of a fire (R253, R255, R262, R264). -/
def State.frameStart (s : State) (p at_ : Nat) : State :=
  let r := s.prt p
  if at_ ≤ r.lastStart ∨ at_ < s.life.ctrlBase then s
  else
    let stamp := (at_ - s.life.ctrlBase) / 4
    let (w, wn) := addStamp windowCtrl stamp r.window r.windowNext
    let (b, bn) := addStamp subWindowCtrl stamp r.subWindow r.subNext
    let s1 := s.setPrt p { r with
      window := w, windowNext := wn, subWindow := b, subNext := bn, lastStart := at_, clock := r.clockFrom at_, noClock := false
      rxLatchedPrev := r.rxLatched, rxLatched := r.rxMask }
    let s2 := if r.noClock then s1.judgeAll else s1
    match r.frame0At with
    | some x => if x ≤ stamp then (s2.frameZero p stamp).judgeAll else s2
    | none => s2

/-! ### Slips (R257, R258) -/

/-- choose_w of R258 over frames f[-1], f[0] … given as lists of the channels' values. -/
def chooseW (f : List (List Int)) : Nat :=
  let at_ (i j : Nat) : Int := (f.getD i []).getD j 0
  let n := (f.getD 1 []).length
  let metric (w : Nat) : Nat :=
    sumOf ((List.range n).map fun j => (at_ (w + 1) j - at_ w j).natAbs + (at_ (w + 2) j - at_ (w + 1) j).natAbs)
  ((List.range 64).foldl (fun (b : Option (Nat × Nat)) w =>
    let m := metric w
    match b with
    | some (_, best) => if m < best then some (w, m) else b
    | none => some (w, m)) none).map (·.1) |>.getD 0

/-- Slots of port `p` whose channel of direction `d` is bound and started. -/
def State.activeSlots (s : State) (p d : Nat) : List Nat :=
  (List.range 32).filter fun k => (s.chn p k d).bound && (s.chn p k d).started

/-- The drop or repeat that a FIFO level makes due (R257): true for a drop. -/
def slipFor (level : Nat) : Option Bool := if 6 ≤ level then some true else if level ≤ 2 then some false else none

/-- A slip of the receive direction becomes due after a tick's pull. -/
def State.dueRx (s : State) (p : Nat) : State :=
  let r := s.prt p
  let slots := s.activeSlots p 0
  if slots.isEmpty || r.slipRx.isSome || r.rateFault || r.underrun != .none then s
  else match slipFor r.rxFifo.length with
    | some drop =>
      let pick (l : List Int) : List Int := slots.map fun k => l.getD k 0
      let w := chooseW (pick r.lastRx :: r.delayLine.map fun f => pick f.slots)
      s.setPrt p { r with slipRx := some { drop, w, ticks := 0 } }
    | none => s

/-- The raw value of a transmit channel at position `x`, 0 where absent. -/
def Chan.rawAt (c : Chan) (x : Int) : Int := ((c.present.find? fun e => e.1 == x).map (·.2)).getD 0

/-- A slip of the transmit direction becomes due after a tick's push. -/
def State.dueTx (s : State) (p : Nat) : State :=
  let r := s.prt p
  let slots := s.activeSlots p 1
  if slots.isEmpty || r.slipTx.isSome || r.rateFault || r.underrun != .none then s
  else match slipFor r.txFifo.length with
    | some drop =>
      let chans := slots.map fun k => s.chn p k 1
      let frame (i : Nat) : List Int := chans.map fun c => match c.xc with
        | some x => c.rawAt (x + i)
        | none => 0
      let w := chooseW ((slots.map fun k => r.lastTx.getD k 0) :: (List.range 65).map frame)
      s.setPrt p { r with slipTx := some { drop, w, ticks := 0 } }
    | none => s

/-! ### Emission of one tick (R250) -/

/-- A receive channel steps its gain and emits (R259): raw value `x`, `live` as Table 11-5, `silence` for a frame of the
underrun's silence. -/
def State.emitRx (s : State) (p k : Nat) (x : Int) (live silence : Bool) : State :=
  let c := s.chn p k 0
  if !(c.bound && c.started) then s
  else
    let P := s.prt p
    let r := s.str c.stream
    let avail := r.ringFree
    let c1 := c.gainStep P.rampLen live avail (P.underrun == .fade)
    let s1 := (s.setChn p k 0 c1).count (chMissing p k 0) (b2n silence)
    if (silence && P.aligning) || r.st == .closing then s1
    else if avail = 0 then s1.count (chDiscarded p k 0) 1
    else
      let r1 := r.putSamples [toSample (bindSfmt r.source) (c1.gained x)]
      let due := r1.rowDue r.inputIndex
      (s1.setStr c.stream
        { r1 with filled := if r.unstamped < r1.unstamped then r.filled ++ [s.now] else r.filled }).putRing c.stream
        (r.inputIndex + 1 - due) due

/-- A frame, or none for silence, is emitted to every receive channel. -/
def State.emitFrame (s : State) (p : Nat) (f : Option Frame) : State :=
  let live := (s.prt p).underrun == .none
  let s1 := (List.range 32).foldl (fun s k => match f with
    | some f => s.emitRx p k (f.slots.getD k 0) (live && f.mask.getLsbD k) false
    | none => s.emitRx p k 0 false true) s
  s1.modPrt p fun r =>
    let r1 : Port := { r with lastRx := match f with
      | some f => f.slots
      | none => [] }
    if f.isNone && !r1.aligning then r1.driftR (-1) else r1

/-- A tick of the underrun sequence (R260). -/
def State.underrunTick (s : State) (p : Nat) : State :=
  let r := s.prt p
  match r.underrun, r.delayLine with
  | .fade, f :: rest =>
    let s1 := (s.setPrt p { r with delayLine := rest }).emitFrame p (some f)
    if rest.isEmpty then s1.modPrt p Port.toSilence else s1
  | _, _ => s.emitFrame p none

/-- Frames of the FIFO that a tick pulls into the delay line. -/
def Port.pull (r : Port) (n : Nat) : Port := { r with delayLine := r.delayLine ++ r.rxFifo.take n, rxFifo := r.rxFifo.drop n }

/-- A normal tick of the receive chain, with the slip that takes effect in it (R258); a delay line that is short, as after
EN, is an underrun too (notes/assumptions/40.md). -/
def State.normalTick (s : State) (p : Nat) : State :=
  let r := s.prt p
  match r.repeatRx with
  | some f => (s.setPrt p { r with repeatRx := none, slipRx := none }).emitFrame p (some f)
  | none =>
    let slip := r.slipRx.map fun x => { x with ticks := x.ticks + 1 }
    let now? := match slip with
      | some x => x.ticks == x.w + 1
      | none => false
    let drop := now? && (match slip with
      | some x => x.drop
      | none => false)
    let pulls := if drop then 2 else 1
    if r.rxFifo.length < pulls || decide (r.delayLine.length < 65) then (s.enterUnderrun p).underrunTick p
    else
      let r1 := ({ r with slipRx := if now? then none else slip } : Port).pull pulls
      match drop, r1.delayLine with
      | true, _ :: f :: rest =>
        (((s.setPrt p (({ r1 with delayLine := rest } : Port).driftR 1)).emitFrame p (some f)).count (apRxDrops p) 1)
      | false, f :: rest =>
        if now? then
          (((s.setPrt p (({ r1 with delayLine := rest, repeatRx := some f } : Port).driftR (-1))).emitFrame p
            (some f)).count (apRxRepeats p) 1)
        else ((s.setPrt p { r1 with delayLine := rest }).emitFrame p (some f)).dueRx p
      | _, _ => s

/-- The receive chain at a tick (R250, R260). -/
def State.rxTick (s : State) (p : Nat) : State :=
  let r := s.prt p
  if r.underrun == .silence && !r.rateFault && decide (65 ≤ r.delayLine.length) && decide (4 ≤ r.rxFifo.length) then
    ((s.setPrt p { r with underrun := .none, aligning := false }).judgeAll).normalTick p
  else if r.underrun == .none then s.normalTick p
  else s.underrunTick p

/-- Consecutive present samples from position `x`. -/
def runFrom : Int → List (Int × Int) → Nat
  | _, [] => 0
  | x, (y, _) :: rest => if y = x then 1 + runFrom (x + 1) rest else 0

/-- A transmit channel steps its gain and emits: the state, its raw value and its gained value (R252, R259, Table 11-5).
Until the stream's first output commits no sample is present; a pointer that is set advances at every tick, whether the
channel is started or not. -/
def State.emitTx (s : State) (p k : Nat) : State × Int × Int :=
  let c := s.chn p k 1
  let pass (c : Chan) : Chan := match c.xc with
    | some x => { c with xc := some (x + 1), present := c.present.filter fun e => decide (x < e.1) }
    | none => c
  if !c.started then (if c.xc.isSome then s.setChn p k 1 (pass c) else s, 0, 0)
  else
    let P := s.prt p
    let live := P.txLatched.getLsbD k && !P.rateFault
    let x := c.xc.getD 0
    let avail := if c.xc.isSome then runFrom x c.present else 0
    let c1 := c.gainStep P.rampLen live avail false
    let raw := if c.xc.isSome then c.rawAt x else 0
    let out := if avail = 0 then 0 else c1.gained raw
    let c2 := pass c1
    let c3 : Chan := if !c.bound && c2.present.isEmpty then {} else c2
    ((s.setChn p k 1 c3).count (chMissing p k 1) (b2n (avail == 0 && live)), raw, out)

/-- A pushed frame enters the transmit FIFO or is discarded (R261). -/
def Port.push (r : Port) (f : List Int) : Port :=
  if r.rateFault || decide (8 ≤ r.txFifo.length) then r.driftT (-1) else { r with txFifo := r.txFifo ++ [f] }

/-- The transmit chain at a tick (R250, R258, R262). -/
def State.txTick (s : State) (p : Nat) : State :=
  let s0 := s.modPrt p fun r => { r with txLatched := r.txMask }
  let n := (s0.prt p).slotCount
  let (s1, raws, outs) := (List.range 32).foldl (fun (a : State × List Int × List Int) k =>
    let (s, raw, out) := a.1.emitTx p k
    (s, a.2.1 ++ [raw], a.2.2 ++ [out])) (s0, [], [])
  let f := outs.take n
  let r : Port := { s1.prt p with lastTx := raws }
  let slip := r.slipTx.map fun x => { x with ticks := x.ticks + 1 }
  match slip with
  | some x =>
    if x.ticks = x.w + 1 then
      let r1 : Port := { r with slipTx := none }
      if x.drop then (s1.setPrt p (r1.driftT (-1))).count (apTxDrops p) 1
      else (s1.setPrt p (((r1.push f).push f).driftT 1)).count (apTxRepeats p) 1
    else s1.setPrt p (({ r with slipTx := slip } : Port).push f)
  | none => (s1.setPrt p (r.push f)).dueTx p

/-! ### EN and resets (R250, R261, R266) -/

/-- The chains at EN: receive empty, transmit with its filler. -/
def Port.atEn (r : Port) (now ctrl : Nat) : Port :=
  { r with
    paceAcc := 0, paceCtrl := ctrl, driftRx := 0, driftTx := 0, rxFifo := [], delayLine := [], repeatRx := none
    slipRx := none, slipTx := none, lastRx := [], lastTx := [], refMhz := none, family := none, window := {}
    windowNext := {}, subWindow := {}, subNext := {}, lastStart := now, since := now
    underrun := if r.rateFault then .silence else .none
    txFifo := if r.rateFault then [] else r.filler }

/-- EN falls: the chains hold nothing. -/
def Port.atDis (r : Port) : Port :=
  { r with
    rxFifo := [], delayLine := [], txFifo := [], repeatRx := none, slipRx := none, slipTx := none, underrun := .none
    aligning := false, clockHeld := false, frame0At := none, clock := none }

/-- The data path of a port in reset: PORT_CFG, masks and the state of the unit stay (R266, R267). -/
def Port.resetPath (r : Port) : Port :=
  { ({} : Port) with
    unit := r.unit, heldBy := r.heldBy, resetToOff := r.resetToOff, en := r.en, master := r.master, format := r.format
    delay := r.delay, slotBits := r.slotBits, sampleBits := r.sampleBits, slots := r.slots, rate := r.rate
    rampMs := r.rampMs, tapped := r.tapped, rxMask := r.rxMask, txMask := r.txMask, lastStart := r.lastStart
    clockHeld := r.clockHeld, clock := r.clock }

/-- Offsets of a port's counters, and of its channels' counters. -/
def portCounters (p : Nat) : List Nat :=
  [apRxDrops p, apRxRepeats p, apTxDrops p, apTxRepeats p, apUnderruns p, apRxFull p, apTxEmpty p, apMaxWrite p]
    ++ (List.range 64).flatMap fun i => [chDiscarded p (i / 2) (i % 2), chMissing p (i / 2) (i % 2)]

/-- The data path of port `p` goes into reset, its bindings kept (R266). -/
def State.resetPort (s : State) (p : Nat) : State :=
  (portCounters p).foldl (fun s o => s.setCtr o 0) (s.modPrt p Port.resetPath)

/-- The data path of port `p` leaves a partial reset: receive channels resume through phase 3 of R260, transmit channels
at their pointers, with the filler (R250, R261, R266). -/
def State.resumePort (s : State) (p : Nat) : State :=
  let n := (s.prt p).rampLen
  let s1 := (s.mapChans p 0 fun c => if c.bound then { c with k := 0, m := n, newRamp := false } else c).mapChans p 1
    fun c => if c.started then { c with k := 0, m := n, newRamp := false } else c
  s1.modPrt p fun r =>
    if r.en then
      ({ r with
        underrun := .silence, txFifo := r.filler, paceAcc := 0, paceCtrl := s.ctrl, lastStart := s.now
        since := s.now, rxLatched := r.rxMask, rxLatchedPrev := r.rxMask } : Port).driftT 4
    else r

end Sys2Proof.Machine
end

