-- ==== Sys2Proof/Machine/Crypto.lean ====
section
/-! DEFINITION. The checks and ciphers that the spec names by their standards: CRC-32C, SHA-256, SHA-384, HMAC and
HKDF, AES-256 with XTS and key wrap, HSS signatures (RFC 8554), and ECDH and ECDSA on P-384
(notes/assumptions/13.md). -/

namespace Sys2Proof.Machine

/-! ### CRC-32C -/

/-- One bit of CRC-32C, reflected. -/
def crcBits : Nat → Nat → Nat
  | 0, c => c
  | n + 1, c => crcBits n (if c % 2 = 1 then (c / 2) ^^^ 0x82F63B78 else c / 2)

def crcStep (c : Nat) (b : Byte) : Nat := crcBits 8 (c ^^^ b.toNat)

/-- CRC-32C of a byte string. -/
def crc32c (l : List Byte) : Nat := (l.foldl crcStep 0xFFFFFFFF) ^^^ 0xFFFFFFFF

/-- A running CRC-32C continued over further bytes. -/
def crcMore (c : Nat) (l : List Byte) : Nat := (l.foldl crcStep (c ^^^ 0xFFFFFFFF)) ^^^ 0xFFFFFFFF

/-! ### SHA-2 -/

/-- The round constants of SHA-256. -/
def shaK256 : List Nat :=
  [0x428A2F98, 0x71374491, 0xB5C0FBCF, 0xE9B5DBA5, 0x3956C25B, 0x59F111F1, 0x923F82A4, 0xAB1C5ED5]
    ++ [0xD807AA98, 0x12835B01, 0x243185BE, 0x550C7DC3, 0x72BE5D74, 0x80DEB1FE, 0x9BDC06A7, 0xC19BF174]
    ++ [0xE49B69C1, 0xEFBE4786, 0x0FC19DC6, 0x240CA1CC, 0x2DE92C6F, 0x4A7484AA, 0x5CB0A9DC, 0x76F988DA]
    ++ [0x983E5152, 0xA831C66D, 0xB00327C8, 0xBF597FC7, 0xC6E00BF3, 0xD5A79147, 0x06CA6351, 0x14292967]
    ++ [0x27B70A85, 0x2E1B2138, 0x4D2C6DFC, 0x53380D13, 0x650A7354, 0x766A0ABB, 0x81C2C92E, 0x92722C85]
    ++ [0xA2BFE8A1, 0xA81A664B, 0xC24B8B70, 0xC76C51A3, 0xD192E819, 0xD6990624, 0xF40E3585, 0x106AA070]
    ++ [0x19A4C116, 0x1E376C08, 0x2748774C, 0x34B0BCB5, 0x391C0CB3, 0x4ED8AA4A, 0x5B9CCA4F, 0x682E6FF3]
    ++ [0x748F82EE, 0x78A5636F, 0x84C87814, 0x8CC70208, 0x90BEFFFA, 0xA4506CEB, 0xBEF9A3F7, 0xC67178F2]

/-- The round constants of SHA-512. -/
def shaK512 : List Nat :=
  [0x428A2F98D728AE22, 0x7137449123EF65CD, 0xB5C0FBCFEC4D3B2F, 0xE9B5DBA58189DBBC]
    ++ [0x3956C25BF348B538, 0x59F111F1B605D019, 0x923F82A4AF194F9B, 0xAB1C5ED5DA6D8118]
    ++ [0xD807AA98A3030242, 0x12835B0145706FBE, 0x243185BE4EE4B28C, 0x550C7DC3D5FFB4E2]
    ++ [0x72BE5D74F27B896F, 0x80DEB1FE3B1696B1, 0x9BDC06A725C71235, 0xC19BF174CF692694]
    ++ [0xE49B69C19EF14AD2, 0xEFBE4786384F25E3, 0x0FC19DC68B8CD5B5, 0x240CA1CC77AC9C65]
    ++ [0x2DE92C6F592B0275, 0x4A7484AA6EA6E483, 0x5CB0A9DCBD41FBD4, 0x76F988DA831153B5]
    ++ [0x983E5152EE66DFAB, 0xA831C66D2DB43210, 0xB00327C898FB213F, 0xBF597FC7BEEF0EE4]
    ++ [0xC6E00BF33DA88FC2, 0xD5A79147930AA725, 0x06CA6351E003826F, 0x142929670A0E6E70]
    ++ [0x27B70A8546D22FFC, 0x2E1B21385C26C926, 0x4D2C6DFC5AC42AED, 0x53380D139D95B3DF]
    ++ [0x650A73548BAF63DE, 0x766A0ABB3C77B2A8, 0x81C2C92E47EDAEE6, 0x92722C851482353B]
    ++ [0xA2BFE8A14CF10364, 0xA81A664BBC423001, 0xC24B8B70D0F89791, 0xC76C51A30654BE30]
    ++ [0xD192E819D6EF5218, 0xD69906245565A910, 0xF40E35855771202A, 0x106AA07032BBD1B8]
    ++ [0x19A4C116B8D2D0C8, 0x1E376C085141AB53, 0x2748774CDF8EEB99, 0x34B0BCB5E19B48A8]
    ++ [0x391C0CB3C5C95A63, 0x4ED8AA4AE3418ACB, 0x5B9CCA4F7763E373, 0x682E6FF3D6B2B8A3]
    ++ [0x748F82EE5DEFB2FC, 0x78A5636F43172F60, 0x84C87814A1F0AB72, 0x8CC702081A6439EC]
    ++ [0x90BEFFFA23631E28, 0xA4506CEBDE82BDE9, 0xBEF9A3F7B2C67915, 0xC67178F2E372532B]
    ++ [0xCA273ECEEA26619C, 0xD186B8C721C0C207, 0xEADA7DD6CDE0EB1E, 0xF57D4F7FEE6ED178]
    ++ [0x06F067AA72176FBA, 0x0A637DC5A2C898A6, 0x113F9804BEF90DAE, 0x1B710B35131C471B]
    ++ [0x28DB77F523047D84, 0x32CAAB7B40C72493, 0x3C9EBE0A15C9BEBC, 0x431D67C49C100D4C]
    ++ [0x4CC5D4BECB3E42B6, 0x597F299CFC657E2A, 0x5FCB6FAB3AD6FAEC, 0x6C44198C4A475817]

def shaH256 : List Nat :=
  [0x6A09E667, 0xBB67AE85, 0x3C6EF372, 0xA54FF53A, 0x510E527F, 0x9B05688C, 0x1F83D9AB, 0x5BE0CD19]

def shaH384 : List Nat :=
  [0xCBBB9D5DC1059ED8, 0x629A292A367CD507, 0x9159015A3070DD17, 0x152FECD8F70E5939]
    ++ [0x67332667FFC00B31, 0x8EB44A8768581511, 0xDB0C2E0D64F98FA7, 0x47B5481DBEFA4FA4]

/-- Rotation right of a `w`-bit word. -/
def rotr (w n x : Nat) : Nat := (x >>> n ||| x <<< (w - n)) % 2 ^ w

/-- The parameters of a SHA-2 function: word bits, round constants, and the rotation amounts of Σ0, Σ1, σ0, σ1
(the last of σ0 and σ1 is a shift). -/
structure ShaKind where
  w : Nat
  k : List Nat
  bs0 : Nat × Nat × Nat
  bs1 : Nat × Nat × Nat
  ss0 : Nat × Nat × Nat
  ss1 : Nat × Nat × Nat

def sha256Kind : ShaKind := ⟨32, shaK256, (2, 13, 22), (6, 11, 25), (7, 18, 3), (17, 19, 10)⟩
def sha512Kind : ShaKind := ⟨64, shaK512, (28, 34, 39), (14, 18, 41), (1, 8, 7), (19, 61, 6)⟩

def shaBig (w : Nat) (r : Nat × Nat × Nat) (x : Nat) : Nat := rotr w r.1 x ^^^ rotr w r.2.1 x ^^^ rotr w r.2.2 x
def shaSmall (w : Nat) (r : Nat × Nat × Nat) (x : Nat) : Nat := rotr w r.1 x ^^^ rotr w r.2.1 x ^^^ (x >>> r.2.2)

/-- The state after one round with message word `m` and constant `k`. -/
def shaRound (c : ShaKind) (v : List Nat) (k m : Nat) : List Nat :=
  match v with
  | [a, b, cc, d, e, f, g, h] =>
    let ch := (e &&& f) ^^^ ((2 ^ c.w - 1 - e) &&& g)
    let maj := (a &&& b) ^^^ (a &&& cc) ^^^ (b &&& cc)
    let t1 := h + shaBig c.w c.bs1 e + ch + k + m
    let t2 := shaBig c.w c.bs0 a + maj
    [(t1 + t2) % 2 ^ c.w, a, b, cc, (d + t1) % 2 ^ c.w, e, f, g]
  | _ => v

/-- The rounds over a window of the last 16 message words, newest last. -/
def shaRounds (c : ShaKind) : List Nat → List Nat → List Nat → List Nat
  | [], _, v => v
  | k :: ks, win, v =>
    let m := win.getD 0 0
    let next := (shaSmall c.w c.ss1 (win.getD 14 0) + win.getD 9 0 + shaSmall c.w c.ss0 (win.getD 1 0) + m) % 2 ^ c.w
    shaRounds c ks (win.drop 1 ++ [next]) (shaRound c v k m)

def shaBlock (c : ShaKind) (h : List Nat) (block : List Byte) : List Nat :=
  let words := (pieces (c.w / 8) 16 block).map beNat
  List.zipWith (fun a b => (a + b) % 2 ^ c.w) h (shaRounds c c.k words h)

/-- The digest of `n` words. -/
def sha2 (c : ShaKind) (h0 : List Nat) (n : Nat) (l : List Byte) : List Byte :=
  let bl := c.w * 2
  let len := l.length
  let zeros := (2 * bl - (len + 1 + c.w / 4) % bl) % bl
  let m := l ++ (0x80 : Byte) :: List.replicate zeros 0 ++ beBytes (c.w / 4) (8 * len)
  let h := (pieces bl (m.length / bl + 1) m).foldl (shaBlock c) h0
  (h.take n).flatMap (beBytes (c.w / 8))

def sha256 (l : List Byte) : List Byte := sha2 sha256Kind shaH256 8 l
def sha384 (l : List Byte) : List Byte := sha2 sha512Kind shaH384 6 l

/-- HMAC-SHA-384. -/
def hmac384 (key msg : List Byte) : List Byte :=
  let k := pad 128 (if 128 < key.length then sha384 key else key)
  sha384 (k.map (· ^^^ 0x5C) ++ sha384 (k.map (· ^^^ 0x36) ++ msg))

/-- HKDF-SHA-384 with an output of at most 48 bytes. -/
def hkdf384 (salt ikm info : List Byte) (n : Nat) : List Byte :=
  (hmac384 (hmac384 salt ikm) (info ++ [0x01])).take n

/-! ### AES-256 -/

/-- Multiplication by x in GF(2⁸) of AES. -/
def gfDouble (a : Nat) : Nat := if 128 ≤ a then (2 * a) ^^^ 0x11B else 2 * a

def gfMulGo : Nat → Nat → Nat → Nat
  | 0, _, _ => 0
  | n + 1, a, b => (if b % 2 = 1 then a else 0) ^^^ gfMulGo n (gfDouble a) (b / 2)

def gfMul (a b : Nat) : Nat := gfMulGo 8 a b

/-- a²⁵⁴, the inverse in GF(2⁸). -/
def gfInv (a : Nat) : Nat :=
  let a2 := gfMul a a
  let a4 := gfMul a2 a2
  let a8 := gfMul a4 a4
  let a16 := gfMul a8 a8
  let a32 := gfMul a16 a16
  let a64 := gfMul a32 a32
  let a128 := gfMul a64 a64
  gfMul a2 (gfMul a4 (gfMul a8 (gfMul a16 (gfMul a32 (gfMul a64 a128)))))

def rotl8 (n x : Nat) : Nat := ((x <<< n) ||| (x >>> (8 - n))) % 256

def subByte (b : Byte) : Byte :=
  let x := gfInv b.toNat
  BitVec.ofNat 8 (x ^^^ rotl8 1 x ^^^ rotl8 2 x ^^^ rotl8 3 x ^^^ rotl8 4 x ^^^ 0x63)

def invSubByte (b : Byte) : Byte :=
  let y := b.toNat
  BitVec.ofNat 8 (gfInv (rotl8 1 y ^^^ rotl8 3 y ^^^ rotl8 6 y ^^^ 0x05))

/-- The key schedule: words of 4 bytes, newest first. -/
def aesExpand : Nat → Nat → Nat → List (List Byte) → List (List Byte)
  | 0, _, _, ws => ws
  | n + 1, i, rcon, ws =>
    let prev := ws.getD 0 []
    let back := ws.getD 7 []
    let (t, rc) :=
      if i % 8 = 0 then
        let r := (prev.drop 1 ++ prev.take 1).map subByte
        (xorBytes r [BitVec.ofNat 8 rcon, 0, 0, 0], gfDouble rcon)
      else if i % 8 = 4 then (prev.map subByte, rcon)
      else (prev, rcon)
    aesExpand n (i + 1) rc (xorBytes back t :: ws)

/-- The 15 round keys of AES-256. -/
def aesKeys (key : List Byte) : List (List Byte) :=
  let ws := (aesExpand 52 8 1 ((pieces 4 8 key).reverse)).reverse
  pieces 16 15 ws.flatten

/-- Columns rotate by their row: byte i of a block in column order. -/
def shiftRows (inv : Bool) (b : List Byte) : List Byte :=
  (List.range 16).map fun i =>
    let r := i % 4
    let c := i / 4
    b.getD (4 * (if inv then (c + 4 - r) % 4 else (c + r) % 4) + r) 0

def mixCol (m : List Nat) (col : List Byte) : List Byte :=
  (List.range 4).map fun r =>
    BitVec.ofNat 8 ((List.range 4).foldl (fun a k => a ^^^ gfMul (m.getD ((k + 4 - r) % 4) 0) (col.getD k 0).toNat) 0)

def mixCols (m : List Nat) (b : List Byte) : List Byte := (pieces 4 4 b).flatMap (mixCol m)

def aesRounds : List (List Byte) → List Byte → List Byte
  | [], b => b
  | [k], b => xorBytes (shiftRows false (b.map subByte)) k
  | k :: ks, b => aesRounds ks (xorBytes (mixCols [2, 3, 1, 1] (shiftRows false (b.map subByte))) k)

/-- AES-256 encryption of a block of 16 bytes. -/
def aesEnc (key b : List Byte) : List Byte :=
  match aesKeys key with
  | k :: ks => aesRounds ks (xorBytes b k)
  | [] => b

def aesInvRounds : List (List Byte) → List Byte → List Byte
  | [], b => b
  | [k], b => xorBytes ((shiftRows true b).map invSubByte) k
  | k :: ks, b => aesInvRounds ks (mixCols [14, 11, 13, 9] (xorBytes ((shiftRows true b).map invSubByte) k))

/-- AES-256 decryption of a block of 16 bytes. -/
def aesDec (key b : List Byte) : List Byte :=
  match (aesKeys key).reverse with
  | k :: ks => aesInvRounds ks (xorBytes b k)
  | [] => b

/-- The next tweak of XTS: multiplication by x in GF(2¹²⁸), little-endian. -/
def xtsNext (t : List Byte) : List Byte :=
  let v := leNat t
  leBytes 16 (if v < 2 ^ 127 then 2 * v else 2 * v % 2 ^ 128 ^^^ 0x87)

def xtsGo (f : List Byte → List Byte) : List (List Byte) → List Byte → List (List Byte)
  | [], _ => []
  | b :: r, t => xorBytes (f (xorBytes b t)) t :: xtsGo f r (xtsNext t)

/-- AES-256-XTS of whole blocks with a key of 64 bytes and a 128-bit tweak (R211). -/
def xts (enc : Bool) (key : List Byte) (tweak : Nat) (l : List Byte) : List Byte :=
  let k1 := key.take 32
  let k2 := key.drop 32
  (xtsGo (if enc then aesEnc k1 else aesDec k1) (pieces 16 (l.length / 16 + 1) l) (aesEnc k2 (leBytes 16 tweak))).flatten

/-- One step of AES key unwrap (SP 800-38F): counter `t`, register A, and the semiblocks, last first. -/
def kwSteps (kek : List Byte) : Nat → List Byte → List (List Byte) → List Byte × List (List Byte)
  | 0, a, rs => (a, rs)
  | t + 1, a, rs =>
    match rs with
    | [] => (a, [])
    | r :: rest =>
      let b := aesDec kek (xorBytes a (beBytes 8 (t + 1)) ++ r)
      kwSteps kek t (b.take 8) (rest ++ [b.drop 8])

/-- AES key unwrap of 8 semiblocks: the 64 bytes, or none where the integrity check fails. -/
def keyUnwrap (kek wrapped : List Byte) : Option (List Byte) :=
  let blocks := pieces 8 9 wrapped
  let (a, rs) := kwSteps kek 48 (blocks.getD 0 []) ((blocks.drop 1).reverse)
  if a = List.replicate 8 (0xA6 : Byte) then some rs.reverse.flatten else none

/-! ### HSS signatures (RFC 8554), LMS_SHA256_M32_H20 with LMOTS_SHA256_N32_W8 -/

/-- A Winternitz chain from step `j`, with the number of steps left. -/
def otsChain (head : List Byte) : Nat → Nat → List Byte → List Byte
  | 0, _, v => v
  | n + 1, j, v => otsChain head n (j + 1) (sha256 (head ++ beBytes 1 j ++ v))

/-- The candidate LM-OTS public key from a signature of 1,124 bytes. -/
def otsCandidate (ident : List Byte) (q : Nat) (sig msg : List Byte) : List Byte :=
  let c := slice sig 4 32
  let pre := ident ++ beBytes 4 q
  let d := sha256 (pre ++ beBytes 2 0x8181 ++ c ++ msg)
  let cks := d.foldl (fun a b => a + (255 - b.toNat)) 0
  let v := d ++ beBytes 2 cks
  let z := (List.range 34).map fun i =>
    let a := (v.getD i 0).toNat
    otsChain (pre ++ beBytes 2 i) (255 - a) a (slice sig (36 + 32 * i) 32)
  sha256 (pre ++ beBytes 2 0x8080 ++ z.flatten)

/-- The climb to the root: path nodes from the leaf on. -/
def lmsClimb (ident : List Byte) : List (List Byte) → Nat → List Byte → List Byte
  | [], _, v => v
  | p :: ps, node, v =>
    let head := ident ++ beBytes 4 (node / 2) ++ beBytes 2 0x8383
    lmsClimb ident ps (node / 2) (sha256 (head ++ (if node % 2 = 1 then p ++ v else v ++ p)))

/-- An LMS signature of 1,772 bytes under a public key of 56 bytes. -/
def lmsVerify (pub sig msg : List Byte) : Bool :=
  let ident := slice pub 8 16
  let q := beNat (slice sig 0 4)
  let kc := otsCandidate ident q (slice sig 4 1124) msg
  let leaf := sha256 (ident ++ beBytes 4 (2 ^ 20 + q) ++ beBytes 2 0x8282 ++ kc)
  let path := pieces 32 20 (slice sig 1132 640)
  beNat (slice pub 0 4) == 8 && beNat (slice pub 4 4) == 4 && beNat (slice sig 4 4) == 4
    && beNat (slice sig 1128 4) == 8 && decide (q < 2 ^ 20) && pub.length == 56 && sig.length == 1772
    && lmsClimb ident path (2 ^ 20 + q) leaf == slice pub 24 32

/-- An HSS public key of two levels with the parameter sets of R375. -/
def hssKeyOk (pub : List Byte) : Bool :=
  pub.length == 60 && beNat (slice pub 0 4) == 2 && beNat (slice pub 4 4) == 8 && beNat (slice pub 8 4) == 4

/-- An HSS signature of two levels, 3,604 bytes (R375). -/
def hssVerify (pub sig msg : List Byte) : Bool :=
  let pub1 := slice sig 1776 56
  hssKeyOk pub && sig.length == 3604 && beNat (slice sig 0 4) == 1
    && lmsVerify (pub.drop 4) (slice sig 4 1772) pub1 && lmsVerify pub1 (slice sig 1832 1772) msg

/-! ### P-384 -/

def p384p : Nat := 2 ^ 384 - 2 ^ 128 - 2 ^ 96 + 2 ^ 32 - 1
def p384b : Nat := 0xb3312fa7e23ee7e4988e056be3f82d19181d9c6efe8141120314088f5013875ac656398d8a2ed19d2a85c8edd3ec2aef
def p384gx : Nat := 0xaa87ca22be8b05378eb1c71ef320ad746e1d3b628ba79b9859f741e082542a385502f25dbf55296c3a545e3872760ab7
def p384gy : Nat := 0x3617de4a96262c6f5d9e98bf9292dc29f8f41dbd289a147ce9da3113b5f0b8c00a60b1ce1d7e819d7a431d7c90ea0e5f
def p384n : Nat := 0xffffffffffffffffffffffffffffffffffffffffffffffffc7634d81f4372ddf581a0db248b0a77aecec196accc52973

/-- a^e mod m over the `n` low bits of e. -/
def modPow (m : Nat) : Nat → Nat → Nat → Nat
  | 0, _, _ => 1 % m
  | n + 1, a, e =>
    let r := modPow m n (a * a % m) (e / 2)
    if e % 2 = 1 then r * a % m else r

/-- The inverse modulo a prime of 384 bits. -/
def modInv (m a : Nat) : Nat := modPow m 384 a (m - 2)

/-- A point of the curve, none for the point at infinity. -/
abbrev Point := Option (Nat × Nat)

def pointAdd (a b : Point) : Point :=
  let p := p384p
  match a, b with
  | none, _ => b
  | _, none => a
  | some (x1, y1), some (x2, y2) =>
    if x1 = x2 ∧ (y1 + y2) % p = 0 then none
    else
      let l := if x1 = x2 then (3 * x1 * x1 + (p - 3)) * modInv p (2 * y1 % p) % p
        else (y2 + p - y1) * modInv p ((x2 + p - x1) % p) % p
      let x3 := (l * l + 2 * p - x1 - x2) % p
      some (x3, (l * (x1 + p - x3) + p - y1) % p)

/-- k times a point over the `n` low bits of k. -/
def pointMul : Nat → Nat → Point → Point
  | 0, _, _ => none
  | n + 1, k, a =>
    let r := pointMul n (k / 2) (pointAdd a a)
    if k % 2 = 1 then pointAdd a r else r

/-- A public key in uncompressed SEC1 form (97 bytes) that is a point of the curve. -/
def pointOf (l : List Byte) : Point :=
  let x := beNat (slice l 1 48)
  let y := beNat (slice l 49 48)
  if l.length = 97 ∧ l.getD 0 0 = 4 ∧ x < p384p ∧ y < p384p
      ∧ y * y % p384p = (x * x * x + (p384p - 3) * x + p384b) % p384p then some (x, y) else none

/-- The x-coordinate of the ECDH product, 48 bytes big-endian. -/
def ecdh (d : Nat) (q : Point) : List Byte :=
  match pointMul 384 d q with
  | some (x, _) => beBytes 48 x
  | none => beBytes 48 0

/-- The ECDSA signature of a SHA-384 digest with nonce `k`: r and then s. -/
def ecdsaSign (d k : Nat) (digest : List Byte) : List Byte :=
  let r := match pointMul 384 k (some (p384gx, p384gy)) with
    | some (x, _) => x % p384n
    | none => 0
  let e := beNat digest
  beBytes 48 r ++ beBytes 48 (modInv p384n (k % p384n) * (e + r * d) % p384n)

end Sys2Proof.Machine
end

