-- ==== Sys2Proof/Machine/Blocks.lean ====
section
/-! DEFINITION. The stored form of blocks: code tables, headers, coding and decoding, stacking and failures
(R199 to R212, R218, R219). -/

namespace Sys2Proof.Machine

/-- A code table (Table 9-2). -/
structure CodeTable where
  symBits : Nat
  num : List Nat
  sym : List Nat
deriving DecidableEq, Repr

/-- The number that the codes of R203 end at: 8,192 for a complete table. -/
def kraftEnd : List Nat → Nat → Nat
  | [], c => c
  | n :: r, c => kraftEnd r ((c + n) * 2)

/-- The table is complete, its symbols fit and differ (R202, check 2 of Table 9-8). -/
def CodeTable.ok (t : CodeTable) : Bool :=
  (t.symBits == 4 || t.symBits == 8) && t.num.length == 12 && sumOf t.num == t.sym.length
    && decide (2 ≤ t.sym.length) && decide (t.sym.length ≤ 2 ^ t.symBits)
    && t.sym.all (fun x => decide (x < 2 ^ t.symBits)) && t.sym.eraseDups.length == t.sym.length
    && kraftEnd t.num 0 == 8192

/-- A code table from its bytes. -/
def parseCodeTable (l : List Byte) : CodeTable :=
  let num := (List.range 12).map fun i => field l (2 + 2 * i) 2
  { symBits := (l.getD 0 0).toNat, num, sym := (slice l 26 (min 256 (sumOf num))).map (·.toNat) }

/-- The bits of a payload in order: bit 31 of each little-endian word first (R203). -/
def payloadBits (l : List Byte) : List Bool :=
  (pieces 4 (l.length / 4 + 1) l).flatMap fun w =>
    let v := leNat w
    (List.range 32).map fun i => bit v (31 - i)

/-- One symbol: the table's lengths from the present one on, first code, symbol index, bits so far. None where
the payload ends. -/
def decodeSym (sym : List Nat) : List Nat → Nat → Nat → Nat → List Bool → Option (Nat × List Bool)
  | [], _, _, _, _ => none
  | _, _, _, _, [] => none
  | n :: r, first, base, v, b :: bs =>
    let v1 := 2 * v + b2n b
    if v1 < first + n then some (sym.getD (base + v1 - first) 0, bs)
    else decodeSym sym r ((first + n) * 2) (base + n) v1 bs

/-- `n` symbols: what was decoded, what bits are left, and whether the payload sufficed. -/
def decodeSyms (t : CodeTable) : Nat → List Bool → List Nat × List Bool × Bool
  | 0, bs => ([], bs, true)
  | n + 1, bs =>
    match decodeSym t.sym t.num 0 0 0 bs with
    | none => ([], bs, false)
    | some (x, rest) =>
      let (xs, left, ok) := decodeSyms t n rest
      (x :: xs, left, ok)

/-- Symbols packed raw (R201). -/
def rawSyms (w count : Nat) (l : List Byte) : List Nat :=
  (List.range count).map fun n =>
    if w = 8 then (l.getD n 0).toNat else bits (l.getD (n / 2) 0).toNat (4 * (n % 2)) 4

def packRaw (w : Nat) (xs : List Nat) : List Byte :=
  if w = 8 then xs.map (BitVec.ofNat 8)
  else (pieces 2 (xs.length / 2 + 1) xs).map fun p => BitVec.ofNat 8 (p.getD 0 0 + 16 * p.getD 1 0)

/-- ⌈COUNT × w ÷ 32⌉ (R200). -/
def rawWords (w count : Nat) : Nat := ceilDiv (count * w) 32

/-- A block header (Table 9-1). -/
structure BlockHdr where
  esc : Bool
  side : Bool
  symBits : Nat
  tag : Nat
  count : Nat
  words : Nat
  crc : Nat
  reserved : Bool
deriving DecidableEq, Repr

def parseHdr (l : List Byte) : BlockHdr :=
  let v := leNat (l.take 16)
  { esc := bit v 0, side := bit v 1, symBits := bits v 2 2, tag := bits v 16 16, count := bits v 32 13
    words := bits v 48 11, crc := bits v 64 32
    reserved := bits v 4 12 != 0 || bits v 45 3 != 0 || bits v 59 5 != 0 || bits v 96 32 != 0 }

/-- Body bytes for a payload of `words` words (R200). -/
def bodyLen (words : Nat) : Nat := max 16 (ceilDiv (4 * words) 16 * 16)

/-- What the reader of a block expects of it. -/
structure BlockExpect where
  symBits : Nat
  side : Bool
  count : Nat
  tag : Nat
  /-- the block must be stored raw (side blocks, PLAIN tensors) -/
  mustEsc : Bool
  table : CodeTable
  /-- key of 64 bytes and tweak, where the use calls for encryption -/
  key : Option (List Byte × Nat) := none
deriving DecidableEq, Repr

/-- The decode of a block: symbols, and the failures of Table 9-7 by their cycle: first decode cycle, or last
cycle of the allowance (each a status, 0 for none). -/
structure Decoded where
  syms : List Nat := []
  first : Nat := 0
  last : Nat := 0
  esc : Bool := false
deriving DecidableEq, Repr

/-- CRC of a block as stored (R212). -/
def blockCrc (hdr body : List Byte) : Nat := crc32c (patch (hdr.take 16) 8 [0, 0, 0, 0] ++ body)

/-- A block read from its stored form, which may run beyond the block (R211, R218). -/
def decodeBlock (x : BlockExpect) (tagStatus : Nat) (l : List Byte) : Decoded :=
  let h := parseHdr l
  let w := if x.symBits = 8 then 8 else 4
  let body := slice l 16 (bodyLen h.words)
  let raw := rawWords w h.count
  if body.length ≠ bodyLen h.words then { first := if 1032 < h.words then 0x0051 else 0x0050, esc := h.esc }
  else if h.crc ≠ blockCrc l body then { first := 0x0050, esc := h.esc }
  else if h.reserved || h.side != x.side || (x.mustEsc && !h.esc) || h.symBits != (if w = 8 then 1 else 0)
      || h.count != x.count || decide (h.count = 0) || decide (4096 < h.count) || decide (h.words = 0)
      || decide (1032 < h.words) || (!h.esc && decide (4 * raw + 32 < 4 * h.words)) then
    { first := 0x0051, esc := h.esc }
  else if h.tag ≠ x.tag then { first := tagStatus, esc := h.esc }
  else
    let plain := match x.key with
      | some (k, tw) => xts false k tw body
      | none => body
    let payload := plain.take (4 * h.words)
    let padBad := (plain.drop (4 * h.words)).any (· != 0)
    if h.esc then
      let syms := rawSyms w h.count payload
      let rest := payload.drop (ceilDiv (h.count * w) 8)
      let half := w = 4 ∧ h.count % 2 = 1 ∧ bits (payload.getD (h.count / 2) 0).toNat 4 4 ≠ 0
      let last := if padBad ∨ half ∨ rest.any (· != 0) then 0x0051
        else if raw < h.words then 0x0052 else if h.words < raw then 0x0053 else 0
      { syms, last, esc := true }
    else
      let (syms, left, ok) := decodeSyms x.table h.count (payloadBits payload)
      let last := if padBad then 0x0051
        else if !ok then 0x0053
        else if 31 < left.length then 0x0052
        else if left.any id then 0x0051 else 0
      { syms, last, esc := false }

/-- The failure of a block whose cycle does not matter (state and container blocks), 0 for none. -/
def Decoded.status (d : Decoded) : Nat := if d.first ≠ 0 then d.first else d.last

/-! ### The device's own coder -/

/-- The code of a symbol: length and code, none for a symbol that the table does not hold. -/
def findCode (x : Nat) (sym : List Nat) : List Nat → Nat → Nat → Nat → Option (Nat × Nat)
  | [], _, _, _ => none
  | n :: r, len, first, base =>
    let i := ((slice sym base n).takeWhile (· != x)).length
    if i < n ∧ sym.getD (base + i) 256 = x then some (len, first + i)
    else findCode x sym r (len + 1) ((first + n) * 2) (base + n)

def codeOf (t : CodeTable) (x : Nat) : Option (Nat × Nat) := findCode x t.sym t.num 1 0 0

/-- The bits of the coded symbols, none where a symbol has no code. -/
def codeBits (t : CodeTable) : List Nat → Option (List Bool)
  | [] => some []
  | x :: r =>
    match codeOf t x, codeBits t r with
    | some (len, c), some bs => some (((List.range len).map fun i => bit c (len - 1 - i)) ++ bs)
    | _, _ => none

/-- Bits as payload words, most significant bit first in each little-endian word. -/
def bitsPayload (bs : List Bool) : List Byte :=
  (pieces 32 (bs.length / 32 + 1) bs).flatMap fun p =>
    leBytes 4 (((p ++ List.replicate (32 - p.length) false).foldl (fun a b => 2 * a + b2n b) 0))

/-- A block's stored form from its parts (R211). -/
def stack (esc side : Bool) (symBits tag count : Nat) (payload : List Byte) (key : Option (List Byte × Nat)) :
    List Byte :=
  let words := payload.length / 4
  let body0 := pad (bodyLen words) payload
  let body := match key with
    | some (k, tw) => xts true k tw body0
    | none => body0
  let v := b2n esc + 2 * b2n side + 4 * (if symBits = 8 then 1 else 0) + 2 ^ 16 * (tag % 65536) + 2 ^ 32 * count + 2 ^ 48 * words
  let hdr := leBytes 16 v
  patch hdr 8 (leBytes 4 (blockCrc hdr body)) ++ body

/-- The stored form of a block of 8-bit symbols, and whether it is coded (R204). -/
def encodeBlock (t : CodeTable) (tag : Nat) (syms : List Nat) (key : Option (List Byte × Nat)) : List Byte × Bool :=
  let raw := rawWords 8 syms.length
  let coded := (codeBits t syms).map bitsPayload
  match coded with
  | some p =>
    if p.length ≤ 4 * raw + 32 then (stack false false 8 tag syms.length p key, true)
    else (stack true false 8 tag syms.length (pad (4 * raw) (packRaw 8 syms)) key, false)
  | none => (stack true false 8 tag syms.length (pad (4 * raw) (packRaw 8 syms)) key, false)

/-! ### Index tables and records -/

/-- Running offsets of pieces of the given lengths from `a`. -/
def offsets : Nat → List Nat → List Nat
  | _, [] => []
  | a, n :: r => a :: offsets (a + n) r

/-- Blocks of a record with their index table, which starts `base` bytes into the whole (notes/assumptions/14.md):
the bytes, and how many blocks are coded and raw. `tweak` gives the tweak of block j. -/
def encodeRecord (t : CodeTable) (base : Nat) (key : Option (List Byte)) (tweak : Nat → Nat) (bytes : List Byte) :
    List Byte × Nat × Nat :=
  let parts := pieces 4096 (bytes.length / 4096 + 1) bytes
  let blocks := (List.range parts.length).map fun j =>
    encodeBlock t j ((parts.getD j []).map (·.toNat)) (key.map fun k => (k, tweak j))
  let offs := offsets (base + 4 * parts.length) (blocks.map fun b => b.1.length)
  ((offs.flatMap (leBytes 4)) ++ blocks.flatMap (·.1), (blocks.filter (·.2)).length, (blocks.filter fun b => !b.2).length)

/-- The record of `n` blocks in `whole`, whose index table starts at `at_`: its bytes, or the status of the first
block that fails. -/
def decodeRecord (t : CodeTable) (n at_ : Nat) (key : Option (List Byte)) (tweak : Nat → Nat) (whole : List Byte) :
    Except Nat (List Byte) :=
  (List.range n).foldl (fun acc j =>
    match acc with
    | .error e => .error e
    | .ok l =>
      let off := field whole (at_ + 4 * j) 4
      let d := decodeBlock { symBits := 8, side := false, count := 4096, tag := j % 65536, mustEsc := false, table := t,
                             key := key.map fun k => (k, tweak j) } 0x0051 (whole.drop off)
      if d.status = 0 then .ok (l ++ d.syms.map (BitVec.ofNat 8)) else .error d.status) (.ok [])

end Sys2Proof.Machine
end

