-- ==== Sys2Proof/Machine/Residency.lean ====
section
/-! DEFINITION. State records: scratchpad rows and stream slots (R83, R98, R176 to R178), homes and their stored
form (R179, R204), initial and lost records (R173, R183), swap requests, victims and write-back (R184 to R188). -/

namespace Sys2Proof.Machine

/-! ### Scratchpad rows -/

/-- Where bank row `br` of `bank` is stored: the spare row that the remap names, or itself (R98). -/
def Cluster.place (c : Cluster) (bank br : Nat) : Nat :=
  match tget none c.remap (2048 * bank + br) with
  | some sp => 2112 * bank + 2048 + sp
  | none => 2112 * bank + br

/-- What a place holds that nothing has written since the last reset or Almanac test: zero, or a free value
(notes/assumptions/17.md). -/
def Cluster.blank (c : Cluster) (place : Nat) : SRow :=
  match c.seed with
  | none => {}
  | some k => { data := BitVec.ofNat 512 (freeOf k place), tag := 0 }

/-- Row `r`: bank r mod 4, bank row r div 4 (R83). -/
def Cluster.row (c : Cluster) (r : Nat) : SRow :=
  let p := c.place (r % 4) (r / 4)
  (tget none c.rows p).getD (c.blank p)
def Cluster.putRow (c : Cluster) (r : Nat) (v : SRow) : Cluster :=
  { c with rows := tput none c.rows (c.place (r % 4) (r / 4)) (some v) }

/-- Row `r` of logical cluster `c` of group `g`. -/
def State.spadRow (s : State) (g c r : Nat) : SRow := (s.clu g ((s.grp g).phys c)).row r
def State.putSpadRow (s : State) (g c r : Nat) (v : SRow) : State :=
  s.modClu g ((s.grp g).phys c) fun cl => cl.putRow r v

/-! ### Stream slots -/

/-- NSLOTS of R176. -/
def State.nslots (s : State) : Nat :=
  min 128 (s.cfg.slotRows * s.clusterCount / (2 * s.cfg.slotCap))

/-- Row `n` of copy `k` of local slot `l`: logical cluster and scratchpad row (R177). -/
def State.slotRow (s : State) (l k n : Nat) : Nat × Nat :=
  let i := (2 * l + k) * s.cfg.slotCap + n
  (i % s.clusterCount, 8192 - s.cfg.slotRows + i / s.clusterCount)

def State.slotAt (s : State) (g l : Nat) : Slot := tget {} (s.grp g).slots l
def State.setSlot (s : State) (g l : Nat) (v : Slot) : State :=
  s.modGrp g fun G => { G with slots := tput {} G.slots l v }

/-- The bytes of copy `k` of slot `l`, `rows` rows. -/
def State.readCopy (s : State) (g l k rows : Nat) : List Byte :=
  (List.range rows).flatMap fun n =>
    let p := s.slotRow l k n
    rowBytes (s.spadRow g p.1 p.2).data

/-- Rows written into copy `k` of slot `l` from row `n` on, with tag 0 (R91: outside every buffer slot). -/
def State.writeCopy (s : State) (g l k : Nat) : Nat → List (List Byte) → State
  | _, [] => s
  | n, r :: rest =>
    let p := s.slotRow l k n
    (s.putSpadRow g p.1 p.2 { data := bytesRow r, tag := 0 }).writeCopy g l k (n + 1) rest

/-! ### Records (Table 8-1) -/

/-- A record with its CRC formed: CRC-32C with bytes 20 to 23 taken as 0 (R174). -/
def sealRecord (bytes : List Byte) : List Byte :=
  patch bytes 20 (leBytes 4 (crc32c (patch bytes 20 [0, 0, 0, 0])))

def recordHeader (rows stream seq nextSample classWord : Nat) (initial : Bool) : List Byte :=
  pad 64 (leBytes 2 1 ++ leBytes 2 rows ++ leBytes 4 stream ++ leBytes 4 seq ++ leBytes 6 nextSample
    ++ leBytes 1 classWord ++ leBytes 1 (b2n initial))

def recordStream (b : List Byte) : Nat := field b 4 4
def recordSeq (b : List Byte) : Nat := field b 8 4
def recordNextSample (b : List Byte) : Nat := field b 12 6
def recordClassWord (b : List Byte) : Nat := field b 18 1
def recordInitial (b : List Byte) : Bool := bit (field b 19 1) 0
def recordCrcOk (b : List Byte) : Bool := field b 20 4 == crc32c (patch b 20 [0, 0, 0, 0])

/-- The memory address of image-relative address `a` for group `g` (R228). -/
def State.imageAddr (s : State) (m : Image) (g a : Nat) : Option Nat :=
  if a < m.nearExtent then some (g * s.nearBytes + m.nearBase + 64 * a)
  else if a < m.nearExtent + m.farExtent then some (m.farBase + 64 * (a - m.nearExtent))
  else none

/-- `n` bytes from image-relative address `a`, rows at no address reading 0. -/
def State.imageBytes (s : State) (m : Image) (g a n : Nat) : List Byte :=
  ((List.range (ceilDiv n 64)).flatMap fun i =>
    match s.imageAddr m g (a + i) with
    | some p => s.memRead p 64
    | none => List.replicate 64 0).take n

/-- The state code table of an image (R213). -/
def Image.stateTable (m : Image) : CodeTable := { symBits := 8, num := m.stateNum, sym := m.stateSym }

/-- An initial record (R173, R183). -/
def State.initialRecord (s : State) (n seq nextSample : Nat) : List Byte :=
  let r := s.str n
  let m := s.img r.image
  sealRecord (recordHeader m.recordRows n seq nextSample m.initClassWord true
    ++ s.imageBytes m r.home m.initBody ((m.recordRows - 1) * 64))

/-! ### Homes (R179) -/

/-- Counters of Table 9-11. -/
def cometBlockFails : Nat := 0x270C00
def cometRaw : Nat := 0x270C04
def cometCoded : Nat := 0x270C08

/-- The size of a home (R179). -/
def homeBytes (recordRows : Nat) : Nat := 4160 * (recordRows / 64) + 64

/-- The spill key, where the home lies in host spill (Table 9-4). -/
def State.homeKey (s : State) (r : Stream) : Option (List Byte) := if r.spilled then some s.spillKey else none

/-- The tweak of block `j` of a home in host spill (Table 9-4). -/
def homeTweak (n seq j : Nat) : Nat := 2 ^ 96 * n + 2 ^ 64 * seq + j

/-- A record is coded into its stream's home (R179, R204, R235). -/
def State.writeHome (s : State) (n : Nat) (record : List Byte) (retries : WriteRetries) : State :=
  let r := s.str n
  let (bytes, coded, raw) :=
    encodeRecord (s.img r.image).stateTable 0 (s.homeKey r) (homeTweak n (recordSeq record)) record
  let s1 := (s.count cometCoded coded).count cometRaw raw
  if r.spilled then s1.hostWrite r.recordAddr bytes else s1.memStore r.recordAddr bytes retries

/-- The record read from its stream's home, or the status of what is wrong with it; CRC and STREAM are checked
(R186). -/
def State.readHome (s : State) (n : Nat) : Except Nat (List Byte) :=
  let r := s.str n
  let m := s.img r.image
  if r.spilled && !s.hif.linkUp then .error stHostError
  else
    let whole := if r.spilled then readCells s.hostMem r.recordAddr r.homeSize else s.memRead r.recordAddr r.homeSize
    match decodeRecord m.stateTable (m.recordRows / 64) 0 (s.homeKey r) (homeTweak n r.recSeq) whole with
    | .error e => .error e
    | .ok b => if recordCrcOk b && recordStream b == n then .ok b else .error stCheckFail

/-- The committed copy of a resident stream. -/
def State.committedCopy (s : State) (n l : Nat) : List Byte :=
  let r := s.str n
  s.readCopy r.home l (b2n (s.slotAt r.home l).committed) (s.img r.image).recordRows

/-! ### Slots free, pinned, and victims (R178, R185) -/

/-- A swap uses slot `l`. -/
def Group.swapOn (G : Group) (l : Nat) : Bool := G.swaps.any fun w => w.slot == l

/-- The free slot with the lowest number. -/
def State.freeSlot (s : State) (g : Nat) : Option Nat :=
  let G := s.grp g
  (List.range s.nslots).find? fun l =>
    let v := s.slotAt g l
    !v.valid && !v.pinned && !G.swapOn l

/-- The S streams of a group have or await pins. -/
def State.pins (s : State) (g : Nat) : Nat := ((s.claimed g).filter fun n => (s.str n).cls == .s).length

/-- Classes in the order in which a lower one gives way. -/
def Cls.level : Cls → Nat
  | .s => 0
  | .c => 1
  | .b => 2

/-- How good a victim slot `l` is for a request of class `cls` with readiness stamp `stamp`: none for no victim;
else step (R185), class preference, age, each smaller the better. -/
def State.victimScore (s : State) (g l : Nat) (cls : Cls) (stamp : Option Int) : Option (Nat × Nat × Int) :=
  let v := s.slotAt g l
  let r := s.str v.stream
  if !v.valid || v.pinned || (s.grp g).swapOn l then none
  else match r.chunks with
    | [] => some (1, if r.cls == .b then 0 else 1, v.lastUse)
    | c :: _ =>
      if r.chunks.all fun d => d.pos == .waiting then
        let lower := decide (Cls.level cls < Cls.level r.cls)
        let later := r.cls == cls && (match stamp with
          | some x => decide (x < c.stamp)
          | none => false)
        if lower || later then some (2, if r.cls == .b then 0 else 1, -c.stamp) else none
      else none

def scoreLt (a b : Nat × Nat × Int) : Bool :=
  if a.1 ≠ b.1 then decide (a.1 < b.1) else if a.2.1 ≠ b.2.1 then decide (a.2.1 < b.2.1) else decide (a.2.2 < b.2.2)

/-- The victim slot with its score, lowest number first among equals. -/
def State.victim (s : State) (g : Nat) (cls : Cls) (stamp : Option Int) : Option (Nat × Nat × Nat × Int) :=
  (List.range s.nslots).foldl (fun best l =>
    match s.victimScore g l cls stamp with
    | none => best
    | some sc => match best with
      | some b => if scoreLt sc b.2 then some (l, sc) else best
      | none => some (l, sc)) none

/-- A slot of group `g` can be pinned for one more S stream: at least a quarter of the slots stay unpinned, and a
slot can be had (R39, R178; notes/assumptions/15.md). -/
def State.canPin (s : State) (g : Nat) : Bool :=
  decide (s.pins g + 1 + ceilDiv s.nslots 4 ≤ s.nslots)
    && ((s.freeSlot g).isSome || ((s.victim g .s none).isSome && decide ((s.grp g).swaps.length < 4)))

/-! ### Swaps (R184 to R188) -/

def grpCleanReleases (g : Nat) : Nat := grpState g + 0x08
def grpEvictReady (g : Nat) : Nat := grpState g + 0x0C
def grpSpillSwaps (g : Nat) : Nat := grpState g + 0x10
def grpStateLost (g : Nat) : Nat := grpState g + 0x14

def State.addSwap (s : State) (g : Nat) (w : Swap) : State := s.modGrp g fun G => { G with swaps := G.swaps ++ [w] }
def State.dropSwap (s : State) (g l : Nat) : State :=
  s.modGrp g fun G => { G with swaps := G.swaps.filter fun w => w.slot != l }

/-- The stream of slot `l` leaves it; a CLEAN one is released without transfer, and counted where it is a victim (R185, R186,
Table 8-4). -/
def State.evict (s : State) (g l : Nat) (inFor : Option Nat) : State :=
  let v := s.slotAt g l
  let s1 := s.modStr v.stream fun r => { r with slot := none }
  if v.clean then
    let s2 := s1.setSlot g l {}
    if inFor.isSome then (s2.count (grpCleanReleases g) 1).addSwap g { slot := l, out := none, inFor } else s2
  else s1.addSwap g { slot := l, out := some v.stream, inFor }

/-- A slot is had for stream `n` and its swap begins: the slot reserved for it, the free slot with the lowest
number, or a victim's (R185); the state unchanged where none can be had. -/
def State.beginSwap (s : State) (g n : Nat) : Option State :=
  let r := s.str n
  let reserved := (List.range s.nslots).find? fun l =>
    let v := s.slotAt g l
    v.pinned && !v.valid && v.stream == n && !(s.grp g).swapOn l
  match reserved with
  | some l => some (s.addSwap g { slot := l, out := none, inFor := some n })
  | none =>
    match s.freeSlot g with
    | some l => some ((s.setSlot g l { stream := n, pinned := r.cls == .s }).addSwap g { slot := l, out := none, inFor := some n })
    | none =>
      match s.victim g r.cls (r.chunks.head?.map (·.stamp)) with
      | some (l, step, _) =>
        let s1 := if step = 2 then s.count (grpEvictReady g) 1 else s
        some (s1.evict g l (some n))
      | none => none

/-- A stream waits for a swap-in that is not under way: not resident, OPEN or CLOSING, with a ready chunk, or an S
stream without its pin (R184, R188, Table 13-9). -/
def State.wantsSwap (s : State) (g n : Nat) : Bool :=
  let r := s.str n
  let G := s.grp g
  (r.st == .opened || r.st == .closing) && r.slot.isNone && (!r.chunks.isEmpty || (r.cls == .s && r.st == .opened))
    && !(G.swaps.any fun w => w.inFor == some n || w.out == some n) && !G.swapQ.contains n

/-- New requests: each sets the request cycle of every ready chunk of the stream (R54, R184). -/
def State.enqueueSwaps (s : State) (g : Nat) : State :=
  ((s.homed g).filter (s.wantsSwap g)).foldl (fun s n =>
    let s1 := s.modGrp g fun G => { G with swapQ := G.swapQ ++ [n] }
    s1.modStr n fun r =>
      { r with chunks := r.chunks.map fun c => if c.swapReq.isNone then { c with swapReq := some (s.clk g) } else c }) s

/-- The group serves swap requests in this state (Tables 13-9 and 16-5). -/
def State.swapsServed (s : State) (g : Nat) : Bool :=
  let G := s.grp g
  s.cometUnit == .enabled && G.unit == .enabled && G.running && (match G.retiring with
    | some (p, _) => !G.clusterOk.getLsbD p
    | none => true)

/-- Waiting requests begin in the order of step 3 of R47 while fewer than 4 swaps are in progress. -/
def State.serveSwaps (s : State) (g : Nat) : State :=
  if s.swapsServed g then
    (sortBy s.before (s.grp g).swapQ).foldl (fun s n =>
      if (s.grp g).swaps.length < 4 then
        match s.beginSwap g n with
        | some s1 => s1.modGrp g fun G => { G with swapQ := G.swapQ.filter (· != n) }
        | none => s
      else s) s
  else s

/-- Requests of group `g` are made and served (R184), with fuel: a victim taken while they are served asks again at once for
a chunk that is ready (R185), and no more than 4 swaps are in progress. -/
def State.requestGo (g : Nat) : Nat → State → State
  | 0, s => s
  | f + 1, s =>
    let s1 := (s.enqueueSwaps g).serveSwaps g
    if (s1.homed g).any (s1.wantsSwap g) then State.requestGo g f s1 else s1
def State.requestSwaps (s : State) (g : Nat) : State := State.requestGo g 6 s

/-- A request pending for a stream is withdrawn (R51: cancelled with the only chunk it was for). -/
def State.cancelRequest (s : State) (g n : Nat) : State :=
  s.modGrp g fun G => { G with swapQ := G.swapQ.filter (· != n) }

/-- Every slot of the group is to be released: CLEAN ones at once, the others written back, up to 4 at a time; the
slot of a stream that awaits commit, later (R188, R305). -/
def State.writeBack (s : State) (g : Nat) : State :=
  (List.range 128).foldl (fun s l =>
    let v := s.slotAt g l
    if v.valid && !(s.grp g).swapOn l && !((s.str v.stream).busy) then
      if v.clean then s.evict g l none
      else if s.cometUnit == .enabled && decide ((s.grp g).swaps.length < 4) then s.evict g l none else s
    else if v.pinned && !v.valid && !(s.grp g).swapOn l then s.setSlot g l {}
    else s) s

/-! ### Record faults (R183) -/

/-- The record of stream `n` is lost: its home gets an initial record with number `seq`, and the class word its
initial value; the slot is given up, and a swap-in brings the new record (notes/assumptions/16.md). -/
def State.loseRecord (s : State) (n seq nextSample : Nat) (retries : WriteRetries) : State :=
  let r := s.str n
  let m := s.img r.image
  let s1 := (s.writeHome n (s.initialRecord n seq nextSample) retries).setStr n
    { r with classWord := m.initClassWord, slot := none, recSeq := seq }
  (s1.count (grpStateLost r.home) 1).logEvent 0x0123 r.home noUnit stStateLost
    (leBytes 4 n ++ leBytes 4 seq ++ leBytes 1 1)

/-- The slot that holds stream `n`, or is reserved for it, is given up without a transfer. -/
def State.vacate (s : State) (g n : Nat) : State :=
  (List.range 128).foldl (fun s l =>
    let v := s.slotAt g l
    if (v.valid || v.pinned) && v.stream == n && !((s.grp g).swaps.any fun w => w.slot == l && w.out.isSome) then
      s.setSlot g l { stream := if v.pinned then n else 0, pinned := v.pinned }
    else s) (s.modStr n fun r => { r with slot := none })

/-- The record of stream `n` is to be read from its home again: a swap-in is requested for it, chunk or none (R183). -/
def State.reload (s : State) (n : Nat) : State :=
  let g := (s.str n).home
  (s.modGrp g fun G => if G.swapQ.contains n then G else { G with swapQ := G.swapQ ++ [n] }).requestSwaps g

/-- A record fault of stream `n`: from a VALID and CLEAN slot the record is reloaded and the chunk fails with
ST_CHECK_FAIL; else the record is lost and the chunk fails with ST_STATE_LOST; with no chunk waiting, none
completes (R183). -/
def State.recordFault (s : State) (n : Nat) (cleanSlot : Bool) (retries : WriteRetries) : State :=
  let r := s.str n
  let g := r.home
  let s0 := s.vacate g n
  if cleanSlot then
    let seq := match r.chunks with
      | c :: _ => c.seq
      | [] => r.nextSeq
    let s1 := s0.logEvent 0x0123 g noUnit stCheckFail (leBytes 4 n ++ leBytes 4 seq ++ leBytes 1 0)
    (match r.chunks with
      | c :: _ => s1.completeChunk n c { status := stCheckFail, stamp := s.clk g }
      | [] => s1).reload n
  else
    match r.chunks with
    | c :: _ =>
      let s1 := s0.completeChunk n c { status := stStateLost, stamp := s.clk g }
      (s1.loseRecord n c.seq (c.first + r.chunkSamples) retries).requestSwaps g
    | [] =>
      ((s0.loseRecord n ((r.nextSeq + 2 ^ 32 - 1) % 2 ^ 32) r.nextSample retries).safetyEvent n 1).requestSwaps g

end Sys2Proof.Machine
end

