-- ==== Sys2Proof/Machine/Service.lean ====
section
/-! DEFINITION. Service: admission (R44, R45), the round budget and capacity (R42, R46), the round plan with its
costs, peak gaps and withdrawals (R47 to R51, R316), and the shedding of stale chunks. -/

namespace Sys2Proof.Machine

/-! ### Costs of an image -/

/-- runcost(v, b) and roundcost(b) of R43. -/
def Image.runcostOf (m : Image) (v b : Nat) : Nat := (m.runcost.getD v []).getD (b - 1) 0
def Image.roundcostOf (m : Image) (b : Nat) : Nat := m.roundcost.getD (b - 1) 0

/-- The dispatch entry of a class word (Table 3-2): variant, and the wide-range variant where it is valid. -/
def Image.variantOf (m : Image) (classWord : Nat) : Nat := bits (m.dispatch.getD classWord 0) 0 6
def Image.wideOf (m : Image) (classWord : Nat) : Option Nat :=
  let e := m.dispatch.getD classWord 0
  if bit e 15 then some (bits e 8 6) else none

/-- Variant `v` is retired in group `g` (R75). -/
def Image.isRetired (m : Image) (g v : Nat) : Bool := m.retired.contains (g, v)

/-- Handles of loaded images, ascending. -/
def State.loaded (s : State) : List Nat := ((List.range 65).drop 1).filter fun h => (s.img h).loaded

/-- Run power in units of 10 mW under a calibration factor, and the peak gap of a run of that power and length (R316). -/
def runPower (kappa : Nat) (m : Image) (v : Nat) : Nat := ceilDiv (m.pk.getD v 0 * kappa) 4096
def gapLength (p len : Nat) : Nat := if 1875 < p then ceilDiv (len * (p - 1875)) 1875 else 0

/-- The gap of a run of `b` chunks, and the run's cost in a plan with both its gaps. -/
def gapUnder (kappa : Nat) (m : Image) (v b : Nat) : Nat := gapLength (runPower kappa m v) (m.runcostOf v b)
def State.gapFor (s : State) (m : Image) (v b : Nat) : Nat := gapUnder s.power.kappa m v b
def State.planCost (s : State) (m : Image) (v b : Nat) : Nat := m.runcostOf v b + 2 * s.gapFor m v b

/-! ### Admission -/

/-- demand_fix of R44. -/
def demandFix (rate chunk : Nat) : Nat := ceilDiv (65536 * (2 * rate)) (1000 * chunk)

/-- What a stream asks of admission. -/
structure Demand where
  image : Nat
  cls : Cls
  rate : Nat
  chunk : Nat
deriving DecidableEq, Repr

def Stream.demand (r : Stream) : Demand := ⟨r.image, r.cls, rateHz r.rate, r.chunkSamples⟩

/-- The demands of the S and C streams of a list, and of those homed in group `g`. -/
def State.demandsOf (s : State) (l : List Nat) : List Demand :=
  (l.filter fun n => (s.str n).cls != .b).map fun n => (s.str n).demand
def State.demands (s : State) (g : Nat) : List Demand := s.demandsOf (s.homed g)

/-- The need of one image: S term, and C term, which is none where the allowance exceeds 256. -/
def imageNeed (m : Image) (headroom : Nat) (ds : List Demand) : Nat × Option Nat :=
  let count := (ds.filter fun d => d.cls == .s).length
  let cfix := sumOf ((ds.filter fun d => d.cls == .c).map fun d => demandFix d.rate d.chunk)
  let callow := ceilDiv (cfix * (100 + headroom)) (100 * 65536)
  (if 0 < count then m.roundcostOf count else 0,
   if cfix = 0 then some 0 else if 256 < callow then none else some (m.roundcostOf callow))

/-- need of R44 over the images of the list, as far as it is summed, and whether no allowance exceeds 256. -/
def State.sumNeed (s : State) (headroom : Nat) (ds : List Demand) : List Nat → Nat → Nat × Bool
  | [], acc => (acc, true)
  | h :: r, acc =>
    let (sTerm, cTerm) := imageNeed (s.img h) headroom (ds.filter fun d => d.image == h)
    match cTerm with
    | some c => s.sumNeed headroom ds r (acc + sTerm + c)
    | none => (acc + sTerm, false)

/-- ADMIT_NEED of group `g` (R44). -/
def State.admitNeed (s : State) (g : Nat) : Nat := (s.sumNeed (s.grp g).headroom (s.demands g) s.loaded 0).1

/-- admits(g) with the new stream's demand counted among the group's (R44). -/
def State.admits (s : State) (g : Nat) (d : Demand) : Bool :=
  let (need, ok) := s.sumNeed (s.grp g).headroom (s.demandsOf (s.claimed g) ++ [d]) s.loaded 0
  ok && decide (need ≤ (s.grp g).budget) && !(s.grp g).capacityShort

/-- Open S streams homed in group `g`. -/
def State.sHomed (s : State) (g : Nat) : Nat := ((s.homed g).filter fun n => (s.str n).cls == .s).length

/-- Group `g` passes a stream of the demand (R45, R39). -/
def State.passes (s : State) (g : Nat) (d : Demand) : Bool :=
  match d.cls with
  | .b => true
  | .c => s.admits g d
  | .s => s.admits g d && decide (s.pins g < 32) && s.canPin g

/-- The device's choice among the ENABLED groups that `ok` names (R45). -/
def State.chooseGroup (s : State) (d : Demand) (ok : Nat → Bool) : Option Nat :=
  let groups := (List.range 48).filter fun g => (s.grp g).unit == .enabled && ok g
  match d.cls with
  | .b =>
    let load (g : Nat) := ((s.homed g).filter fun n => (s.str n).cls == .b).length
    (sortBy (fun a b => decide (load a ≤ load b)) groups).head?
  | _ =>
    let room (g : Nat) : Int := (s.grp g).budget - s.admitNeed g
    (sortBy (fun a b => decide (room b ≤ room a)) groups).find? fun g => s.passes g d

/-! ### Passing over, shedding, withdrawing -/

def grpDefer (g : Nat) : Nat := grpSvc g + 0x10
def grpOverrun (g : Nat) : Nat := grpSvc g + 0x18

/-- The round that started at `round` passes over chunk `seq` of stream `n` (R54). -/
def State.passOver (s : State) (g n seq : Nat) (round : Int) : State :=
  (s.modChunk n seq fun c => { c with pos := .waiting, passedOver := some (c.passedOver.getD round) }).count (grpDefer g) 1

/-- The chunks of a run are withdrawn; they count as passed over by the round that planned them when `counted`. -/
def State.withdrawRun (s : State) (g : Nat) (r : Run) (counted : Bool) : State :=
  r.chunks.foldl (fun s p =>
    if counted then s.passOver g p.1 p.2 (s.grp g).round
    else s.modChunk p.1 p.2 fun c => { c with pos := .waiting }) s

/-- A leading gap in progress belongs to a planned run that has not started. -/
def Group.leading (G : Group) : Option Run :=
  match G.gap with
  | some { ends := _, before := some r } => if r.rerun || r.wide then none else some r
  | _ => none

/-- Every planned run that has not started is withdrawn, a leading gap with it. -/
def State.withdrawPlan (s : State) (g : Nat) (counted : Bool) : State :=
  let G := s.grp g
  let runs := (match G.leading with
    | some r => [r]
    | none => []) ++ G.plan
  let s1 := runs.foldl (fun s r => s.withdrawRun g r counted) s
  s1.modGrp g fun G => { G with plan := [], gap := if G.leading.isSome then none else G.gap }

/-- A stale B chunk (R51). -/
def Stream.stale? (r : Stream) (clk : Int) (c : Chunk) : Bool :=
  r.cls == .b && c.pos == .waiting && decide ((r.ts : Int) < clk - c.stamp)

/-- Step 1 of R47: every stale B chunk homed in the group is shed at the round start; a swap-in request that was
pending for it alone is cancelled. -/
def State.shedStale (s : State) (g : Nat) : State :=
  let clk := s.clk g
  (s.homed g).foldl (fun s n =>
    let r := s.str n
    let s1 := (r.chunks.filter (r.stale? clk)).foldl
      (fun s c => s.completeChunk n c { status := stShed, stamp := clk }) s
    if (s1.str n).chunks.isEmpty && (s1.str n).cls == .b then s1.cancelRequest g n else s1) s

/-! ### The plan -/

/-- A plan as it grows: its runs and their cost. -/
structure Draft where
  runs : List Run
  total : Nat
deriving DecidableEq, Repr

/-- A run with room for one more chunk of the image and variant. -/
def Run.open? (r : Run) (h v : Nat) : Bool := r.image == h && r.variant == v && decide (r.chunks.length < 64)

/-- The chunk `p` (stream, number) of image `h`, variant `v`, placed in the draft if the plan stays within `u` (step 4
of R47). -/
def State.place (s : State) (u h v : Nat) (p : Nat × Nat) (d : Draft) : Option Draft :=
  let m := s.img h
  match d.runs.find? fun r => r.open? h v with
  | some r =>
    let b := r.chunks.length
    let total := d.total + (s.planCost m v (b + 1) - s.planCost m v b)
    if total ≤ u then
      some { runs := d.runs.map fun q => if q == r then { q with chunks := q.chunks ++ [p] } else q, total }
    else none
  | none =>
    let total := d.total + s.planCost m v 1
    if total ≤ u then some { runs := d.runs ++ [{ image := h, variant := v, chunks := [p] }], total } else none

/-- The oldest chunk of stream `n` is one that step 3 of R47 takes. -/
def State.taken (s : State) (n : Nat) : Option Chunk :=
  let r := s.str n
  match r.chunks with
  | c :: _ =>
    if c.pos == .waiting && r.slot.isSome && (r.st == .opened || r.st == .closing || r.st == .exporting) then some c
    else none
  | [] => none

/-- The group places runs (R188, Table 13-9, R359, R360). -/
def Group.places (G : Group) : Bool :=
  G.unit == .enabled && G.expUnit == .enabled && G.retiring.isNone && !G.refill && G.heldBy == .none

/-- One taken chunk: passed over, refused because its variant is retired, or placed (R47, R54, R75). -/
def State.planChunk (s : State) (g u : Nat) (n : Nat) (d : Draft) : State × Draft :=
  match s.taken n with
  | none => (s, d)
  | some c =>
    let r := s.str n
    let G := s.grp g
    if !G.places || r.st == .exporting then (s.passOver g n c.seq G.round, d)
    else
      let v := (s.img r.image).variantOf r.classWord
      if (s.img r.image).isRetired g v then
        (s.completeChunk n c { status := stVariantRetired, stamp := s.clk g }, d)
      else match s.place u r.image v (n, c.seq) d with
        | some d1 => (s.modChunk n c.seq fun c => { c with pos := .placed, placedIn := some G.round }, d1)
        | none => (s.passOver g n c.seq G.round, d)

/-- What a run is ordered by (step 5 of R47): without an S chunk after those with one, then oldest stamp, then the
lowest stream number with that stamp. -/
def State.runKey (s : State) (r : Run) : Nat × Int × Nat :=
  let withS := r.chunks.any fun p => (s.str p.1).cls == .s
  let stamps := r.chunks.filterMap fun p => (s.chunkOf p.1 p.2).map fun c => (c.stamp, p.1)
  match stamps with
  | [] => (b2n (!withS), 0, 0)
  | x :: rest =>
    let best := rest.foldl (fun a b => if b.1 < a.1 ∨ (b.1 = a.1 ∧ b.2 < a.2) then b else a) x
    (b2n (!withS), best.1, best.2)

def keyLe (a b : Nat × Int × Nat) : Bool :=
  if a.1 ≠ b.1 then decide (a.1 < b.1) else if a.2.1 ≠ b.2.1 then decide (a.2.1 < b.2.1) else decide (a.2.2 ≤ b.2.2)

/-- U of the round as far as it is reduced (R49, R342). -/
def Group.room (G : Group) : Nat := G.budget - G.deducted

/-- Steps 3 to 5 of R47. The gaps are fixed here (R316). -/
def State.makePlan (s : State) (g : Nat) : State :=
  let order := sortBy s.before ((s.homed g).filter fun n => (s.taken n).isSome)
  let (s1, d) := order.foldl (fun (a : State × Draft) n => a.1.planChunk g (s.grp g).room n a.2) (s, ⟨[], 0⟩)
  let runs := sortBy (fun a b => keyLe (s1.runKey a) (s1.runKey b)) d.runs
  let gapped := runs.map fun r => { r with gap := s1.gapFor (s1.img r.image) r.variant r.chunks.length }
  s1.modGrp g fun G => { G with plan := gapped, planKappa := s1.power.kappa, total := d.total }

/-- Cost of a list of planned runs, with their gaps. -/
def State.runsCost (s : State) (l : List Run) : Nat :=
  sumOf (l.map fun r => (s.img r.image).runcostOf r.variant r.chunks.length + 2 * r.gap)

/-- The planned runs without the chunks that `gone` names. A run that loses one has the gap of its new length, under the factor
that the plan was made with; every other gap stays (R316, notes/assumptions/61.md). -/
def State.planWithout (s : State) (g : Nat) (gone : Nat × Nat → Bool) : List Run :=
  let G := s.grp g
  (G.plan.map fun r =>
    if r.chunks.any gone then
      let cs := r.chunks.filter fun p => !gone p
      { r with chunks := cs, gap := gapUnder G.planKappa (s.img r.image) r.variant cs.length }
    else r).filter fun r => !r.chunks.isEmpty

/-- Placed chunks are withdrawn in the reverse of the step 3 order until the plan fits U (R49), with fuel for the
number of chunks. -/
def State.fitPlan (g : Nat) : Nat → State → State
  | 0, s => s
  | f + 1, s =>
    let G := s.grp g
    if G.total ≤ G.room then s
    else
      let all := G.plan.flatMap fun r => r.chunks
      match (sortBy (fun a b => s.before a.1 b.1) all).getLast? with
      | none => s
      | some p =>
        let plan := s.planWithout g (· == p)
        let s1 := s.modGrp g fun G => { G with plan, total := s.runsCost plan }
        State.fitPlan g f (s1.passOver g p.1 p.2 G.round)

/-- U is reduced by `n` cycles, and the plan made to fit (R49, R342). -/
def State.reduceU (s : State) (g n : Nat) : State :=
  let s1 := s.modGrp g fun G => { G with deducted := G.deducted + n }
  State.fitPlan g ((s1.grp g).plan.flatMap (·.chunks)).length s1

/-! ### The round's budget -/

/-- Q, G and the headroom come into force at a round start (R42, R56, R318), and retired variants that IMAGE_RELOAD
restores return (R75). -/
def State.setBudget (s : State) (g : Nat) : State :=
  let q := 1000 * s.cfg.holdReserve
  let allow := 18750 * s.power.l
  let s1 := s.modGrp g fun G =>
    { G with q, gAllow := allow, headroom := s.cfg.headroom, budget := roundCycles - almanacCycles - q - allow
             deducted := 0, overrun := 0 }
  s1.loaded.foldl (fun s h =>
    let m := s.img h
    if m.restore.contains g then
      s.setImg h { m with restore := m.restore.filter (· != g), retired := m.retired.filter fun p => p.1 != g }
    else s) s1

/-- Capacity short is judged (R46). -/
def State.judgeCapacity (s : State) (g : Nat) : State :=
  let G := s.grp g
  let short := decide (G.budget < s.admitNeed g)
  let s1 := s.modGrp g fun G => { G with capacityShort := short }
  if short && !G.capacityShort then (s1.logEvent 0x0170 g noUnit 0 []).raiseInts [intCapacity] else s1

end Sys2Proof.Machine
end

