-- ==== Sys2Proof/Machine/Repair.lean ====
section
/-! DEFINITION. Repair: the journal and what waits for a record (R357), lasting row faults and map-out (R98 to R101),
cluster retirement and exhausted groups (R359 to R361), a group's reset (R362), latent faults (R367), unit state changes. -/

namespace Sys2Proof.Machine

/-! ### Unit states -/

/-- The number of a unit state (Table 13-8). -/
def UnitState.code : UnitState → Nat
  | .enabled => 0
  | .draining => 1
  | .aborting => 2
  | .disabled => 3
  | .resetting => 4
  | .off => 5

/-- The state of the unit TYPE, INDEX (R304). -/
def State.unitOf (s : State) (type index : Nat) : UnitState :=
  if type = 0 then (s.grp index).unit
  else if type = 1 then (s.prt index).unit
  else if type = 2 then s.cometUnit
  else (s.grp index).expUnit

/-- A unit's state changes: event 0x0180, and the UNIT cause is judged. -/
def State.setUnit (s : State) (type index : Nat) (u : UnitState) : State :=
  let old := s.unitOf type index
  if old = u then s
  else
    let s1 : State :=
      if type = 0 then s.modGrp index fun G => { G with unit := u }
      else if type = 1 then s.modPrt index fun p => { p with unit := u }
      else if type = 2 then { s with cometUnit := u }
      else s.modGrp index fun G => { G with expUnit := u }
    (s1.logEvent 0x0180 noUnit noUnit 0
      (leBytes 1 type ++ leBytes 1 index ++ leBytes 1 old.code ++ leBytes 1 u.code)).judgeAll

/-! ### Records of rows and clusters -/

/-- LOCATION by KIND (Table 16-4). -/
def rowLoc (g p bank br sp : Nat) : Nat := g + p * 2 ^ 6 + 2 ^ 11 * bank + 2 ^ 13 * br + 2 ^ 24 * sp
def clusterLoc (g failed repl : Nat) : Nat := g + failed * 2 ^ 6 + 2 ^ 11 * repl

/-- KIND 1 records of a bank, and KIND 2 records of a group. -/
def rowRecords (l : List Record) (g p bank : Nat) : List Record :=
  l.filter fun r => r.kind == 1 && bits r.location 0 6 == g && bits r.location 6 5 == p && bits r.location 11 2 == bank
def clusterRecords (l : List Record) (g : Nat) : List Record :=
  l.filter fun r => r.kind == 2 && bits r.location 0 6 == g

/-! ### Clusters of a group by the journal (R12, R361) -/

/-- Remap, spare and working clusters as KIND 2 records leave them. -/
structure Spares where
  remap : List Nat := List.range 25
  spare : Nat := 25
  ok : Nat := 0x3FFFFFF
  /-- logical index of a cluster retired without replacement -/
  lost : Option Nat := none
deriving DecidableEq, Repr

def Spares.apply (a : Spares) (r : Record) : Spares :=
  let f := bits r.location 6 5
  let repl := bits r.location 11 5
  let ok := a.ok - (if bit a.ok f then 2 ^ f else 0)
  let idx := (a.remap.takeWhile (· != f)).length
  if repl = 0x1F then
    { a with ok, spare := if a.spare = f then 0x1F else a.spare, lost := if idx < 25 then some idx else a.lost }
  else { a with ok, spare := 0x1F, remap := a.remap.map fun p => if p = f then repl else p }

def sparesOf (l : List Record) (g : Nat) : Spares := (clusterRecords l g).foldl Spares.apply {}

/-- Working physical clusters, the spare among them. -/
def Spares.working (a : Spares) : Nat := popCount 26 a.ok

/-- Under the 1,152-cluster profile the cluster of logical index 24 takes the index lost without replacement, and
logical index 24 is served by none (R361). -/
def Spares.narrow (a : Spares) : Spares :=
  match a.lost with
  | some i =>
    if i < 24 then { a with remap := (a.remap.set i (a.remap.getD 24 26)).set 24 26 } else { a with remap := a.remap.set 24 26 }
  | none => { a with remap := a.remap.set 24 26 }

/-- The journal leaves some group with fewer than 25 working clusters (R361). -/
def State.narrowDue (s : State) : Bool :=
  (List.range 48).any fun g => decide ((sparesOf s.repair.journal g).working < 25)

/-- A bank's remap table of R98: the latest record of a bank row decides. -/
def remapOf (l : List Record) (g p : Nat) : Table (Option Nat) :=
  (l.filter fun r => r.kind == 1 && bits r.location 0 6 == g && bits r.location 6 5 == p).foldl
    (fun t r => tput none t (2048 * bits r.location 11 2 + bits r.location 13 11) (some (bits r.location 24 6))) []

/-- Cluster and row records of group `g` are applied (R12, R87, R98, R357); the clusters are as cleared. A row is mapped by
the records in flash alone; a cluster record on its way into flash is applied too (R359). -/
def State.applyGroupRecords (s : State) (g : Nat) : State :=
  let a := sparesOf s.allRecords g
  let b := if s.repair.profile1152 then a.narrow else a
  let s1 := s.modGrp g fun G =>
    { G with remap := b.remap, spare := b.spare, clusterOk := BitVec.ofNat 26 b.ok, mapouts := [] }
  (List.range 26).foldl (fun s p => s.setClu g p { remap := remapOf s.repair.journal g p }) s1

/-! ### Targeted tests queued (R337, R338) -/

/-- Test sets join the queue entry of physical cluster `p`, or a new entry at the queue's end. -/
def State.queueTests (s : State) (g p : Nat) (sets : List TestSet) (implicated : Bool) (cmds : List Nat) : State :=
  (s.modGrp g fun G =>
    if G.tests.any fun e => e.cluster == p then
      { G with tests := G.tests.map fun e =>
          if e.cluster = p then
            { e with
              sets := e.sets ++ sets.filter fun x => !(e.sets.contains x) && !(e.ran.contains x)
              implicated := e.implicated || implicated
              cmds := e.cmds ++ cmds }
          else e }
    else { G with tests := G.tests ++ [{ cluster := p, sets, implicated, cmds }] }).judgeAll

/-! ### Retirement -/

/-- No run of the group is in progress, waiting or committing, and no gap of one. -/
def Group.runsOver (G : Group) : Bool := G.cur.isNone && G.quiesce.isNone && G.wideQ.isEmpty && G.gap.isNone
def Group.commitsOver (G : Group) : Bool :=
  G.lanes.all fun l => match l.2 with
    | some x => x.commits.isEmpty
    | none => true

/-- Every slot of the group is released and no swap is in progress. -/
def Group.slotsFree (G : Group) : Bool := G.swaps.isEmpty && (G.slots.all fun l => !l.2.valid)

/-- A record for group `g`'s retirement is still being written. -/
def State.recordPending (s : State) (g : Nat) : Bool :=
  s.repair.writing.any fun w => w.2 == .cluster g || w.2 == .exhausted g

/-- A retirement has not reset its group yet. -/
def Group.retiringNow (G : Group) : Bool :=
  match G.retiring with
  | some (p, _) => G.clusterOk.getLsbD p
  | none => false

/-- A lasting fault of cluster `p` is recorded with the spare that replaces it, if there is one, and its record starts to be
written. -/
def State.recordCluster (s : State) (g p : Nat) (spare : Option Nat) (next : RepairNext) : State :=
  match spare with
  | some sp => (s.logEvent 0x0132 g p 0 (leBytes 1 p ++ leBytes 1 sp)).writeRecord 2 (clusterLoc g p sp) next
  | none => (s.logEvent 0x0133 g p 0 (leBytes 1 p)).writeRecord 2 (clusterLoc g p 0x1F) next

/-- The spare that can replace cluster `p`. -/
def spareOf (spare p : Nat) : Option Nat := if spare < 26 ∧ spare ≠ p then some spare else none

/-- A lasting fault of physical cluster `p` (R101, R339, R340): retired to the spare, or the group is exhausted
(R359 steps 1 and 2, R360). While the group is in reset the record alone is written; a fault during a retirement finds no
spare left. -/
def State.retire (s : State) (g p : Nat) : State :=
  let G := s.grp g
  if !G.clusterOk.getLsbD p || G.heldBy != .none || (match G.retiring with
      | some (q, _) => q == p
      | none => false) then s
  else
    let dropped := s.modGrp g fun G => { G with tests := G.tests.filter fun e => e.cluster != p }
    let done := ((G.tests.filter fun e => e.cluster == p).flatMap (·.cmds))
    let s1 := dropped.finishAll done stSuccess (resultOf [(12, leBytes 1 1)])
    if !G.running then s1.recordCluster g p (spareOf (sparesOf s1.allRecords g).spare p) .other
    else if G.retiringNow then
      (s1.modGrp g fun G => { G with retiring := G.retiring.map fun x => (x.1, true) }).recordCluster g p none (.exhausted g)
    else
      let s2 := s1.withdrawPlan g false
      match spareOf G.spare p with
      | some sp =>
        ((s2.modGrp g fun G => { G with retiring := some (p, false) }).recordCluster g p (some sp) (.cluster g)).judgeAll
      | none =>
        ((s2.modGrp g fun G => { G with retiring := some (p, true) }).recordCluster g p none (.exhausted g)).judgeAll

/-- Every chunk of the streams of a group held DISABLED that waits ends with ST_DISABLED at its own readiness stamp
(R360, Table 2-12). -/
def State.endHeld (s : State) (g : Nat) : State :=
  (s.homed g).foldl (fun s n =>
    ((s.str n).chunks.filter fun c => c.pos == .waiting).foldl
      (fun s c => s.completeChunk n c { status := stDisabled, stamp := c.stamp }) s) s

/-- DISABLE, ENABLE and UNIT_RESET commands of a unit that have been taken and have not completed. -/
def State.unitCmds (s : State) (type index : Nat) (sel : Inflight → Bool) : List Nat :=
  (s.inflight.filter fun i => i.done.isNone && i.objs.contains (.unit type index) && sel i).map (·.id)
def Inflight.isDisable (i : Inflight) : Bool :=
  match i.instr with
  | .disable .. => true
  | _ => false

/-- Group `g` is held DISABLED until the next device reset (R360, R367): commands that wait for it complete. -/
def State.holdGroup (s : State) (g : Nat) (why : HeldBy) : State :=
  let off := s.unitCmds 0 g Inflight.isDisable
  let on := s.unitCmds 0 g fun i => !i.isDisable
  let s1 := ((s.modGrp g fun G =>
    { G with heldBy := why, retiring := none, almStart := none, almTest := none, resetAfter := false }).setUnit 0 g
    .disabled).setService
  ((s1.finishAll off stSuccess []).finishAll on stDisabled []).endHeld g

/-! ### A group's reset (R362, Table 16-5) -/

def grpResets (g : Nat) : Nat := grpRepair g + 0x08

/-- Counters of GRP_SEQ, which a group reset clears (Table 16-5). -/
def State.clearSeqCounters (s : State) (g : Nat) : State :=
  [0x08, 0x0C, 0x10, 0x14, 0x18, 0x1C, 0x20].foldl (fun s o => s.setCtr (grpSeq g + o) 0) s

/-- The group goes into reset: nothing of its work remains. -/
def State.beginGroupReset (s : State) (g : Nat) : State :=
  let s1 := s.modGrp g fun G =>
    { G with
      running := false, resetClock := s.clk g, resetTime := s.now, plan := [], cur := none, quiesce := none
      wideQ := [], gap := none, lanes := [], hold := none, schedVal := 0, schedClk := 0, storeBuf := 0
      slots := [], swaps := [], almStart := none, almTest := none, awaitSlot := false }
  let s2 := (List.range 26).foldl (fun s p => s.setClu g p {}) s1
  (s2.clearSeqCounters g).count (grpResets g) 1

/-- A chunk's times, rebased (R362). -/
def Chunk.rebase (c : Chunk) (d : Int) : Chunk :=
  { c with
    stamp := c.stamp - d
    swapReq := c.swapReq.map (· - d)
    passedOver := c.passedOver.map (· - d)
    placedIn := c.placedIn.map (· - d) }

/-- The group's counter restarts at 0, its journal records are applied, and the stamps of its streams' chunks are
rebased (R12, R87, R362). -/
def State.endGroupReset (s : State) (g : Nat) : State :=
  let G := s.grp g
  let d : Int := G.resetClock + 4 * ((s.now - G.resetTime) / 4 : Nat)
  let s1 := s.modGrp g fun G =>
    { G with clockBase := s.now, running := true, round := 0, planned := false, visit := 0, almSlots := 0 }
  let s2 := s1.applyGroupRecords g
  (s2.homed g).foldl (fun s n => s.modStr n fun r =>
    { r with
      slot := none
      chunks := r.chunks.map fun c => c.rebase d
      lastStamp := r.lastStamp.map fun p => if p.1 = g then (p.1, p.2 - d) else p }) s2

/-- A stream that moves away and still has a slot leaves it as soon as it can (R187). -/
def State.leaveSlots (s : State) (g : Nat) : State :=
  (s.homed g).foldl (fun s n =>
    let r := s.str n
    match r.slot with
    | some l =>
      if r.st == .moving && !(s.grp g).swapOn l
          && ((s.slotAt g l).clean || (s.cometUnit == .enabled && decide ((s.grp g).swaps.length < 4))) then s.evict g l none
      else s
    | none => s) s

/-- A group that DISABLE empties releases its slots once its runs are over (Table 13-9, R188). -/
def State.progressDisable (s : State) (g : Nat) : State :=
  let G := s.grp g
  if (G.unit == .draining || G.unit == .aborting) && G.running && G.runsOver then s.writeBack g else s

/-- The retirement of a cluster goes on (steps 3 and 4 of R359, R360): slots are released once the group's runs are
over, and with the record in flash the group resets, or is held. Other reasons to release slots go on too. -/
def State.progressRetirement (s : State) (g : Nat) : State :=
  let G0 := s.grp g
  match G0.retiring with
  | none => (s.leaveSlots g).progressDisable g
  | some (_, exhausted) =>
    if !G0.running || !G0.retiringNow then (s.leaveSlots g).progressDisable g
    else if !G0.runsOver then s.leaveSlots g
    else
      let s1 := s.writeBack g
      let G := s1.grp g
      if !G.slotsFree || !G.commitsOver || s1.recordPending g then s1
      else if exhausted then
        ({ s1 with repair := { s1.repair with profilePending := true } } : State).holdGroup g .exhausted
      else s1.beginGroupReset g

/-! ### Rows -/

/-- A bank row's map-out is pending or its record is being written. R99 calls a further lasting fault the same fault while
the map-out is pending; while the record is still being written the spec leaves it open, and here it is the same fault too
(DESIGN CHOICE, notes/assumptions/58.md). -/
def Group.mapping (G : Group) (p bank br : Nat) : Bool := G.mapouts.contains (p, bank, br) || G.mapWait.contains (p, bank, br)

/-- A lasting fault of bank row `br` (R99 to R101): a record names the bank's next free spare row, or the cluster's
fault is lasting. -/
def State.lastingRow (s : State) (g p bank br : Nat) : State :=
  if (s.grp g).mapping p bank br then s
  else
    let used := (rowRecords s.allRecords g p bank).length
    if used < 64 then
      (s.modGrp g fun G => { G with mapWait := G.mapWait ++ [(p, bank, br)] }).writeRecord 1
        (rowLoc g p bank br used) (.row g p bank br)
    else s.retire g p

/-- The spare row that the latest record names for a bank row. -/
def State.spareFor (s : State) (g p bank br : Nat) : Nat :=
  match ((rowRecords s.repair.journal g p bank).filter fun r => bits r.location 13 11 == br).getLast? with
  | some r => bits r.location 24 6
  | none => 0

/-- Scratchpad counters and event 0x0100 with the row of Table 4-3 counted from 0, bank and bank row (R96). -/
def spadCorrected (g : Nat) : Nat := grpSpad g
def spadUncorrectable (g : Nat) : Nat := grpSpad g + 0x04
def spadTagFaults (g : Nat) : Nat := grpSpad g + 0x08
def spadConflicts (g : Nat) : Nat := grpSpad g + 0x0C
def spadScrubHold (g : Nat) : Nat := grpSpad g + 0x10
def State.logRow (s : State) (injected : Bool) (g p bank br kind status : Nat) : State :=
  s.logAs injected 0x0100 g p status (leBytes 1 kind ++ leBytes 1 bank ++ leBytes 2 br)

/-- A row whose verify read found an error again has a lasting fault (R99), which is recorded (Table 4-3, R96). -/
def State.verifyFailed (s : State) (g : Nat) (x : Nat × Nat × Nat × Bool) : State :=
  let (p, bank, br, lasting) := x
  if lasting then (s.logRow false g p bank br 2 0).lastingRow g p bank br else s

/-- What an unscheduled read of a bank row meets (Table 4-3, R96): an error corrected, with its verify read, or one that is
returned to the requester. -/
def State.meetUnscheduled (s : State) (g p bank br : Nat) (m : Met) : State :=
  match m with
  | .clean => s
  | .corrected lasting =>
    ((s.count (spadCorrected g) 1).logRow false g p bank br 1 0).verifyFailed g (p, bank, br, lasting)
  | .uncorrectable _ =>
    ((s.count (spadUncorrectable g) 1).logRow false g p bank br 4 0).modClu g p fun c =>
      c.putRow (4 * br + bank) { c.row (4 * br + bank) with bad := true }

/-- The bank row `m` is mapped out: its read met `met`, and its content goes to the spare row, zero where it is not known
(R100). -/
def State.mapOut (s : State) (g : Nat) (m : Nat × Nat × Nat) (met : Met) : State :=
  let (p, bank, br) := m
  let sp := s.spareFor g p bank br
  let s1 := (s.meetUnscheduled g p bank br met).modGrp g fun G => { G with mapouts := G.mapouts.filter (· != m) }
  let s2 := s1.modClu g p fun c =>
    let old := c.row (4 * br + bank)
    let v : SRow := if old.bad then {} else old
    ({ c with remap := tput none c.remap (2048 * bank + br) (some sp) } : Cluster).putRow (4 * br + bank) v
  s2.logEvent 0x0101 g p 0 (leBytes 1 bank ++ leBytes 2 br ++ leBytes 1 sp)

/-- Map-outs take effect in an Almanac slot, for clusters that are not under test (R100). At which point of the slot the spec
does not say; here at its end (DESIGN CHOICE, notes/assumptions/58.md). -/
def State.applyMapouts (s : State) (g underTest : Nat) (reads : List Met) : State :=
  let due := (s.grp g).mapouts.filter fun m => m.1 != underTest
  (List.range due.length).foldl (fun s i => s.mapOut g (due.getD i (0, 0, 0)) (reads.getD i .clean)) s

/-! ### Latent faults (R367) -/

/-- The port of a device detector of Table 16-7, indices 48 to 79. -/
def portDetector (d : Nat) : Option Nat :=
  if 0xC00 + 48 ≤ d ∧ d < 0xC00 + 80 then some ((d - 0xC00 - 48) / 2) else none

/-- One detector failed to respond; `p` is the physical cluster of an instance, 26 or more for none. -/
def State.latentFault (s : State) (d p : Nat) : State :=
  let g := d / 64
  if d < 0xC00 then
    let s1 := s.logEvent 0x0004 g (if p < 26 then p else noUnit) 0 (leBytes 2 d)
    if p < 26 then s1.retire g p
    else
      let s2 := s1.holdGroup g .latent
      if 31 ≤ d % 64 ∧ d % 64 ≤ 34 then s2.markFailing g else s2
  else
    let s1 := s.logEvent 0x0004 noUnit noUnit 0 (leBytes 2 d)
    match portDetector d with
    | some q => ((s1.modPrt q fun r => { r with heldBy := .latent }).setUnit 1 q .disabled).setService
    | none => ({ s1 with repair := { s1.repair with startFail := true } } : State).setService

/-- The detectors that an injection found failing. -/
def State.latentFaults (s : State) (failed : List (Nat × Nat)) : State :=
  failed.foldl (fun s f => s.latentFault f.1 f.2) s

/-- LATENT of a group: its detectors among those that failed. -/
def latentOf (failed : List (Nat × Nat)) (g : Nat) : Nat :=
  ((failed.filter fun f => decide (f.1 / 64 = g) && decide (f.1 < 0xC00)).map (·.1)).eraseDups.length

end Sys2Proof.Machine
end

