-- ==== Sys2Proof/Machine/Access.lean ====
section
/-! DEFINITION. Scheduled scratchpad accesses (R85): bank claims (R86), buffer slots with generation tags and
requesters (R90, R91), what a read meets (Table 4-3), and armed scratchpad detectors (R365, R368). An action or word
that is to read or write rows leaves one due event for each access, which makes it in its own schedule value. -/

namespace Sys2Proof.Machine

/-- An event falls due in the run of group `g` at schedule value `d.sched`. -/
def State.addDue (s : State) (g : Nat) (d : Due) : State :=
  s.modGrp g fun G => { G with cur := G.cur.map fun r => { r with due := r.due ++ [d] } }
def State.addDues (s : State) (g : Nat) (l : List Due) : State := l.foldl (fun s d => s.addDue g d) s

/-- The run in progress, or the one that has just failed, is changed by `f`. -/
def State.modInfo (s : State) (g : Nat) (f : RunInfo → RunInfo) : State :=
  s.modGrp g fun G =>
    match G.cur with
    | some r => { G with cur := some (f r) }
    | none => { G with quiesce := G.quiesce.map fun q => { q with info := f q.info } }

/-- The running run changed by `f`. -/
def State.modRun (s : State) (g : Nat) (f : RunInfo → RunInfo) : State :=
  s.modGrp g fun G => { G with cur := G.cur.map f }

/-- The clusters of a mask that exist, as physical clusters. -/
def Group.maskPhys (G : Group) (mask : Nat) : List Nat :=
  ((List.range 25).filter fun c => bit mask c && decide (G.phys c < 26)).map G.phys
def State.physOf (s : State) (g mask : Nat) : List Nat := (s.grp g).maskPhys mask

/-! ### Requesters (Table 4-2) -/

def reqVector : Nat := 0
def reqMatrix : Nat := 1
def reqXfer : Nat := 2
def reqFetch : Nat := 3
def reqStore : Nat := 3
def reqInput : Nat := 4
def reqOutput : Nat := 4
def reqState : Nat := 5

/-! ### Buffer slots -/

/-- The slot table of the variant that group `g` runs. -/
def State.curSlots (s : State) (g : Nat) : List SlotDecl :=
  match (s.grp g).cur with
  | some r => match (s.img r.run.image).vars[r.run.variant]? with
    | some v => v.slots
    | none => []
  | none => []

def SlotDecl.holds (d : SlotDecl) (row : Nat) : Bool := decide (d.firstRow ≤ row) && decide (row < d.firstRow + d.rows)

/-- The buffer slot in which a row lies, with its number. -/
def slotOf (slots : List SlotDecl) (row : Nat) : Option (Nat × SlotDecl) :=
  match slots.findIdx? fun d => d.holds row with
  | some i => slots[i]?.map fun d => (i, d)
  | none => none

/-- next_gen of R91. -/
def nextGen (n : Nat) : Nat := if n = 255 then 1 else n + 1

/-- slot_write of R91: the cluster with FILL moved on, and the tag that goes with the row. -/
def Cluster.slotWrite (c : Cluster) (slots : List SlotDecl) (row : Nat) : Cluster × Nat :=
  match slotOf slots row with
  | none => (c, 0)
  | some (i, d) =>
    let t := tget {} c.tags i
    let t1 := if row = d.firstRow then { t with fill := nextGen t.fill } else t
    ({ c with tags := tput {} c.tags i t1 }, t1.fill)

/-- slot_read of R91: the cluster with DRAIN and PASS moved on, and whether the row's tag is the one expected. -/
def Cluster.slotRead (c : Cluster) (slots : List SlotDecl) (row tag : Nat) : Cluster × Bool :=
  match slotOf slots row with
  | none => (c, true)
  | some (i, d) =>
    let t := tget {} c.tags i
    let t1 := if row = d.firstRow then
        { t with
          drain := if t.pass = 0 then nextGen t.drain else t.drain
          pass := if t.pass + 1 = d.passes then 0 else (t.pass + 1) % 256 }
      else t
    ({ c with tags := tput {} c.tags i t1 }, tag == t1.drain)

/-- The requester is the one declared for the row's slot. -/
def requesterOk (slots : List SlotDecl) (row req : Nat) (write : Bool) : Bool :=
  match slotOf slots row with
  | none => true
  | some (_, d) => req == (if write then d.producer else d.consumer)

/-! ### One access -/

/-- A place in the scratchpad: physical cluster and row. -/
structure Spot where
  phys : Nat
  row : Nat
deriving DecidableEq, Repr

def Spot.due (p : Spot) (sched : Nat) (kind : DueKind) (injected : Bool) : Due :=
  { sched, kind, phys := p.phys, bank := p.row % 4, row := p.row / 4, injected }

/-- An access claims its bank in a schedule value; a second one in it is a conflict (R86). Claims of earlier values are
forgotten. -/
def State.claimBank (s : State) (g sched : Nat) (p : Spot) : State :=
  let c := s.clu g p.phys
  let k := sched * 4 + p.row % 4
  let s1 := s.setClu g p.phys { c with claims := k :: c.claims.filter fun x => decide (4 * sched ≤ x) }
  if c.claims.contains k then s1.addDue g (p.due sched .conflict false) else s1

/-- The requester check of an access (R91). -/
def State.checkRequester (s : State) (g sched : Nat) (p : Spot) (req : Nat) (write : Bool) : State :=
  if requesterOk (s.curSlots g) p.row req write then s else s.addDue g (p.due sched .tagFault false)

/-- A row written in a physical cluster with the tag of its slot (R91). -/
def State.storeRow (s : State) (g : Nat) (p : Spot) (v : Row) : State :=
  let (c, tag) := (s.clu g p.phys).slotWrite (s.curSlots g) p.row
  s.setClu g p.phys (c.putRow p.row { data := v, tag })

/-- A scheduled write of a whole row takes place at schedule value `sched`. -/
def State.writeAt (s : State) (g req sched : Nat) (p : Spot) (v : Row) : State :=
  ((s.claimBank g sched p).checkRequester g sched p req true).storeRow g p v

/-- What the read at `cycle` schedule values after the issue of row `row` of logical cluster `c` meets. -/
def metOf (ecc : Ecc) (cycle c row : Nat) : Met :=
  match ecc.find? fun x => x.cycle == cycle && x.cluster == c && x.row == row with
  | some x => x.met
  | none => .clean

/-- The events of a read of a slot row (Table 4-3, R95, R97): `tagOk` is the comparison's verdict. -/
def State.meet (s : State) (g sched : Nat) (p : Spot) (m : Met) (tagOk : Bool) : State :=
  match m with
  | .clean => if tagOk then s else s.addDue g (p.due sched .tagFault false)
  | .corrected lasting => s.addDue g (p.due sched (.corrected lasting (!tagOk)) false)
  | .uncorrectable w =>
    let s1 := s.addDue g (p.due sched .uncorrectable false)
    if tagOk || w then s1 else s1.addDue g (p.due sched .tagFault false)

/-- A scheduled read of a row takes place at schedule value `sched`. -/
def State.readAt (s : State) (g req sched : Nat) (p : Spot) (m : Met) : State × Row :=
  let s1 := (s.claimBank g sched p).checkRequester g sched p req false
  let cl := s1.clu g p.phys
  let r := cl.row p.row
  let (cl1, ok) := cl.slotRead (s1.curSlots g) p.row r.tag
  ((s1.setClu g p.phys cl1).meet g sched p m ok, r.data)

/-- The read that falls due at `sched`, of row `row` of physical cluster `p` that serves logical cluster `c`, for an operation
issued at `issued`. -/
def readDue (ecc : Ecc) (issued req sched c p row : Nat) (dest : Sink) : Due :=
  ({ phys := p, row } : Spot).due sched (.read req (metOf ecc (sched - issued) c row) dest) false

/-- The write that falls due at `sched`. -/
def writeDue (req sched p row : Nat) (v : Row) : Due := ({ phys := p, row } : Spot).due sched (.write req v) false

/-- The row that a due access concerns. -/
def Due.spot (d : Due) : Spot := { phys := d.phys, row := 4 * d.row + d.bank }

/-! ### Armed scratchpad detectors -/

/-- Indices of Table 16-6. -/
def detSpadCorrect : Nat := 10
def detSpadDouble : Nat := 11
def detTag : Nat := 12
def detRequester : Nat := 13
def detConflict : Nat := 14

/-- An armed detector of a group acts on an access, with the due event that it brings about. -/
def State.armDue (s : State) (g det sched : Nat) (p : Spot) (kind : DueKind) : State :=
  let (fired, s1) := s.fireArmed (grpDetector g det)
  if fired then s1.addDue g (p.due sched kind true) else s1

/-- An operation's first scratchpad access meets the armed detectors of the group's scratchpads (R368). -/
def State.armAccess (s : State) (g sched : Nat) (p : Spot) (read : Bool) : State :=
  let s1 := (s.armDue g detRequester sched p .tagFault).armDue g detConflict sched p .conflict
  if read then
    ((s1.armDue g detSpadCorrect sched p (.corrected false false)).armDue g detSpadDouble sched p .uncorrectable).armDue
      g detTag sched p .tagFault
  else s1

end Sys2Proof.Machine
end

