-- ==== Sys2Proof/Machine/Matrix.lean ====
section
/-! DEFINITION. Matrix engine: modes and operand layouts (R104 to R108, R114), K-steps with their checks (R113, R116,
R117, R119, R124, R125), the epilogue's start (R120, R129) and its result with the verdict (R117, R118, R126), and
factor formation (R121 to R123). -/

namespace Sys2Proof.Machine

/-! ### Modes (Table 5-1) -/

def modeI8 : Nat := 0
def modeI8W4 : Nat := 1
def modeI8B4 : Nat := 2
def modeI4 : Nat := 3
def modeF8 : Nat := 4
def modeBF : Nat := 5

def isIntMode (m : Nat) : Bool := decide (m < 4) && m != modeI8B4
def isFloatMode (m : Nat) : Bool := m == modeF8 || m == modeBF

/-- CORE cycles per K-step. -/
def stepCycles (mode : Nat) (sp24 : Bool) : Nat :=
  if mode = modeBF then 128 else if mode = modeI8 ∨ mode = modeF8 then (if sp24 then 16 else 32) else if sp24 then 8 else 16

/-- D of Table 5-2, and the data rows read per cycle (Table 5-3). -/
def dataRows (mode : Nat) : Nat := if mode = modeI4 then 8 else if mode = modeBF then 32 else 16
def rowsPerCycle (mode : Nat) (sp24 : Bool) : Nat :=
  if mode = modeI8 then (if sp24 then 2 else 1)
  else if mode = modeI4 then (if sp24 then 2 else 1)
  else if isFloatMode mode then 1
  else if sp24 then 3 else 2

/-- The operand reads of a K-step that starts at `v`: pairs of schedule value and row (R107, R108). DESIGN CHOICE: the spec
names no row past 8,191; one that XROW or SROW with its offset reaches is taken modulo 8,192 (notes/assumptions/53.md). -/
def operandReads (m : MmaOp) (v : Nat) : List (Nat × Nat) :=
  let d := dataRows m.mode
  let per := rowsPerCycle m.mode m.sp24
  ((List.range d).map fun q => (v + q / per, (m.xrow + m.next * d + q) % 8192))
    ++ (if isFloatMode m.mode then []
        else (List.range 2).map fun h => (v + ceilDiv d per, (m.srow + 2 * m.next + h) % 8192))

/-! ### Operand values -/

/-- c(q) of Table 7-5. -/
def intCode (w : Nat) (uns : Bool) (q : Nat) : Int := if uns then (q % 2 ^ w : Nat) else sext w q

/-- The 1,024 activation codes X[k][i] in order 32 i + k (Table 5-2). -/
def actCodes (mode : Nat) (rows : List Row) : List Nat :=
  let bytes := rows.flatMap rowBytes
  if mode = modeI4 then bytes.flatMap fun b => [b.toNat % 16, b.toNat / 16]
  else if mode = modeBF then (pieces 2 (bytes.length + 1) bytes).map leNat
  else bytes.map (·.toNat)

/-- Weight codes W[j][k] in order 32 j + k, none where 2:4 sparsity leaves a position out (R114). -/
def weightCodes (w : WPos) (sp24 : Bool) : List (Option Nat) :=
  if sp24 then
    (List.range 32).flatMap fun j => (List.range 8).flatMap fun m =>
      let ix := w.index.getD (8 * j + m) 0
      (List.range 4).map fun i =>
        if i = ix % 4 then some (w.codes.getD (16 * j + 2 * m) 0)
        else if i = ix / 4 % 4 then some (w.codes.getD (16 * j + 2 * m + 1) 0)
        else none
  else w.codes.map some

def weightInt (mode : Nat) (wu : Bool) : Option Nat → Int
  | none => 0
  | some q => if mode = modeI8B4 then b4Code q else intCode (if mode = modeI8 then 8 else 4) wu q

def actInt (mode : Nat) (xu : Bool) (q : Nat) : Int := intCode (if mode = modeI4 then 4 else 8) xu q

/-- The float format of an operand (R106). -/
def opFormat (mode : Nat) (u : Bool) : FFmt := if mode = modeBF then fmtBf16 else if u then fmtE5m2 else fmtE4m3

def intSum (l : List Int) : Int := l.foldl (· + ·) 0
def dotInt (a b : List Int) : Int := intSum (List.zipWith (· * ·) a b)

/-- Column sums over rows of 32. -/
def colSums (rows : List (List Int)) : List Int := rows.foldl (List.zipWith (· + ·)) (List.replicate 32 0)

def rows32 {α : Type} (l : List α) : List (List α) := pieces 32 33 l

/-- `r` rows of 32 at most (a V block, R121). -/
def rowsOf32 {α : Type} (r : Nat) (l : List α) : List (List α) := pieces 32 r l

/-- An FP32 word of a list of bytes. -/
def f32At (l : List Byte) (i : Nat) : F32 := BitVec.ofNat 32 (field l i 4)

/-- FP32 codes of values. -/
def codesOf (l : List Dy) : List F32 := l.map f32Code
def valuesOf (l : List F32) : List Dy := l.map fun x => (f32Val x).1

/-! ### A K-step's arithmetic -/

/-- What a K-step's reads delivered. -/
structure StepData where
  x : List Nat
  sums : List Int

def stepData (m : MmaOp) (rows : List Row) : StepData :=
  let d := dataRows m.mode
  { x := actCodes m.mode (rows.take d)
    sums := (pieces 4 33 ((rows.drop d).flatMap rowBytes)).map fun b => sext 32 (leNat b) }

/-- The schedule value of the K-step's last operand read. -/
def lastRead (m : MmaOp) (v : Nat) : Nat :=
  v + ceilDiv (dataRows m.mode) (rowsPerCycle m.mode m.sp24) - b2n (isFloatMode m.mode)

/-- An i32 holds a value modulo 2³² (R9). -/
def wrap32 (v : Int) : Int := (BitVec.ofInt 32 v).toInt

/-- (f32) of an exact integer (R162). -/
def castF32 (v : Int) : Dy := (f32s (Dy.ofInt v)).1

/-- The checker's sums of a K-step of integers (R124). -/
def Acc.checkSums (a : Acc) (d : StepData) (rs : List Int) (x w : List (List Int)) (p : List Int) : Acc :=
  let xa := colSums x
  let wb := colSums w
  { a with
    sumAB := a.sumAB + dotInt xa wb, sumA := a.sumA + intSum xa, sumB := a.sumB + intSum wb
    sumCS := a.sumCS + intSum d.sums, sumRS := a.sumRS + intSum rs, sumP := a.sumP + intSum p }

/-- A K-step of modes I8, I8W4, I4 (R117). -/
def Acc.stepInt (a : Acc) (m : MmaOp) (d : StepData) (w : WPos) : Acc :=
  let x := rows32 (d.x.map (actInt m.mode m.xu))
  let wv := rows32 ((weightCodes w m.sp24).map (weightInt m.mode m.wu))
  let p := x.flatMap fun xi => wv.map fun wj => dotInt xi wj
  ({ a with
    p := List.zipWith (fun x y => wrap32 (x + y)) a.p p, cs := List.zipWith (fun x y => wrap32 (x + y)) a.cs d.sums
    rs := List.zipWith (fun x y => wrap32 (x + y)) a.rs w.rs
    steps := a.steps + 1 } : Acc).checkSums d w.rs x wv p

/-- f32s over a list, and whether one saturated. -/
def f32sAll (l : List Dy) : List Dy × Bool :=
  let r := l.map f32s
  (r.map (·.1), r.any (·.2))

/-- The float sum check grows by a K-step's r and m (R125). -/
def Acc.floatSums (a : Acc) (r m : List Dy × Bool) : Acc :=
  let tr := ftree 5 r.1
  let tm := ftree 5 m.1
  let sr := f32s ((f32Val a.sR).1.add tr.1)
  let sm := f32s ((f32Val a.sM).1.add tm.1)
  { a with
    sR := f32Code sr.1, sM := f32Code sm.1
    saturated := a.saturated || r.2 || m.2 || tr.2 || tm.2 || sr.2 || sm.2 }

/-- A K-step of mode I8B4 (R117). -/
def Acc.stepB4 (a : Acc) (m : MmaOp) (zxv : Int) (d : StepData) (w : WPos) : Acc :=
  let x := rows32 (d.x.map (actInt m.mode m.xu))
  let wv := rows32 ((weightCodes w m.sp24).map (weightInt m.mode m.wu))
  let raw := x.flatMap fun xi => wv.map fun wj => dotInt xi wj
  let p := (rows32 raw).flatMap fun row => List.zipWith (fun v r => wrap32 (v - zxv * r)) row w.rs
  let gs := w.g.map fmtE4m3.decode
  let gv := gs.map (·.1)
  let prod := (rows32 p).flatMap fun row => List.zipWith (fun v g => (castF32 v).mul g) row gv
  let (pr, s1) := f32sAll prod
  let (na, s2) := f32sAll (List.zipWith Dy.add (valuesOf a.a) pr)
  let cols := colSums (rows32 p)
  let abss := colSums (rows32 (p.map fun v => (v.natAbs : Int)))
  let r := f32sAll (List.zipWith (fun v g => (castF32 v).mul g) cols gv)
  let mm := f32sAll (List.zipWith (fun v g => (castF32 v).mul g.abs) abss gv)
  let b : Acc :=
    { a with
      a := codesOf na, tSum := a.tSum + intSum p, saturated := a.saturated || s1 || s2
      nonfinite := a.nonfinite || gs.any (·.2), steps := a.steps + 1 }
  (b.checkSums d w.rs x wv raw).floatSums r mm

/-- A K-step of modes F8 and BF (R117). -/
def Acc.stepFloat (a : Acc) (m : MmaOp) (d : StepData) (w : WPos) : Acc :=
  let xs := d.x.map (opFormat m.mode m.xu).decode
  let ws := w.codes.map (opFormat m.mode m.wu).decode
  let x := rows32 (xs.map (·.1))
  let wv := rows32 (ws.map (·.1))
  let dots := x.flatMap fun xi => wv.map fun wj => dySum (List.zipWith Dy.mul xi wj)
  let (dv, s1) := f32sAll dots
  let (na, s2) := f32sAll (List.zipWith Dy.add (valuesOf a.a) dv)
  let col (rows : List (List Dy)) : List Dy := rows.foldl (List.zipWith Dy.add) (List.replicate 32 {})
  let absRows (rows : List (List Dy)) := rows.map fun r => r.map Dy.abs
  let fxs (l : List Dy) := f32sAll l
  let xa := fxs (col x)
  let wb := fxs (col wv)
  let xm := fxs (col (absRows x))
  let wm := fxs (col (absRows wv))
  let r := f32sAll (List.zipWith Dy.mul xa.1 wb.1)
  let mm := f32sAll (List.zipWith Dy.mul xm.1 wm.1)
  let b : Acc :=
    { a with
      a := codesOf na, steps := a.steps + 1
      saturated := a.saturated || s1 || s2 || xa.2 || wb.2 || xm.2 || wm.2
      nonfinite := a.nonfinite || xs.any (·.2) || ws.any (·.2) }
  b.floatSums r mm

/-- zxv of R117 for an accumulator's parameter set. -/
def zxvOf (xu : Bool) (q : ParamSet) : Int := if xu then q.zx else 0

/-- A K-step on an accumulator. DESIGN CHOICE: no rule says what a K-step computes whose MODE or SP24 does not fit the format
of the tile in its position; the step takes the codes, g and index items as the position holds them, and items that are
missing shorten its lists (notes/assumptions/53.md). -/
def Acc.step (a : Acc) (m : MmaOp) (d : StepData) (w : WPos) : Acc :=
  if isFloatMode m.mode then a.stepFloat m d w
  else if m.mode = modeI8B4 then a.stepB4 m m.zx d w
  else a.stepInt m d w

/-- The K-step is clock-gated (R116, R167). -/
def gatedStep (m : MmaOp) (rows : List Row) (w : WPos) : Bool :=
  ((rows.take (dataRows m.mode)).all (· == 0)) || (m.mode != modeI8B4 && w.codes.all (· == 0))

/-! ### K-steps in the schedule -/

/-- FULL of a weight position at schedule value `v` (R112, R113). -/
def WPos.isFull (w : WPos) (v : Nat) : Bool :=
  w.full && decide (w.fullAt ≤ v) && (match w.freeAt with
    | some f => decide (v < f)
    | none => true)

/-- A position is directed at while it is full or being filled. -/
def WPos.taken (w : WPos) (v : Nat) : Bool :=
  w.full && (match w.freeAt with
    | some f => decide (v < f)
    | none => true)

def mtxGated (g : Nat) : Nat := grpMtx g + 0x04

/-- Detectors 20, 22, 23 of Table 16-6. -/
def detMatrix : Nat := 20
def detWeightFull : Nat := 22
def detQueueFull : Nat := 23

/-- A sequence fault of an engine at `v` where `bad` holds, or where the detector is armed. -/
def State.engineFault (s : State) (g phys det v : Nat) (bad : Bool) : State :=
  let s1 := if bad then s.addDue g { sched := v, kind := .fail 0x0020, phys } else s
  let (fired, s2) := s1.fireArmed (grpDetector g det)
  if fired then s2.addDue g { sched := v, kind := .fail 0x0020, phys, injected := true } else s2

/-- The positions that a word reads are released from `v` on (R113). -/
def Cluster.releasePositions (c : Cluster) (m : MmaOp) (v : Nat) : Cluster :=
  (List.range m.steps).foldl (fun c k =>
    let i := (m.wpos + k) % 16
    { c with wpos := tput {} c.wpos i { tget {} c.wpos i with freeAt := some v } }) c

/-- After a K-step of length `len` at `v`: the next one is due, or the word's work is over. -/
def Cluster.afterStep (c : Cluster) (m : MmaOp) (v len : Nat) : Cluster × Option Due :=
  if m.next + 1 < m.steps then
    ({ c with mma := some { m with next := m.next + 1, starts := v + len } }, some { sched := v + len, kind := .kstep })
  else
    let c1 := if m.rel then c.releasePositions m (v + len) else c
    let c2 : Cluster := { c1 with mma := none }
    if m.epi then
      let a := tget {} c2.acc m.acc
      ({ c2 with acc := tput {} c2.acc m.acc { a with opened := false, epi := some (v + len, v + len), epiOver := false } },
        some { sched := v + len, kind := .epiStart m.acc })
    else (c2, none)

/-- The logical cluster that physical cluster `p` serves. -/
def Group.logical (G : Group) (p : Nat) : Nat := (G.remap.takeWhile (· != p)).length

/-- The next K-step of physical cluster `p` starts at schedule value `v`: its position is judged, its reads fall due, and its
arithmetic with the last of them (R107, R108, R113). DESIGN CHOICE: where MEPI to the accumulator issues during the
chain, or has not issued, a K-step of I8B4 takes the zx that stands in the parameter set as it starts, 0 if no MEPI has
loaded one (notes/assumptions/53.md). -/
def State.kstep (s : State) (g p v : Nat) : State :=
  match (s.clu g p).mma with
  | none => s
  | some m =>
    let c := s.clu g p
    let w := tget {} c.wpos ((m.wpos + m.next) % 16)
    let misuse := w.formed && (m.mode != modeI8 || m.wu || m.sp24)
    let s0 := if 128 ≤ (tget {} c.acc m.acc).steps then s.addDue g { sched := v, kind := .fail 0x0020, phys := p } else s
    let s1 := s0.engineFault g p detWeightFull v (!w.isFull v || misuse)
    let l := (s.grp g).logical p
    let s2 := s1.addDues g ((operandReads m v).map fun x => readDue m.ecc m.issued reqMatrix x.1 l p x.2 .operand)
    (s2.modClu g p fun c =>
        { c with
          mma := some { m with rows := [], zx := zxvOf m.xu (tget {} c.params m.acc) }
          arrayBusy := v + stepCycles m.mode m.sp24 - 1 }).addDue g { sched := lastRead m v, kind := .kcompute, phys := p }

/-- The K-step in progress of physical cluster `p` computes on the rows that it has read (R116, R117). -/
def State.kcompute (s : State) (g p : Nat) : State :=
  match (s.clu g p).mma with
  | none => s
  | some m =>
    let c := s.clu g p
    let w := tget {} c.wpos ((m.wpos + m.next) % 16)
    let c1 : Cluster := { c with acc := tput {} c.acc m.acc ((tget {} c.acc m.acc).step m (stepData m m.rows) w) }
    let (c2, d) := c1.afterStep m m.starts (stepCycles m.mode m.sp24)
    let s1 := (s.setClu g p c2).count (mtxGated g) (b2n (gatedStep m m.rows w))
    match d with
    | some d => s1.addDue g { d with phys := p }
    | none => s1

/-- The accumulator's epilogue runs at `v`. -/
def Acc.epiRuns (a : Acc) (v : Nat) : Bool :=
  match a.epi with
  | some (st, e) => decide (st ≤ v) && decide (v ≤ e)
  | none => false

/-- An epilogue of the accumulator is to come or in progress. -/
def Acc.epiAhead (a : Acc) : Bool := a.epi.isSome && !a.epiOver

/-- Cycles of an epilogue (R120). -/
def epiCycles (out : Bool) : Nat := if out then 32 else 24

/-- The epilogue of accumulator `a` of physical cluster `p` starts at `v` (R120, R129). -/
def State.epiStart (s : State) (g p a v : Nat) : State :=
  let c := s.clu g p
  let x := tget {} c.acc a
  let q := tget {} c.params a
  let bad := (tget {} c.acc (1 - a)).epiRuns v || !q.loaded || decide (v ≤ q.readyAt) || (!q.out && (x.mode == modeI8B4 || isFloatMode x.mode))
  (s.setClu g p { c with acc := tput {} c.acc a { x with epi := some (v, v + epiCycles q.out - 1) } }).engineFault g p
    detMatrix v bad

/-! ### The epilogue's result (R117, R118, R124 to R126) -/

/-- What an epilogue brings forth. -/
structure Result where
  vals : List (BitVec 32)
  verdict : Nat
  saturated : Bool
  nonfinite : Bool

/-- zwv of R117. -/
def zwvOf (wu : Bool) (q : ParamSet) : List Int := if wu then q.zw.map Int.ofNat else List.replicate 32 0

/-- Correction stage of the integer modes. -/
def Acc.correct (a : Acc) (q : ParamSet) : List Int :=
  let zx := zxvOf a.xu q
  let zw := zwvOf a.wu q
  let k : Int := 32 * a.steps
  (List.zipWith (fun row cs =>
    List.zipWith (fun (p : Int) (zr : Int × Int) => wrap32 (p - zr.1 * cs - zx * zr.2 + k * zx * zr.1)) row (zw.zip a.rs))
    (rows32 a.p) a.cs).flatten

/-- Verdict 4's condition, of the corrected values `c`. -/
def Acc.correctionOk (a : Acc) (q : ParamSet) (c : List Int) : Bool :=
  let zx := zxvOf a.xu q
  let zw := intSum (zwvOf a.wu q)
  if a.mode = modeI8B4 then a.tSum == a.sumP - 32 * zx * a.sumRS
  else intSum c == a.sumP - zw * a.sumCS - 32 * zx * a.sumRS + 32 * (32 * a.steps) * zx * zw

/-- The float sum check (R125): whether it holds, and whether it saturated. -/
def Acc.floatOk (a : Acc) : Bool × Bool :=
  let sc := ftree 10 (valuesOf a.a)
  let d := f32s (sc.1.sub (f32Val a.sR).1)
  let m := f32s ((f32Val a.sM).1.scale (-10))
  let b := f32s (m.1.add { m := 1, e := -100 })
  (!b.1.lt d.1.abs, sc.2 || d.2 || m.2 || b.2)

/-- A parameter read as +0 where it is not finite. -/
def scaleOne (q : ParamSet) (bias : Bool) (c : Dy) (j : Nat) : Dy × Bool :=
  let a := f32s (c.mul (f32Val q.sx).1)
  let b := f32s (a.1.mul (f32Val (q.sw.getD j 0)).1)
  if bias then
    let d := f32s (b.1.add (f32Val (q.biases.getD j 0)).1)
    (d.1, a.2 || b.2 || d.2)
  else (b.1, a.2 || b.2)

/-- The scaling stage (R118) over values in order 32 i + j. -/
def scaleStage (q : ParamSet) (c : List Dy) : List Dy × Bool :=
  let r := (List.range c.length).map fun n => scaleOne q q.bias (c.getD n {}) (n % 32)
  (r.map (·.1), r.any (·.2))

/-- A parameter set holds a value that is not finite among those its use reads (R119). -/
def ParamSet.nonfinite (q : ParamSet) : Bool :=
  q.out && ((f32Val q.sx).2 || q.sw.any (fun x => (f32Val x).2) || (q.bias && q.biases.any fun x => (f32Val x).2))

/-- A hardware fault can bring about verdict `upset`: its check applies to the mode (Table 5-9, R125). -/
def upsetApplies (mode upset : Nat) (out sat : Bool) : Bool :=
  if upset = 2 ∨ upset = 3 ∨ upset = 4 then !isFloatMode mode
  else if upset = 5 then !isIntMode mode && !sat
  else upset == 6 && out

/-- The epilogue's result; `upset` is a verdict 2 to 6 that a hardware fault brings about, or 0. -/
def Acc.epilogue (a : Acc) (q : ParamSet) (upset : Nat) : Result :=
  let c := a.correct q
  let (vals, s1) :=
    if isIntMode a.mode then
      if q.out then
        let f := f32sAll (c.map Dy.ofInt)
        let r := scaleStage q f.1
        (codesOf r.1, f.2 || r.2)
      else (c.map (BitVec.ofInt 32), false)
    else
      let f := if a.mode = modeI8B4 then f32sAll ((valuesOf a.a).map fun v => v.mul (Dy.ofInt q.kc)) else (valuesOf a.a, false)
      let r := scaleStage q f.1
      (codesOf r.1, f.2 || r.2)
  let fsum := if isIntMode a.mode then (true, false) else a.floatOk
  let sat := a.saturated || s1 || fsum.2
  let fails : List Nat :=
    (if isFloatMode a.mode then []
     else (if a.sumA = a.sumCS ∧ a.sumB = a.sumRS then [] else [2]) ++ (if a.sumP = a.sumAB then [] else [3])
       ++ (if a.correctionOk q c then [] else [4]))
    ++ (if isIntMode a.mode || sat || fsum.1 then [] else [5]) ++ (if upsetApplies a.mode upset q.out sat then [upset] else [])
  let verdict := match fails with
    | [] => if !isIntMode a.mode && sat then 1 else 0
    | f :: r => r.foldl min f
  { vals, verdict, saturated := sat, nonfinite := a.nonfinite || q.nonfinite }

/-! ### Factor formation (R122) -/

/-- The codes of a factor block as integers. -/
def factorInts (b4 : Bool) (codes : List Nat) : List Int := codes.map fun q => if b4 then b4Code q else sext 8 q

/-- A formed tile: codes, row sums, and whether the checksum holds. DESIGN CHOICE: the spec does not say what MFAC forms from
banks whose content has another rank than RANK16, or from a UBANK that a V block filled, which has no FMUL; the tile is
formed from the rows and columns that the banks hold, so that what is missing shortens the lists
(notes/assumptions/53.md). -/
def formTile (r fsh : Nat) (u v fmul : List Int) : List Nat × List Int × Bool :=
  let us := pieces r 33 u
  let vs := rowsOf32 r v
  let rowOf (uj : List Int) : List Int :=
    (List.zipWith (fun x (row : List Int) => row.map (x * ·)) uj vs).foldl (List.zipWith (· + ·)) (List.replicate 32 0)
  let accs := us.map rowOf
  let chk := intSum (accs.map intSum)
  let ucols := (List.range r).map fun t => intSum (us.map fun row => row.getD t 0)
  let ref := dotInt ucols (vs.map intSum)
  let w := List.zipWith (fun row f => row.map fun (a : Int) => clampInt (-128) 127 (rshiftRne (a * f) fsh)) accs fmul
  (w.flatten.map (toTwos 8), w.map intSum, chk == ref)

end Sys2Proof.Machine
end

