-- ==== Sys2Proof/Machine/Vector.lean ====
section
/-! DEFINITION. Vector engine: stream registers and elements (R133, R134), masks (R140, R141), the elementwise,
conversion, reduction, table and scan arithmetic (R139, R143 to R147, R161, R190 to R193), and an operation's slots with
their accesses (R137, R138, R152). -/

namespace Sys2Proof.Machine

/-! ### Formats (Table 6-2) -/

/-- Elements per row and positions per beat. -/
def fmtPer (f : Nat) : Nat := [128, 128, 64, 64, 32, 16, 64, 64, 32, 16, 512].getD f 64
def fmtPos (f : Nat) : Nat := [1, 1, 1, 1, 2, 4, 1, 1, 2, 4, 1].getD f 1
def isFloatFmt (f : Nat) : Bool := decide (6 ≤ f) && decide (f ≤ 9)
def isUnsignedFmt (f : Nat) : Bool := f == 1 || f == 3
def maskFmt : Nat := 10

def floatFmt (f : Nat) : FFmt := if f = 6 then fmtE4m3 else if f = 7 then fmtE5m2 else if f = 8 then fmtBf16 else fmtF32

/-- Lane values of an element's code. -/
def elemInt (f code : Nat) : Int :=
  if isUnsignedFmt f || f == maskFmt then code else sext (512 / fmtPer f) code
def elemFloat (f code : Nat) : Dy × Bool :=
  if isFloatFmt f then (floatFmt f).decode code else ((f32s (Dy.ofInt (elemInt f code))).1, false)

/-- Range of an integer format. -/
def fmtMin (f : Nat) : Int := if isUnsignedFmt f then 0 else -(2 ^ (512 / fmtPer f - 1) : Nat)
def fmtMax (f : Nat) : Int :=
  if isUnsignedFmt f then (2 ^ (512 / fmtPer f) - 1 : Nat) else ((2 ^ (512 / fmtPer f - 1) : Nat) : Int) - 1

/-- rne_int of R143. -/
def rneInt (a : Dy) : Int := clampInt (-(2 ^ 62)) (2 ^ 62) a.toInt

/-- A float value converted into a format with zero point `z`: code, and whether it saturated (R139, R161, R162). DESIGN CHOICE:
for a CVT into a MASK destination the code of R143 would give the clamp of rne_int(t) to 0 and 1 and count saturation, and
Table 7-3 gives 1 for any non-zero value and none; the table is taken (notes/assumptions/54.md). -/
def fromFloat (f : Nat) (z : Int) (v : Dy) : Nat × Bool :=
  if f = maskFmt then (b2n (!v.isZero), false)
  else if isFloatFmt f then
    let r := (floatFmt f).round v
    ((floatFmt f).encode r.1, r.2)
  else
    let t := rneInt v + z
    let q := clampInt (fmtMin f) (fmtMax f) t
    (toTwos (512 / fmtPer f) q, q != t)

/-- An exact integer converted into a format (R139, R162). -/
def fromInt (f : Nat) (v : Int) : Nat × Bool :=
  if f = maskFmt then (b2n (v != 0), false)
  else if isFloatFmt f then
    let r := f32s (Dy.ofInt v)
    let q := fromFloat f 0 r.1
    (q.1, q.2 || r.2)
  else
    let q := clampInt (fmtMin f) (fmtMax f) v
    (toTwos (512 / fmtPer f) q, q != v)

/-! ### Streams -/

def SReg.per (r : SReg) : Nat := fmtPer r.fmt
def SReg.scalar (r : SReg) : Bool := r.length == 1

/-- Scratchpad row of the stream's row `j` (R134). With RUN 0, which the field's range leaves out, the rows after the
first are free (notes/assumptions/26.md). -/
def SReg.rowAt (r : SReg) (j : Nat) : Nat :=
  if r.run = 0 then (if j = 0 then r.base else Config.freeValue (2 ^ 60 + 2 * (2 ^ 20 * r.base + j)) % 8192)
  else r.base + j / r.run * r.stride + j % r.run
def SReg.rowCount (r : SReg) : Nat := ceilDiv r.length r.per
def SReg.beats (r : SReg) : Nat := ceilDiv r.length 64

/-- Element `e` of a row that holds it. -/
def elemCode (f : Nat) (row : Row) (e : Nat) : Nat := bits row.toNat (512 / fmtPer f * (e % fmtPer f)) (512 / fmtPer f)

/-- Rows that beat `n` is the first to need, and rows that beat `m` completes (R137). -/
def SReg.beatReads (r : SReg) (n : Nat) : List Nat :=
  if 64 ≤ r.per then (if 64 * n % r.per = 0 then [64 * n / r.per] else [])
  else ((List.range (fmtPos r.fmt)).map (fmtPos r.fmt * n + ·)).filter fun j => decide (j * r.per < r.length)
def SReg.beatWrites (r : SReg) (m : Nat) : List Nat :=
  if 64 ≤ r.per then (if 64 * (m + 1) % r.per = 0 ∨ m + 1 = r.beats then [64 * m / r.per] else [])
  else ((List.range (fmtPos r.fmt)).map (fmtPos r.fmt * m + ·)).filter fun j => decide (j * r.per < r.length)

/-! ### Words (Table 6-3) -/

def VecOp.w (o : VecOp) : Nat := o.word.toNat
def VecOp.cls (o : VecOp) : Nat := bits o.w 56 4
def clsEw : Nat := 3
def clsCvt : Nat := 4
def clsRed : Nat := 5
def clsLut : Nat := 6
def clsScan : Nat := 7

def VecOp.func (o : VecOp) : Nat := bits o.w 50 6
def VecOp.mz (o : VecOp) : Bool := if o.cls = clsEw then bit o.w 29 else if o.cls = clsCvt then bit o.w 8 else true
def VecOp.qsrc (o : VecOp) : Bool := o.cls == clsCvt && bit o.w 45
def VecOp.csen (o : VecOp) : Bool := o.cls == clsCvt && bit o.w 26
def VecOp.rf (o : VecOp) : Nat := bits o.w 43 3
def VecOp.dir (o : VecOp) : Bool := bit o.w 42
/-- GB of a RED; for 0, which its range leaves out, it is free (notes/assumptions/26.md). -/
def VecOp.gb (o : VecOp) : Nat :=
  if bits o.w 26 16 = 0 then 1 + Config.freeValue (2 ^ 61) % 65535 else bits o.w 26 16
/-- Beats of a step of a SCAN. -/
def VecOp.wb (o : VecOp) : Nat := bits o.w 14 6 + 1

/-- Number of operands of an EW function (Table 6-4). -/
def ewArity (func : Nat) : Nat :=
  if func = 4 ∨ func = 9 ∨ func = 10 then 3
  else if (1 ≤ func ∧ func ≤ 3) ∨ func = 5 ∨ func = 6 ∨ (0x0B ≤ func ∧ func ≤ 0x10) then 2 else 1

/-- What takes access positions, in order, with its width (R137, R191): 0 A, 1 B, 2 C, 5 S, 3 mask, 4 old values of D,
8 carry out, 6 column sums, 7 D. -/
def VecOp.layout (o : VecOp) : List (Nat × Nat) :=
  let src (k : Nat) (r : SReg) : List (Nat × Nat) := if r.scalar then [] else [(k, fmtPos r.fmt)]
  let maskP := if o.mask.isSome then [(3, 1)] else []
  let old := if o.mask.isSome && !o.mz then [(4, fmtPos o.d.fmt)] else []
  let dst := [(7, fmtPos o.d.fmt)]
  if o.cls = clsEw then
    let n := ewArity o.func
    src 0 o.a ++ (if 2 ≤ n then src 1 o.b else []) ++ (if 3 ≤ n then src 2 o.c else []) ++ maskP ++ old ++ dst
  else if o.cls = clsCvt then
    (if o.qsrc then [] else src 0 o.a) ++ src 5 o.s ++ maskP ++ old ++ (if o.csen then [(6, 1)] else []) ++ dst
  else if o.cls = clsRed then src 0 o.a ++ maskP ++ dst
  else if o.cls = clsLut then src 0 o.a
  else [(0, fmtPos o.a.fmt), (1, fmtPos o.b.fmt), (2, fmtPos o.c.fmt), (8, fmtPos o.e.fmt)] ++ dst

def VecOp.positions (o : VecOp) : Nat := sumOf (o.layout.map (·.2))

/-- The first position of what `k` stands for. -/
def VecOp.posOf (o : VecOp) (k : Nat) : Nat := sumOf ((o.layout.takeWhile fun x => x.1 != k).map (·.2))

/-- k of R137 and R191: L is the number of steps of a SCAN. -/
def VecOp.steps (o : VecOp) : Nat := o.d.length / (64 * o.wb)
def VecOp.compute (o : VecOp) : Nat :=
  if o.cls = clsEw then (if 0x11 ≤ o.func ∧ o.func ≤ 0x17 then 4 else 1)
  else if o.cls = clsScan then ceilDiv (o.steps + 1) 8 else 1

/-- The register whose LENGTH gives the beats. -/
def VecOp.lead (o : VecOp) : SReg := if o.cls = clsRed ∨ o.cls = clsLut then o.a else o.d

/-- Schedule value of the first cycle of slot `n`, and of position `p` of it. -/
def VecOp.slotAt (o : VecOp) (n : Nat) : Nat := o.issued + 1 + o.pace * n
def VecOp.posAt (o : VecOp) (n p : Nat) : Nat := o.slotAt n + p / 4

/-- Schedule value in which the operation ends. -/
def VecOp.ends (o : VecOp) : Nat := o.issued + o.pace * (o.beats + 2)

/-! ### Element access -/

/-- The register that stands behind a source number. -/
def VecOp.reg (o : VecOp) (k : Nat) : SReg :=
  if k = 0 then o.a else if k = 1 then o.b else if k = 2 then o.c
  else if k = 3 then o.mask.getD {} else if k = 5 then o.s else if k = 8 then o.e else if k = 6 then o.e else o.d

def VecOp.rowOf (o : VecOp) (k j : Nat) : Row :=
  match o.rows.find? fun x => x.1 == k && x.2.1 == j with
  | some x => x.2.2
  | none => 0

/-- Code of element `e` of source `k`; a scalar gives its one element to every lane. -/
def VecOp.code (o : VecOp) (k e : Nat) : Nat :=
  let r := o.reg k
  if r.scalar then o.scalars.getD (if k = 5 then 3 else k) 0 else elemCode r.fmt (o.rowOf k (e / r.per)) e

/-- Element `e` is active (R140). -/
def VecOp.active (o : VecOp) (e : Nat) : Bool :=
  decide (e < o.lead.length) && (match o.mask with
    | some _ => (elemCode maskFmt (o.rowOf 3 (e / 512)) e == 1) != o.lead.minv
    | none => true)

/-! ### Elementwise functions (Table 6-4) -/

/-- Integer mode: the exact result; `none` for a shift amount outside its range. -/
def ewInt (func : Nat) (a b c : Int) : Option Int :=
  let band (f : BitVec 64 → BitVec 64 → BitVec 64) : Int := (f (BitVec.ofInt 64 a) (BitVec.ofInt 64 b)).toInt
  if func = 1 then some (a + b) else if func = 2 then some (a - b) else if func = 3 then some (a * b)
  else if func = 4 then some (a * b + c) else if func = 5 then some (max a b) else if func = 6 then some (min a b)
  else if func = 7 then some a.natAbs else if func = 8 then some (-a) else if func = 9 then some (min (max a b) c)
  else if func = 10 then some (if c ≠ 0 then a else b) else if func = 11 then some (if b < a then 1 else 0)
  else if func = 12 then (if 0 ≤ b ∧ b ≤ 63 then some (rshiftRne a b.toNat) else none)
  else if func = 13 then (if 0 ≤ b ∧ b ≤ 31 then some (a * 2 ^ b.toNat) else none)
  else if func = 14 then some (band (· &&& ·)) else if func = 15 then some (band (· ||| ·))
  else if func = 16 then some (band (· ^^^ ·)) else some a

def dyMax (a b : Dy) : Dy := if a.lt b then b else a
def dyMin (a b : Dy) : Dy := if b.lt a then b else a
def dyLe0 (a : Dy) : Bool := !Dy.lt {} a

/-- Float mode: the exact result, or a value that rounds as it does; true where the +0 case counts in NONFINITE_IN. -/
def ewFloat (func : Nat) (a b c : Dy) : Dy × Bool :=
  if func = 1 then (a.add b, false) else if func = 2 then (a.sub b, false) else if func = 3 then (a.mul b, false)
  else if func = 4 then ((a.mul b).add c, false) else if func = 5 then (dyMax a b, false)
  else if func = 6 then (dyMin a b, false) else if func = 7 then (a.abs, false) else if func = 8 then (a.negate, false)
  else if func = 9 then (dyMin (dyMax a b) c, false) else if func = 10 then (if c.isZero then b else a, false)
  else if func = 11 then (Dy.ofInt (if b.lt a then 1 else 0), false)
  else if func = 0x11 then (dyExp a, false)
  else if func = 0x12 then (if dyLe0 a then ({}, true) else (dyLog a, false))
  else if func = 0x13 then (if a.isZero then ({}, true) else (dyRcp a, false))
  else if func = 0x14 then (if dyLe0 a then ({}, true) else (dyRsqrt a, false))
  else if func = 0x15 then (dySigmoid a, false) else if func = 0x16 then (dyTanh a, false)
  else if func = 0x17 then (dySilu a, false) else (a, false)

/-! ### What a beat brings about -/

/-- Counts, supervision and faults of a beat. -/
structure Beat where
  op : VecOp
  nonfinite : Nat := 0
  saturated : Nat := 0
  /-- supervision: position and |t| with its saturation -/
  sup : List (Nat × F32 × Bool) := []
  /-- element of a shift amount outside its range -/
  badShift : Option Nat := none
  lut : List F32 := []

/-- An element's result: code, elements read as +0, saturation, shift amount out of range. -/
structure Elem where
  code : Nat
  nonfinite : Nat := 0
  sat : Bool := false
  bad : Bool := false

/-- Element `e` of source `k` is read as +0; a scalar's element is read once, in the issue cycle, and counted there. -/
def VecOp.nonfin (o : VecOp) (k e : Nat) : Nat := if (o.reg k).scalar then 0 else b2n (elemFloat (o.reg k).fmt (o.code k e)).2

/-- The scalars of an operation in the order of their reads: place among A, B, C, S, and register (R137). -/
def VecOp.scalarRegs (o : VecOp) : List (Nat × SReg) :=
  let all : List (Nat × SReg) :=
    if o.cls = clsEw then ([(0, o.a), (1, o.b), (2, o.c)].take (ewArity o.func))
    else if o.cls = clsCvt then (if o.qsrc then [] else [(0, o.a)]) ++ [(3, o.s)]
    else if o.cls = clsRed then [(0, o.a)] else []
  all.filter fun y => y.2.scalar

/-- The scalars' codes from the rows read. -/
def scalarCodes (regs : List (Nat × SReg)) (rows : List Row) : List Nat :=
  (List.range 4).map fun k =>
    match regs.findIdx? fun y => y.1 == k with
    | some i => elemCode (regs.getD i (0, {})).2.fmt (rows.getD i 0) 0
    | none => 0

/-- The operation with its scalars and flags, from the rows read in its issue cycle. -/
def VecOp.withScalars (o : VecOp) : VecOp :=
  let regs := o.scalarRegs
  { o with
    scalars := scalarCodes regs o.scalarRows
    flags := if o.cls = clsScan then
        (List.range o.f.length).map fun i => elemCode maskFmt (o.scalarRows.getD regs.length 0) i == 1
      else [] }

/-- Scalars of a float operation that are read as +0 (R139). -/
def VecOp.scalarNonfin (o : VecOp) : Nat :=
  if (o.cls = clsEw && !o.float) || o.func = 0x18 && o.cls = clsEw then 0
  else sumOf (o.scalarRegs.map fun y => b2n (elemFloat y.2.fmt (o.scalars.getD y.1 0)).2)

/-- A scalar shift amount lies outside its range (R149). -/
def VecOp.badScalarShift (o : VecOp) : Bool :=
  o.cls == clsEw && o.b.scalar && !o.float && (o.func == 0x0C || o.func == 0x0D) &&
    (let b := elemInt o.b.fmt (o.scalars.getD 1 0)
     decide (b < 0) || decide ((if o.func = 0x0C then 63 else 31) < b))

/-- Lane result of an EW element (R139). -/
def VecOp.ewLane (o : VecOp) (lut : List F32) (e : Nat) : Elem :=
  let n := ewArity o.func
  let ca := o.code 0 e
  if o.func = 0x18 then
    let q := f32Val (lut.getD ((if isFloatFmt o.a.fmt then ca else toTwos 8 (elemInt o.a.fmt ca)) % 256) 0)
    let r := fromFloat o.d.fmt 0 q.1
    { code := r.1, nonfinite := b2n q.2, sat := r.2 }
  else if o.float then
    let a := elemFloat o.a.fmt ca
    let b := if 2 ≤ n then elemFloat o.b.fmt (o.code 1 e) else ({}, false)
    let c := if 3 ≤ n then elemFloat o.c.fmt (o.code 2 e) else ({}, false)
    let x := ewFloat o.func a.1 b.1 c.1
    let v := f32s x.1
    let r := fromFloat o.d.fmt 0 v.1
    { code := r.1, sat := v.2 || r.2
      nonfinite := o.nonfin 0 e + (if 2 ≤ n then o.nonfin 1 e else 0) + (if 3 ≤ n then o.nonfin 2 e else 0) + b2n x.2 }
  else
    let b := if 2 ≤ n then elemInt o.b.fmt (o.code 1 e) else 0
    let c := if 3 ≤ n then elemInt o.c.fmt (o.code 2 e) else 0
    match ewInt o.func (elemInt o.a.fmt ca) b c with
    | some v =>
      let r := fromInt o.d.fmt v
      { code := r.1, sat := r.2 }
    | none => { code := 0, bad := true }

/-- Old value of element `e` of D (R140). -/
def VecOp.oldCode (o : VecOp) (e : Nat) : Nat :=
  if o.mask.isSome && !o.mz then elemCode o.d.fmt (o.rowOf 4 (e / o.d.per)) e else 0

/-- Beat `n` of an EW. -/
def VecOp.ewBeat (o : VecOp) (lut : List F32) (n : Nat) : Beat :=
  let es := (List.range 64).map (64 * n + ·)
  let lanes := es.map fun e => if o.active e then o.ewLane lut e else { code := o.oldCode e }
  { op := { o with results := o.results ++ [(n, lanes.map (·.code))] }
    nonfinite := sumOf (lanes.map (·.nonfinite)), saturated := (lanes.filter (·.sat)).length
    badShift := (lanes.findIdx? (·.bad)).map (64 * n + ·) }

/-- Lane result of a CVT element with its t (R143); `tile` is the queue's head entry under QSRC. -/
def VecOp.cvtLane (o : VecOp) (tile : Option Tile) (e : Nat) : Elem × Dy :=
  let x : Dy × Bool := match tile with
    | some q =>
      let v := q.vals.getD e 0
      if q.fp then f32Val v else ((f32s (Dy.ofInt v.toInt)).1, false)
    | none => ((elemFloat o.a.fmt (o.code 0 e)).1, o.nonfin 0 e == 1)
  let sc := elemFloat o.s.fmt (o.code 5 e)
  let t := f32s (x.1.mul sc.1)
  let z : Int := if isUnsignedFmt o.d.fmt then bits o.w 32 8 else 0
  let r := fromFloat o.d.fmt z t.1
  ({ code := r.1, sat := t.2 || r.2, nonfinite := b2n x.2 + o.nonfin 5 e }, t.1)

/-- The position that element `e` is supervised under (R143). -/
def VecOp.supPos (o : VecOp) (e : Nat) : Nat :=
  let epp := bits o.w 9 6
  bits o.w 15 6 + (if epp = 0 then 0 else e / (32 * epp))

/-- Beat `n` of a CVT. -/
def VecOp.cvtBeat (o : VecOp) (tile : Option Tile) (chunks n : Nat) : Beat :=
  let es := (List.range 64).map (64 * n + ·)
  let lanes := es.map fun e => if o.active e then o.cvtLane tile e else ({ code := o.oldCode e }, {})
  let codes := lanes.map (·.1.code)
  let sum (h : Nat) : Int := intSum ((slice codes (32 * h) 32).map (elemInt o.d.fmt))
  let sums := if o.csen then
      (List.range 2).filterMap fun h => if 64 * n + 32 * h < o.d.length then some (2 * n + h, toTwos 32 (sum h)) else none
    else []
  let sup := if bit o.w 25 then
      (es.zip lanes).filterMap fun x =>
        if o.active x.1 && decide (o.supPos x.1 < chunks) then some (o.supPos x.1, f32Code x.2.2.abs, x.2.1.sat) else none
    else []
  { op := { o with results := o.results ++ [(n, codes)], sums := o.sums ++ sums }
    nonfinite := sumOf (lanes.map (·.1.nonfinite)), saturated := (lanes.filter (·.1.sat)).length, sup }

/-! ### Reductions (R146) -/

/-- One more term in an integer accumulator. -/
def redInt (rf : Nat) (acc : Option Int) (x : Int) : Option Int :=
  let t : Int := if rf = 1 then x * x else if rf = 4 then x.natAbs else x
  match acc with
  | none => some t
  | some a => some (if rf = 2 ∨ rf = 4 then max a t else if rf = 3 then min a t else a + t)

/-- f32s(x × x) or x, |x| for AMAX. -/
def redTerm (rf : Nat) (x : Dy) : Dy × Bool :=
  if rf = 1 then f32s (x.mul x) else if rf = 4 then (x.abs, false) else (x, false)

def accVal (a : Option Int) : Option Dy := a.map fun v => (f32Val (BitVec.ofInt 32 v)).1
def valAcc (v : Dy) : Option Int := some ((f32Code v).toNat : Int)

/-- One more value in a float accumulator; a sum starts with the first beat's value itself. -/
def redFloat (rf : Nat) (acc : Option Int) (x : Dy) : Option Int × Bool :=
  match accVal acc with
  | none => (valAcc x, false)
  | some a =>
    if rf = 2 ∨ rf = 4 then (valAcc (dyMax a x), false)
    else if rf = 3 then (valAcc (dyMin a x), false)
    else
      let r := f32s (a.add x)
      (valAcc r.1, r.2)

/-- An accumulator converted into D's format; none yields 0. -/
def VecOp.redOut (o : VecOp) (acc : Option Int) : Nat × Bool :=
  match acc with
  | none => (0, false)
  | some v => if o.float then fromFloat o.d.fmt 0 (f32Val (BitVec.ofInt 32 v)).1 else fromInt o.d.fmt v

/-- Lane accumulators after the values of a beat: for each lane, its active value. -/
def VecOp.redLanes (o : VecOp) (accs : List (Option Int)) (vals : List (Option (Int × Dy))) : List (Option Int) × Nat :=
  let rf := o.rf
  let isSum := decide (rf ≤ 1)
  let out := (accs.zip vals).map fun (x : Option Int × Option (Int × Dy)) =>
    match x.2 with
    | some (i, d) =>
      if o.float then
        let t := redTerm rf d
        let r := redFloat rf x.1 t.1
        (r.1, b2n (t.2 || r.2))
      else (redInt rf x.1 i, 0)
    | none => if o.float && isSum then ((redFloat rf x.1 {}).1, 0) else (x.1, 0)
  (out.map (·.1), sumOf (out.map (·.2)))

/-- The accumulator across lanes after a beat (DIR 0). -/
def VecOp.redAcross (o : VecOp) (acc : Option Int) (vals : List (Option (Int × Dy))) : Option Int × Nat :=
  let rf := o.rf
  if o.float && decide (rf ≤ 1) then
    let ts := vals.map fun v => match v with
      | some (_, d) => redTerm rf d
      | none => ({}, false)
    let tr := ftree 6 (ts.map (·.1))
    let r := redFloat rf acc tr.1
    (r.1, b2n (tr.2 || r.2 || ts.any (·.2)))
  else
    vals.foldl (fun a v => match v with
      | some (i, d) =>
        if o.float then ((redFloat rf a.1 (redTerm rf d).1).1, a.2) else (redInt rf a.1 i, a.2)
      | none => a) (acc, 0)

/-- Beat `n` of a RED. -/
def VecOp.redBeat (o : VecOp) (n : Nat) : Beat :=
  let es := (List.range 64).map (64 * n + ·)
  let vals := es.map fun e => if o.active e then some (elemInt o.a.fmt (o.code 0 e), (elemFloat o.a.fmt (o.code 0 e)).1) else none
  let nf := if o.float then sumOf (es.map fun e => if o.active e then o.nonfin 0 e else 0) else 0
  if o.rf = 5 then
    let part (h : Nat) : Int := intSum ((slice vals (32 * h) 32).map fun v => match v with
      | some (i, _) => i
      | none => 0)
    let outs := (List.range 2).map fun h => (2 * n + h, fromInt o.d.fmt (part h))
    { op := { o with sums := o.sums ++ outs.map fun x => (x.1, x.2.1) }, nonfinite := nf
      saturated := (outs.filter fun x => x.2.2).length }
  else
    let ends := (n + 1) % o.gb = 0 ∨ n + 1 = o.beats
    let grp := n / o.gb
    let start := if o.accs.isEmpty then List.replicate 64 none else o.accs
    if o.dir then
      let (accs, st) := o.redLanes start vals
      if ends then
        let outs := accs.map o.redOut
        { op := { o with accs := [], sums := o.sums ++ (List.range 64).map fun l => (64 * grp + l, (outs.getD l (0, false)).1) }
          nonfinite := nf, saturated := st + (outs.filter (·.2)).length }
      else { op := { o with accs }, nonfinite := nf, saturated := st }
    else
      let (acc, st) := o.redAcross (o.accs.headD none) vals
      if ends then
        let out := o.redOut acc
        { op := { o with accs := [], sums := o.sums ++ [(grp, out.1)] }, nonfinite := nf, saturated := st + b2n out.2 }
      else { op := { o with accs := [acc] }, nonfinite := nf, saturated := st }

/-! ### Scan (R190 to R193) -/

/-- A decay code as used, and whether it was clamped (R190). -/
def decayCode (v : Int) : Nat × Bool := ((clampInt 0 8191 v).toNat, decide (v < 0) || decide (8191 < v))

/-- h_t of one channel from the history up to step `t`, newest last (R192). -/
def scanValue (hist : List (Nat × F32)) (carry : F32) (flags : List Bool) : Dy × Bool :=
  let t := hist.length - 1
  let kt := (hist.getD t (0, 0)).1
  let seg := ((List.range (t + 1)).filter fun i => flags.getD i false).getLast?
  let from_ := seg.getD 0
  let terms := ((List.range (t + 1)).filter fun i => decide (from_ ≤ i)).map fun i =>
    let x := hist.getD i (0, 0)
    decay (kt - x.1) (f32Val x.2).1
  let first := if seg.isNone then [decay kt (f32Val carry).1] else []
  f32s (dySum (first ++ terms))

/-- Beat `n` of a SCAN: step n div wb, channels from 64 × (n mod wb). -/
def VecOp.scanBeat (o : VecOp) (n : Nat) : Beat :=
  let t := n / o.wb
  let ch0 := 64 * (n % o.wb)
  let lanes := (List.range 64).map fun l =>
    let e := 64 * n + l
    let ch := ch0 + l
    let k := decayCode (elemInt o.a.fmt (o.code 0 e))
    let b := elemFloat o.b.fmt (o.code 1 e)
    let cin := if t = 0 then elemFloat o.c.fmt (elemCode o.c.fmt (o.rowOf 2 (ch / o.c.per)) ch) else ({}, false)
    let carry := if t = 0 then f32Code cin.1 else o.carry.getD ch 0
    let old := o.hist.getD ch []
    let hist := old ++ [((old.getLast?.map (·.1)).getD 0 + k.1, f32Code b.1)]
    let h := scanValue hist carry o.flags
    (carry, hist, h, b2n k.2, b2n b.2 + b2n cin.2)
  let codes := lanes.map fun x => (f32Code x.2.2.1.1).toNat
  let hists := if t = 0 then o.hist ++ lanes.map (·.2.1) else o.hist.take ch0 ++ lanes.map (·.2.1) ++ o.hist.drop (ch0 + 64)
  { op :=
      { o with
        results := o.results ++ [(n, codes)], hist := hists
        carry := if t = 0 then o.carry ++ lanes.map (·.1) else o.carry
        sums := if t + 1 = o.steps then o.sums ++ (List.range 64).map fun l => (ch0 + l, codes.getD l 0) else o.sums }
    nonfinite := sumOf (lanes.map (·.2.2.2.2)), saturated := sumOf (lanes.map fun x => x.2.2.2.1 + b2n x.2.2.1.2) }

/-- Beat `n` of an LDLUT; a non-finite element is read as +0 (R139, R147). -/
def VecOp.lutBeat (o : VecOp) (n : Nat) : Beat :=
  let es := (List.range 64).map (64 * n + ·)
  { op := o, lut := es.map fun e => f32Code (elemFloat o.a.fmt (o.code 0 e)).1, nonfinite := sumOf (es.map (o.nonfin 0)) }

/-- Beat `n` of an operation. -/
def VecOp.beat (o : VecOp) (lut : List F32) (tile : Option Tile) (chunks n : Nat) : Beat :=
  if o.cls = clsEw then o.ewBeat lut n
  else if o.cls = clsCvt then o.cvtBeat tile chunks n
  else if o.cls = clsRed then o.redBeat n
  else if o.cls = clsLut then o.lutBeat n
  else o.scanBeat n

/-! ### Checks (R150, R151) -/

/-- Integer paths that residues cover: 7 residue, 8 selection residue; none for neither. -/
def VecOp.residueDet (o : VecOp) : Option Nat :=
  if o.cls = clsEw then
    if o.float then none
    else if o.func ≤ 4 ∨ o.func = 8 ∨ o.func = 0x19 then some 7
    else if o.func ≤ 10 then some 8 else none
  else if o.cls = clsRed then
    if o.float then none else if o.rf ≤ 1 ∨ o.rf = 5 then some 7 else some 8
  else if o.csen then some 7 else none

/-- The shadow unit repeats it (R151). -/
def VecOp.shadowed (o : VecOp) : Bool :=
  if o.cls = clsEw then o.float || (decide (5 ≤ o.func) && o.func != 8 && o.func != 0x19)
  else if o.cls = clsRed then o.float || (2 ≤ o.rf && o.rf ≤ 4)
  else o.cls == clsCvt || o.cls == clsScan

/-- The device pass of a lane fault (Table 15-4). -/
def VecOp.faultPass (o : VecOp) : Nat :=
  if o.cls = clsRed ∨ o.cls = clsScan then 7 else if o.cls = clsCvt ∨ o.float ∨ o.func = 0x18 then 6 else 5

/-- The lane fault that a hardware fault brings about in beat `n`: element, and found by duplication. -/
def VecOp.upsetIn (o : VecOp) (shadow : Bool) (n : Nat) : Option (Nat × Bool) :=
  match o.upset with
  | .none => none
  | .residue e => if o.residueDet.isSome && e / 64 == n && o.active e then some (e, false) else none
  | .duplication e => if shadow && o.shadowed && e / 64 == n && o.active e then some (e, true) else none

/-! ### Supervision (R145) -/

/-- Supervision entry of SID and chunk position: SID × 64 + p. -/
def supKey (sid p : Nat) : Nat := sid * 64 + p

def SupEntry.add (x : SupEntry) (t : F32) (sat : Bool) : SupEntry :=
  { amax := if f32Mag x.amax < f32Mag t then t else x.amax
    sats := min 0xFFFFFFFF (x.sats + b2n sat), vals := min 0xFFFFFFFF (x.vals + 1) }

/-! ### Slots in the schedule -/

def vecOps (g : Nat) : Nat := grpVec g
def vecNonfinite (g : Nat) : Nat := grpVec g + 0x0C
def vecSaturated (g : Nat) : Nat := grpVec g + 0x10

/-- The reads of slot `n`: source, row of the stream, schedule value (R137). -/
def VecOp.slotReads (o : VecOp) (n : Nat) : List (Nat × Nat × Nat) :=
  let of (k : Nat) (js : List Nat) : List (Nat × Nat × Nat) :=
    (List.range js.length).map fun i => (k, js.getD i 0, o.posAt n (o.posOf k + i))
  o.layout.flatMap fun x =>
    if x.1 = 2 ∧ o.cls = clsScan then (if n < o.wb then of 2 (o.c.beatReads n) else [])
    else if x.1 ≤ 5 then of x.1 ((o.reg x.1).beatReads n) else []

/-- Content of row `j` of a register from codes by element; what has none keeps the old value or is 0. -/
def VecOp.packRow (o : VecOp) (r : SReg) (j : Nat) (get : Nat → Option Nat) : Row :=
  let w := 512 / r.per
  BitVec.ofNat 512 ((List.range r.per).foldl (fun acc i =>
    let e := j * r.per + i
    let c := match get e with
      | some v => v
      | none => if r == o.d then o.oldCode e else 0
    acc + c % 2 ^ w * 2 ^ (w * i)) 0)

def lookupNat (l : List (Nat × Nat)) (e : Nat) : Option Nat := (l.find? fun x => x.1 == e).map (·.2)

/-- Code of element `e` of D among the results of beats. -/
def VecOp.resultCode (o : VecOp) (e : Nat) : Option Nat :=
  match o.results.find? fun x => x.1 == e / 64 with
  | some x => if e < o.d.length then x.2[e % 64]? else none
  | none => none

/-- Rows of D that beat `m` of a RED completes. -/
def VecOp.redWrites (o : VecOp) (m : Nat) : List Nat :=
  let last := m + 1 = o.beats
  let p := o.d.per
  if o.rf = 5 then (if (2 * m + 2) % p = 0 ∨ last then [2 * m / p] else [])
  else if (m + 1) % o.gb ≠ 0 ∧ ¬ last then []
  else if o.dir then
    let grp := m / o.gb
    if 64 ≤ p then (if 64 * (grp + 1) % p = 0 ∨ last then [64 * grp / p] else [])
    else (List.range (fmtPos o.d.fmt)).map (fmtPos o.d.fmt * grp + ·)
  else if (m / o.gb + 1) % p = 0 ∨ last then [m / o.gb / p] else []

/-- The writes of slot `n`, which serve beat n − 2: register, row of the stream, schedule value, content. -/
def VecOp.slotWrites (o : VecOp) (n : Nat) : List (SReg × Nat × Nat × Row) :=
  let m := n - 2
  let of (k : Nat) (r : SReg) (js : List Nat) (get : Nat → Option Nat) : List (SReg × Nat × Nat × Row) :=
    (List.range js.length).map fun i =>
      let j := js.getD i 0
      (r, j, o.posAt n (o.posOf k + i), o.packRow r j get)
  if n < 2 ∨ o.beats ≤ m then []
  else if o.cls = clsLut then []
  else if o.cls = clsRed then of 7 o.d (o.redWrites m) (lookupNat o.sums)
  else
    (if o.cls = clsScan ∧ (o.steps - 1) * o.wb ≤ m then of 8 o.e (o.e.beatWrites (m - (o.steps - 1) * o.wb)) (lookupNat o.sums)
     else [])
    ++ (if o.csen ∧ ((2 * m + 2) % 16 = 0 ∨ m + 1 = o.beats) then of 6 o.e [2 * m / 16] (lookupNat o.sums) else [])
    ++ of 7 o.d (o.d.beatWrites m) o.resultCode

/-- What later slots no longer need is dropped. -/
def VecOp.trim (o : VecOp) (n : Nat) : VecOp :=
  { o with
    rows := o.rows.filter fun x => decide (64 * n < (x.2.1 + 1) * (o.reg x.1).per + 192)
    results := o.results.filter fun x => decide (64 * n < (64 * x.1 / o.d.per + 1) * o.d.per + 192) }

/-- A lane fault of beat `n` falls due in the first cycle of slot n + 2 (R152). -/
def State.laneDue (s : State) (g p : Nat) (o : VecOp) (n e : Nat) (dup injected : Bool) : State :=
  s.addDue g
    { sched := o.slotAt (n + 2), kind := .lane (e % 64) o.cls dup o.faultPass, phys := p, injected }

/-- The beat's first active element. -/
def VecOp.firstActive (o : VecOp) (n : Nat) : Option Nat := ((List.range 64).map (64 * n + ·)).find? o.active

/-- An armed detector of the vector engine finds the beat's first active element. -/
def State.armLane (s : State) (g p : Nat) (o : VecOp) (n det : Nat) (applies dup : Bool) : State × Bool :=
  match o.firstActive n with
  | some e =>
    if applies then
      let (fired, s1) := s.fireArmed (grpDetector g det)
      if fired then (s1.laneDue g p o n e dup true, true) else (s1, false)
    else (s, false)
  | none => (s, false)

/-- Faults of beat `n`, with whether there is one. -/
def State.laneFaults (s : State) (g p : Nat) (o : VecOp) (shadow : Bool) (badShift : Option Nat) (n : Nat) : State × Bool :=
  match badShift with
  | some e => (s.laneDue g p o n e true false, true)
  | none =>
    match o.upsetIn shadow n with
    | some (e, dup) => (s.laneDue g p o n e dup false, true)
    | none =>
      let (s1, a) := s.armLane g p o n 7 (o.residueDet == some 7) false
      let (s2, b) := s1.armLane g p o n 8 (o.residueDet == some 8) false
      let (s3, c) := s2.armLane g p o n 9 (shadow && o.shadowed) true
      (s3, a || b || c)

/-- The first entry of the tile queue that is visible at `v` and not freed (R153). -/
def Cluster.headTile (c : Cluster) (v : Nat) : Option Tile :=
  c.queue.find? fun q => match q.freed with
    | some f => decide (v < f)
    | none => true

/-- The head entry is freed at `v`. -/
def freeHead (v : Nat) : List Tile → List Tile
  | [] => []
  | q :: r => if q.freed.isNone then { q with freed := some v } :: r else q :: freeHead v r

/-- The scalars of the cluster's vector operation have been read in its issue cycle `v`: its first slot comes next, or the
run fails for a shift amount (R137, R139, R149). -/
def State.vstart (s : State) (g p v : Nat) : State :=
  match (s.clu g p).vec with
  | none => s
  | some o =>
    let o1 := o.withScalars
    let s1 := (s.modClu g p fun cl => { cl with vec := some o1 }).count (vecNonfinite g) o1.scalarNonfin
    s1.addDue g { sched := if o1.badScalarShift then v else v + 1, kind := if o1.badScalarShift then .fail 0x0020 else .slot, phys := p }

/-- What the cluster keeps of a computed beat: supervision, the table of an LDLUT. -/
def Cluster.takeBeat (cl : Cluster) (o : VecOp) (b : Beat) (first : Bool) : Cluster :=
  let sid := bits o.w 21 4
  { cl with
    sup := b.sup.foldl (fun t x => tmod {} t (supKey sid x.1) fun e => e.add x.2.1 x.2.2) cl.sup
    lut := if o.cls = clsLut then (if first then [] else cl.lut) ++ b.lut else cl.lut }

/-- Beat `m` of the operation `o` is computed on the rows read in its slot: the operation after it. -/
def State.vbeat (s : State) (g p : Nat) (o : VecOp) (shadow : Bool) (chunks m : Nat) : State × VecOp :=
  let b := o.beat (s.clu g p).lut (if o.qsrc then o.tile else none) chunks m
  let (s1, fault) := s.laneFaults g p o shadow b.badShift m
  let s2 := s1.modClu g p fun cl => cl.takeBeat o b (m == 0)
  ((s2.count (vecNonfinite g) b.nonfinite).count (vecSaturated g) b.saturated,
    { b.op with faultBeat := if fault && o.faultBeat.isNone then some m else o.faultBeat })

/-- The next slot of the vector operation of physical cluster `p` starts (R137, R138): its reads and writes fall due in the
cycles of their positions. The beat before it, whose rows have all been read, is computed now; its results are written
in the next slot. -/
def State.vslot (s : State) (g p : Nat) (shadow : Bool) (chunks : Nat) : State :=
  match (s.clu g p).vec with
  | none => s
  | some o =>
    let n := o.slot
    let c := (s.grp g).logical p
    let s1 := if n < o.beats then
        s.addDues g ((o.slotReads n).map fun x =>
          readDue o.ecc o.issued reqVector x.2.2 c p ((o.reg x.1).rowAt x.2.1 % 8192) (.vector x.1 x.2.1))
      else s
    let o1 := if n = 0 && o.qsrc then { o with tile := (s1.clu g p).headTile (o.slotAt 0) } else o
    let (s2, o2) := if 1 ≤ n ∧ n ≤ o.beats then s1.vbeat g p o1 shadow chunks (n - 1) else (s1, o1)
    let s3 := s2.modClu g p fun cl =>
      { cl with queue := if o.qsrc && n == 15 then freeHead (o.slotAt n + 1) cl.queue else cl.queue }
    let stop := match o2.faultBeat with
      | some f => decide (f + 2 ≤ n)
      | none => false
    let s4 := if stop then s3 else
      s3.addDues g ((o2.slotWrites n).map fun x => writeDue reqVector x.2.2.1 p (x.1.rowAt x.2.1 % 8192) x.2.2.2)
    let o3 := { o2 with slot := n + 1 }.trim (n + 1)
    let s5 := s4.modClu g p fun cl => { cl with vec := some o3 }
    if n + 1 < o.beats + 2 then s5.addDue g { sched := o.slotAt (n + 1), kind := .slot, phys := p } else s5

end Sys2Proof.Machine
end

