-- ==== Sys2Proof/Machine/Transfers.lean ====
section
/-! DEFINITION. What the rows of transfers, STOREs and records become as their cycles come: rows of FETCH and INPUT with the
decoding of spill blocks (R217, R218, R230, R231), rows of STORE on their way to memory with the coding of spill blocks
(R204, R217, R231, R235), and rows of STATE_IN and STATE_OUT (R175, R180 to R182). -/

namespace Sys2Proof.Machine

/-! ### The action list -/

/-- An action entry (Table 3-3). -/
structure Action where
  at_ : Nat
  op : Nat
  clmask : Nat
  arg : Nat
deriving DecidableEq, Repr

def parseAction (l : List Byte) : Action :=
  let v := leNat (l.take 16)
  { at_ := bits v 0 32, op := bits v 32 6, clmask := bits v 40 25, arg := bits v 65 63 }

/-- Fields of ARG (Table 3-4). -/
def Action.field (a : Action) (lo n : Nat) : Nat := bits a.arg lo n

/-- `n` bytes from byte `o` of the image-relative space. -/
def State.imageSlice (s : State) (m : Image) (g o n : Nat) : List Byte := (s.imageBytes m g (o / 64) (n + o % 64)).drop (o % 64)

/-- Entry `i` of the running action list. -/
def State.entryAt (s : State) (g : Nat) (r : RunInfo) (i : Nat) : Action :=
  parseAction (s.imageSlice (s.img r.run.image) g (16 * (r.listAddr + i)) 16)

/-- Indices of Table 16-6. -/
def detRecordCrc : Nat := 29
def detRecordSeq : Nat := 30

/-! ### Tensors (Tables 9-3, 9-5) -/

/-- Symbol width of a weight format. -/
def formatBits (f : Nat) : Nat := if f = 1 ∨ f = 2 then 4 else 8

/-- r of a class L tensor, and data blocks in one of its factor blocks. -/
def Tensor.rank (t : Tensor) : Nat := 16 * t.rank16
def Tensor.factorBlocks (t : Tensor) : Nat := ceilDiv (32 * t.rank) 4096
def Tensor.classL (t : Tensor) : Bool := t.cls == 2 || t.cls == 3

/-- Symbols of data block `j`. -/
def Tensor.countOf (t : Tensor) (j : Nat) : Nat :=
  if t.classL then
    let k := t.factorBlocks
    if j % k + 1 = k then 32 * t.rank - 4096 * (k - 1) else 4096
  else if j + 1 = t.blocks then t.lastCount else 4096

/-! ### Spill tensors (R210, R216, R217) -/

/-- The spill tensor and block whose place starts at an image-relative address. -/
def Image.spillAt (m : Image) (a : Nat) : Option (Nat × Nat) :=
  (List.range m.tensors.length).findSome? fun i =>
    match m.tensors[i]? with
    | some t =>
      if t.cls = 4 ∧ t.dataOff ≤ a ∧ (a - t.dataOff) % 65 = 0 ∧ (a - t.dataOff) / 65 < t.blocks then
        some (i, (a - t.dataOff) / 65)
      else none
    | none => none

/-- A tensor's code table. -/
def State.tableOf (s : State) (m : Image) (g : Nat) (t : Nat) : CodeTable := parseCodeTable (s.imageBytes m g t 320)

/-- Counters of GRP_EXP. -/
def expBlocks (g : Nat) : Nat := grpExp g
def expEscapes (g : Nat) : Nat := grpExp g + 0x04
def expSpillCoded (g : Nat) : Nat := grpExp g + 0x08
def expSpillRaw (g : Nat) : Nat := grpExp g + 0x0C
def expHold (g : Nat) : Nat := grpExp g + 0x10

/-! ### Rows of FETCH and INPUT (R217, R230, R231) -/

/-- Stored rows of a spill block (R210, R217). -/
def spillUnits : Nat := 65

/-- The schedule value in which row `i` of a plain transfer is written: L and P of Table 10-5 by where the row lies (R230). -/
def Transfer.plainDue (x : Transfer) (i : Nat) : Nat :=
  if i < x.farFrom then x.issued + 600 + 5 * i else x.issued + 1000 + 8 * i

/-- The schedule value in which stored row `u` of a transfer is due, and in which its scratchpad row `i` is written (R217,
R230). -/
def Transfer.unitDue (x : Transfer) (u : Nat) : Nat :=
  if x.spill.isSome then x.issued + 600 + 325 * (u / spillUnits + 1) else x.plainDue u
def Transfer.dueAt (x : Transfer) (i : Nat) : Nat :=
  if x.spill.isSome then x.issued + 600 + 325 * (i / 64 + 1) + 2 * (i % 64) else x.plainDue i

/-- The first stored row that has not arrived, and the value in which it is due. -/
def Transfer.missing (x : Transfer) : Option (Nat × Nat) :=
  ((List.range x.addrs.length).find? fun u => !x.arrived.contains u).map fun u => (u, x.unitDue u)

/-- A stored row is due by schedule value `v` and has not arrived. -/
def Transfer.lateAt (x : Transfer) (v : Nat) : Bool :=
  match x.missing with
  | some (_, d) => decide (d ≤ v)
  | none => false

/-- The rows that wait in the delivery buffer (R231). -/
def Transfer.buffered (x : Transfer) : Nat :=
  x.arrived.length - (if x.spill.isSome then spillUnits * ceilDiv x.decoded.length 64 else x.written)
def RunInfo.buffered (r : RunInfo) : Nat := sumOf (r.transfers.map Transfer.buffered)

/-- The first schedule value in which a transfer of the run lacks a row. -/
def RunInfo.lackAt (r : RunInfo) : Option Nat :=
  r.transfers.foldl (fun a x =>
    match x.missing, a with
    | some (_, d), some b => some (min d b)
    | some (_, d), none => some d
    | none, a => a) none

/-- Content of scratchpad row `i`. -/
def Transfer.rowOf (x : Transfer) (i : Nat) : Row := if x.spill.isSome then x.decoded.getD i 0 else x.data.getD i 0

/-- The transfer with number `op` of group `g`'s run. -/
def State.transferOf (s : State) (g op : Nat) : Option Transfer :=
  match (s.grp g).cur with
  | some r => r.transfers.find? fun x => x.op == op
  | none => none

/-- The transfer with number `op` is changed by `f`, and forgotten once its last row is written. -/
def State.modTransfer (s : State) (g op : Nat) (f : Transfer → Transfer) : State :=
  s.modRun g fun r => { r with
    transfers := (r.transfers.map fun x => if x.op = op then f x else x).filter fun x => decide (x.written < x.count) }

/-- Row `i` of a transfer is written in every cluster of its mask (R85, R230). -/
def State.writeTransferRow (s : State) (g op i v : Nat) : State :=
  match s.transferOf g op with
  | none => s
  | some x =>
    (((s.grp g).maskPhys x.clmask).foldl
      (fun s p => s.writeAt g x.req v { phys := p, row := (x.row + i) % 8192 } (x.rowOf i)) s).modTransfer g op
      fun y => { y with written := y.written + 1 }

/-- What the reader of block `j` of a spill tensor expects (R206, R217, R218). -/
def State.spillExpect (s : State) (m : Image) (g : Nat) (t : Tensor) (j : Nat) : BlockExpect :=
  { symBits := 8, side := false, count := t.countOf j, tag := j % 65536, mustEsc := false, table := s.tableOf m g t.tableOff }

/-- Block `n` of a spill FETCH starts to be decoded at schedule value `v`: it fails, or its rows fall due one every 2 cycles
(R205, R217 to R219). -/
def State.decodeSpill (s : State) (g op n v : Nat) : State :=
  match (s.grp g).cur, s.transferOf g op with
  | some r, some x =>
    match x.spill with
    | none => s
    | some (ti, j0) =>
      let m := s.img r.run.image
      match m.tensors[ti]? with
      | none => s
      | some t =>
        let j := j0 + n
        let d := decodeBlock (s.spillExpect m g t j) stBlockInvalid
          ((slice x.data (spillUnits * n) spillUnits).flatMap rowBytes)
        if d.first ≠ 0 then s.addDue g { sched := v, kind := .block d.first ti j }
        else
          let k := min 64 (x.count - 64 * n)
          let rows := (pieces 64 64 (pad (64 * k) (d.syms.map (BitVec.ofNat 8)))).map bytesRow
          let s1 := ((s.count (expBlocks g) 1).count (expEscapes g) (b2n d.esc)).modTransfer g op
            fun y => { y with decoded := y.decoded ++ rows.take k }
          let s2 := s1.addDues g ((List.range k).map fun i => { sched := v + 2 * i, kind := .row op (64 * n + i) })
          if d.last = 0 then s2
          else s2.addDue g { sched := v + ceilDiv (t.countOf j) 32 - 1, kind := .block d.last ti j }
  | _, _ => s

/-! ### Rows of STORE (R217, R231, R235) -/

/-- A row that STORE number `op` writes goes into the transfers issued after it that read its address and hold no later
row (R231). -/
def Transfer.patched (x : Transfer) (a op : Nat) (v : Row) : Transfer :=
  if x.op ≤ op then x
  else
    let hit (u : Nat) : Bool := x.addrs.getD u 0 == a && decide (x.origin.getD u 0 ≤ op + 1)
    { x with
      data := (List.range x.data.length).map fun u => if hit u then v else x.data.getD u 0
      origin := (List.range x.data.length).map fun u => if hit u then op + 1 else x.origin.getD u 0 }

/-- A row of STORE number `op` is written to image-relative address `ad`: it stands in memory unless a later STORE has
written there already, and later FETCHes see it (R231). -/
def State.putStored (s : State) (g : Nat) (m : Image) (op ad : Nat) (v : Row) (retries : Nat) : State :=
  match s.imageAddr m g ad with
  | none => s
  | some a =>
    let later := match (s.grp g).cur with
      | some r => r.wrote.any fun x => x.1 == a && decide (op < x.2)
      | none => false
    let s1 := if later then s else (s.memPutRow a v).rowWritten a retries
    s1.modRun g fun r => { r with
      wrote := if later then r.wrote else (a, op) :: r.wrote.filter fun x => x.1 != a
      transfers := r.transfers.map fun x => x.patched a op v }

/-- The rows of one block of a spill STORE are coded and written at its place (R204, R206, R217). -/
def State.putSpill (s : State) (g : Nat) (m : Image) (op ti j first : Nat) (rows : List Row) (retries : WriteRetries) : State :=
  match m.tensors[ti]? with
  | none => s
  | some t =>
    let (b, coded) := encodeBlock (s.tableOf m g t.tableOff) (j % 65536) ((rows.flatMap rowBytes).map (·.toNat)) none
    let units := pieces 64 spillUnits b
    let s1 := (List.range units.length).foldl (fun s u =>
      let ad := t.dataOff + spillUnits * j + u
      let old := match s.imageAddr m g ad with
        | some a => s.memRead a 64
        | none => []
      s.putStored g m op ad (bytesRow (patch old 0 (units.getD u []))) (retriesOf retries (first + u))) s
    s1.count (if coded then expSpillCoded g else expSpillRaw g) 1

/-- STORE number `op` has read its row `i`. -/
def State.takeStored (s : State) (g op i : Nat) (v : Row) : State :=
  match (s.grp g).cur with
  | none => s
  | some r =>
    match r.stores.find? fun x => x.op == op with
    | none => s
    | some x =>
      let m := s.img r.run.image
      let put (f : StoreOp → StoreOp) (s : State) : State := s.modRun g fun r =>
        { r with stores := (r.stores.map fun y => if y.op = op then f y else y).filter fun y => y.op != op || decide (i + 1 < x.count) }
      match x.spill with
      | none => put id (s.putStored g m op (x.addr + i) v (retriesOf x.retries i))
      | some (ti, j) =>
        let rows := x.rows ++ [v]
        if rows.length = 64 ∨ i + 1 = x.count then
          put (fun y => { y with rows := [] }) (s.putSpill g m op ti (j + i / 64) (spillUnits * (i / 64)) rows x.retries)
        else put (fun y => { y with rows }) s

/-! ### Rows of STATE_IN and STATE_OUT (R175, R180 to R182) -/

/-- Zi of R180. -/
def Image.clusters (m : Image) : Nat := if m.profile = 1152 then 24 else 25

/-- Working place of record row `n` of position `p` (R180): logical cluster, row. -/
def workPlace (m : Image) (first p n : Nat) : Nat × Nat :=
  let i := p * m.recordRows + n
  (i % m.clusters, (first + i / m.clusters) % 8192)

/-- The chunk header of Table 8-2. -/
def State.chunkHeader (s : State) (n : Nat) (c : Chunk) (p : Nat) (initial : Bool) : List Byte :=
  let r := s.str n
  let ms := (r.marks.filter fun x => decide (c.first ≤ x) && decide (x < c.first + r.chunkSamples)).map (· - c.first)
  pad 64 (leBytes 4 n ++ leBytes 4 c.seq ++ leBytes 6 c.first ++ leBytes 1 r.classWord ++ leBytes 1 p
    ++ leBytes 1 ms.length ++ leBytes 1 (b2n initial) ++ leBytes 2 0
    ++ (List.range 16).flatMap fun i => leBytes 2 (ms.getD i 0xFFFF))

/-- The checks of R181 on a record read for chunk `seq` of stream `n`. -/
def recordOk (n seq : Nat) (b : List Byte) : Bool :=
  recordCrcOk b && recordStream b == n && (recordSeq b + 1) % 2 ^ 32 == seq

/-- Byte `p` of the class word row (Table 3-4): row `row` of logical cluster `c`. -/
def State.classByte (s : State) (g c row p : Nat) : Nat := bits (s.spadRow g c row).data.toNat (8 * p) 8

/-- The class word of position `p` that the list's END names, as its row stands now. -/
def State.endClassWord (s : State) (g p : Nat) (r : RunInfo) : Nat :=
  let e := s.entryAt g r (r.entries - 1)
  let c := ((List.range 25).find? fun c => bit e.clmask c).getD 0
  s.classByte g c (e.field 0 13) p

/-- The record operation with number `op` of group `g`'s run. -/
def State.recordOp (s : State) (g op : Nat) : Option RecordOp :=
  match (s.grp g).cur with
  | some r => r.records.find? fun x => x.op == op
  | none => none

/-- The rows of the record read so far, in order. -/
def RecordOp.content (x : RecordOp) (n : Nat) : List Row := (List.range n).map fun i => (tget none x.rows i).getD 0

/-- Row `i` of a record has been read at schedule value `v`: it is written in the cycle after, in place of row 0 of a
STATE_IN the chunk header. DEDUCED: R92 wants the slot's first row filled first, so the header of STATE_IN is written in
row 0's own cycle, and only STATE_OUT composes its header in the last two cycles of R180 (notes/assumptions/55.md). -/
def State.takeRecordRow (s : State) (g op i v : Nat) (d : Row) : State :=
  match (s.grp g).cur, s.recordOp g op with
  | some r, some x =>
    let m := s.img r.run.image
    let s1 := s.modRun g fun r => { r with
      records := r.records.map fun y => if y.op = op then { y with rows := tput none y.rows i (some d) } else y }
    let write (c row : Nat) (w : Row) : State := s1.addDue g (writeDue reqState (v + 1) ((s.grp g).phys c) row w)
    if x.out then
      if i = 0 then s1 else let w := s.slotRow x.slot x.copy i; write w.1 w.2 d
    else
      let w := workPlace m x.first x.position i
      let hdr := match s.chunkOf x.stream x.seq with
        | some c => bytesRow (s.chunkHeader x.stream c x.position (recordInitial (rowBytes d)))
        | none => d
      write w.1 w.2 (if i = 0 then hdr else d)
  | _, _ => s

/-- The last cycle `v` of a record operation: the checks of a STATE_IN, the header row of a STATE_OUT (R181, R182). -/
def State.endRecord (s : State) (g op v : Nat) : State :=
  match (s.grp g).cur, s.recordOp g op with
  | some r, some x =>
    let m := s.img r.run.image
    let b := (x.content m.recordRows).flatMap rowBytes
    let s0 := s.modRun g fun r => { r with records := r.records.filter fun y => y.op != op }
    if x.out then
      match s.chunkOf x.stream x.seq with
      | none => s0
      | some c =>
        let head := recordHeader m.recordRows x.stream x.seq (c.first + (s.str x.stream).chunkSamples)
          (s.endClassWord g x.position r) false
        let w := s.slotRow x.slot x.copy 0
        s0.writeAt g reqState v { phys := (s.grp g).phys w.1, row := w.2 } (bytesRow (sealRecord (head ++ b.drop 64)))
    else
      let (f1, s1) := s0.fireArmed (grpDetector g detRecordCrc)
      let (f2, s2) := s1.fireArmed (grpDetector g detRecordSeq)
      if !recordOk x.stream x.seq b then s2.addDue g { sched := v, kind := .record x.position }
      else if f1 || f2 then s2.addDue g { sched := v, kind := .fail stCheckFail, injected := true }
      else s2
  | _, _ => s

end Sys2Proof.Machine
end

