-- ==== Sys2Proof/Machine/Runs.lean ====
section
/-! DEFINITION. Runs of a group: HOLD (R68 to R70), what falls due inside a run (Table 4-3, R86), failure and
quiescing (R71 to R75, R219), run starts (R48, R91), peak gaps (R316), the Almanac slot's start (R47, R49, R342), the
end of a run with SCALE_OUT and wide-range runs (R76, R77, R168 to R172), commit lanes (R79). -/

namespace Sys2Proof.Machine

/-! ### HOLD -/

def grpHoldCycles (g : Nat) : Nat := grpSeq g + 0x08
def grpHoldEvents (g : Nat) : Nat := grpSeq g + 0x0C
def grpMaxHold (g : Nat) : Nat := grpSeq g + 0x10

/-- A source raises HOLD from clock `since` on, the earliest that a source names (R68); a group that quiesces ignores it (R72).
With the hold timeout armed it is held to the limit (R365, R368). -/
def State.raiseHold (s : State) (g : Nat) (src : HoldSrc) (since : Int) : State :=
  match (s.grp g).hold with
  | some h => s.modGrp g fun G => { G with hold := some { h with srcs := h.srcs ++ [src], since := min h.since since } }
  | none =>
    if (s.grp g).cur.isNone then s
    else
    let (fired, s1) := s.fireArmed (grpDetector g 19)
    (s1.modGrp g fun G => { G with hold := some { srcs := if fired then [src, .injected] else [src], since } }).count
      (grpHoldEvents g) 1

/-- The `n` held cycles of a hold that is over are counted, of which HOLD_CYCLES has counted `done` (Table 3-9, R54). -/
def State.countHold (s : State) (g n done : Nat) : State :=
  let s1 := s.modGrp g fun G => { G with cur := G.cur.map fun r => { r with held := r.held + n } }
  (s1.count (grpHoldCycles g) (n - done)).countMax (grpMaxHold g) n

/-- The cycles of a hold in progress are counted as far as they have passed. -/
def State.countHeld (s : State) (g : Nat) : State :=
  match (s.grp g).hold with
  | some h =>
    let n := (s.clk g - h.since).toNat
    ((s.modGrp g fun G => { G with hold := some { h with counted := n } }).count (grpHoldCycles g)
      (n - h.counted)).countMax (grpMaxHold g) n
  | none => s

/-- A source drops HOLD at clock `clk`, the first cycle in which it is not raised by it; HOLD falls with the last. A HOLD of no
cycle is none, and its event is taken back. -/
def State.dropHold (s : State) (g : Nat) (src : HoldSrc) (clk : Int) : State :=
  match (s.grp g).hold with
  | none => s
  | some h =>
    let rest := h.srcs.filter (· != src)
    if rest.length = h.srcs.length then s
    else if rest.isEmpty then
      let s1 := s.modGrp g fun G => { G with schedVal := G.sched clk, schedClk := clk, hold := none }
      if clk ≤ h.since then s1.setCtr (grpHoldEvents g) (s1.ctrAt (grpHoldEvents g) - 1)
      else s1.countHold g (clk - h.since).toNat h.counted
    else s.modGrp g fun G => { G with hold := some { h with srcs := rest } }

/-- A hold source is raised. -/
def Group.heldBySrc (G : Group) (src : HoldSrc) : Bool :=
  match G.hold with
  | some h => h.srcs.contains src
  | none => false

/-! ### Failure -/

/-- The place of a status in the order of R219. -/
def failRank (st : Nat) : Nat :=
  ([stAborted, stCheckFail, stMemError, stBlockCheck, stBlockInvalid, stBlockOverrun, stBlockShort, stScaleSkew,
    stSeqFault, stHoldTimeout].takeWhile (· != st)).length

/-- The counter of GRP_SEQ for a failure status. -/
def failCounter (g st : Nat) : Option Nat :=
  if st = stSeqFault then some (grpSeq g + 0x14) else if st = stHoldTimeout then some (grpSeq g + 0x18) else none

/-- The STATUS of the run failure entry of this cycle becomes that of the failure that the cycle decides (R219). -/
def State.amendFailure (s : State) (g status : Nat) : State :=
  { s with log := { s.log with
      fresh := s.log.fresh.map fun e =>
        if e.code = 0x0120 ∧ e.unit = g ∧ e.cycle = s.now then { e with status } else e } }

/-- Of a run that fails at schedule value `v`, what is due in that same cycle still takes place, so that every coinciding
failure is recorded (R219). -/
def RunInfo.failedIn (r : RunInfo) (held : Bool) (v : Nat) : RunInfo :=
  { r with due := if held then [] else r.due.filter (·.sched == v) }

/-- A failure of the run in progress at clock `clk` (R71, R72): it stops issuing and quiesces, and HOLD is ignored. Of
failures in one cycle the first in the order of R219 gives the status. -/
def State.failRun (s : State) (g status : Nat) (clk : Int) (injected : Bool) : State :=
  let G := s.grp g
  match G.cur with
  | some info =>
    let heldFor := match G.hold with
      | some h => (clk + 1 - h.since).toNat
      | none => 0
    let s0 := if G.heldBySrc .scrub then s.count (spadScrubHold g) (clk + 1 - info.scrubAt).toNat else s
    let sh := if 0 < heldFor then s0.countHold g heldFor (G.hold.elim 0 (·.counted)) else s0
    let se := match (info.expands.filterMap (·.late)).head? with
      | some c => sh.count (expHold g) (clk + 1 - c).toNat
      | none => sh
    let s1 := if G.heldBySrc .scrub ∧ info.scrubAt + 39 ≤ clk then info.scrubs.foldl (fun s x => s.verifyFailed g x) se else se
    let s2 := s1.logAs injected 0x0120 g noUnit status
      (leBytes 1 info.run.image ++ leBytes 1 info.run.variant ++ leBytes 4 (G.sched clk))
    let s3 := s2.modGrp g fun G =>
      { G with
        quiesce := some { info := (G.cur.getD info).failedIn (G.isHeld clk) (G.sched clk), status, failedAt := clk }
        cur := none, hold := none, schedVal := G.sched clk }
    match failCounter g status with
    | some o => s3.count o 1
    | none => s3
  | none =>
    match G.quiesce with
    | some q =>
      if q.failedAt = clk ∧ failRank status < failRank q.status then
        let s1 := match failCounter g q.status with
          | some o => s.setCtr o (s.ctrAt o - 1)
          | none => s
        let s2 := match failCounter g status with
          | some o => s1.count o 1
          | none => s1
        (s2.modGrp g fun G => { G with quiesce := some { q with status } }).amendFailure g status
      else s
    | none => s

/-- An implicating event (R337): its test sets are queued, unless INJECT caused it (R368). -/
def State.implicate (s : State) (g p : Nat) (sets : List TestSet) (injected : Bool) : State :=
  if injected then s else s.queueTests g p sets true []

/-! ### What falls due -/

/-- Event 0x0100 with the row of Table 4-3 counted from 0, bank and bank row. -/
def State.logSpad (s : State) (g : Nat) (d : Due) (kind status : Nat) : State :=
  s.logRow d.injected g d.phys d.bank d.row kind status

/-- A tile from the weight bus or the factor path is directed at the position `i` of a cluster (R113). -/
def State.directAt (s : State) (g p v i : Nat) (w : WPos) : State :=
  let c := s.clu g p
  (s.engineFault g p detWeightFull v ((tget {} c.wpos i).taken v)).setClu g p { c with wpos := tput {} c.wpos i w }

/-- A weight tile fills the position that the fill pointer names (R112). -/
def State.fillPosition (s : State) (g p v : Nat) (w : WPos) : State :=
  let i := (s.clu g p).fillPtr
  (s.directAt g p v i w).modClu g p fun c => { c with fillPtr := (i + 1) % 16 }

/-- A factor block starts to be delivered into the bank that the bank pointer names: one that is FULL as the delivery starts
is a fault (R121, R129, Table 5-11). -/
def State.startBank (s : State) (g p v : Nat) : State :=
  let c := s.clu g p
  s.engineFault g p detMatrix v (tget {} c.banks c.bankPtr).full

/-- A factor block fills the bank that the bank pointer names (R121). -/
def State.fillBank (s : State) (g p v : Nat) (codes : List Nat) (fmul : List Int) : State :=
  s.modClu g p fun c =>
    { c with
      banks := tput {} c.banks c.bankPtr { full := true, fullAt := v, codes, fmul }, bankPtr := (c.bankPtr + 1) % 4 }

/-! ### Rows delivered -/

/-- The content of a parameter set from the rows of Table 5-6. -/
def ParamSet.filled (q : ParamSet) (rows : List Row) : ParamSet :=
  let b := rows.flatMap rowBytes
  { q with
    zw := (slice b 0 32).map (·.toNat), zx := (b.getD 32 0).toNat, kc := (b.getD 33 0).toInt, sx := f32At (b.drop 36) 0
    sw := (List.range 32).map fun j => f32At (b.drop 64) (4 * j), biases := (List.range 32).map fun j => f32At (b.drop 192) (4 * j) }

/-- A row of the MEPI issued at `v` has been read; with the fifth the set is loaded (R111). -/
def Cluster.takeParam (c : Cluster) (v : Nat) (d : Row) : Cluster :=
  match c.loads.find? fun x => x.issued == v with
  | none => c
  | some x =>
    let rows := x.rows ++ [d]
    if rows.length < 5 then { c with loads := c.loads.map fun y => if y.issued = v then { y with rows } else y }
    else
      let a := bits x.word.toNat 55 1
      { c with loads := c.loads.filter fun y => y.issued != v, params := tmod {} c.params a fun q => q.filled rows }

/-- A scheduled read at schedule value `v` delivers the row `d` of physical cluster `p`. -/
def State.deliverRow (s : State) (g p v : Nat) (dest : Sink) (d : Row) : State :=
  match dest with
  | .rows mask row => ((s.grp g).maskPhys mask).foldl (fun s q => s.writeAt g reqXfer v { phys := q, row } d) s
  | .store op i => (s.takeStored g op i d).addDue g { sched := v, kind := .storeRow }
  | .output k => s.modRun g fun r =>
      { r with staged := tput [] r.staged k ((tget [] r.staged k ++ rowBytes d).take (s.img r.run.image).outBytes) }
  | .record op i => s.takeRecordRow g op i v d
  | .operand => s.modClu g p fun c => { c with mma := c.mma.map fun m => { m with rows := m.rows ++ [d] } }
  | .param issued => s.modClu g p fun c => c.takeParam issued d
  | .scalar => s.modClu g p fun c => { c with vec := c.vec.map fun o => { o with scalarRows := o.scalarRows ++ [d] } }
  | .vector k j => s.modClu g p fun c => { c with vec := c.vec.map fun o => { o with rows := o.rows ++ [(k, j, d)] } }

/-! ### What falls due takes place -/

/-- CONFLICTS and TAG_FAULTS count runs (R86, Table 4-6): each run once. -/
def State.countConflict (s : State) (g : Nat) : State :=
  let seen := match (s.grp g).cur, (s.grp g).quiesce with
    | some r, _ => r.conflictSeen
    | none, some q => q.info.conflictSeen
    | none, none => true
  if seen then s else (s.count (spadConflicts g) 1).modInfo g fun r => { r with conflictSeen := true }
def State.countTagFault (s : State) (g : Nat) : State :=
  let seen := match (s.grp g).cur, (s.grp g).quiesce with
    | some r, _ => r.tagSeen
    | none, some q => q.info.tagSeen
    | none, none => true
  if seen then s else (s.count (spadTagFaults g) 1).modInfo g fun r => { r with tagSeen := true }

/-- The row of Table 9-7 of a block failure's status. -/
def blockRow (status : Nat) : Nat := status - 0x0050

/-- Rows of the store buffer (R231). -/
def storeRows : Nat := 128

/-- One due event takes place at clock `clk`. -/
def State.fallDue (s : State) (g : Nat) (d : Due) (clk : Int) : State :=
  match d.kind with
  | .conflict =>
    ((s.logSpad g d 7 stSeqFault).failRun g stSeqFault clk d.injected).countConflict g
  | .tagFault =>
    ((s.logSpad g d 6 stSeqFault).failRun g stSeqFault clk d.injected).countTagFault g
  | .corrected lasting tagBad =>
    let s1 := (s.count (spadCorrected g) 1).logSpad g d 0 0
    if (s1.grp g).cur.isNone then s1.verifyFailed g (d.phys, d.bank, d.row, lasting)
    else
    let s2 := if (s1.grp g).heldBySrc .scrub then s1 else s1.raiseHold g .scrub (clk + 1)
    s2.modGrp g fun G => { G with cur := G.cur.map fun r =>
      { r with
        scrubs := r.scrubs ++ [(d.phys, d.bank, d.row, lasting)]
        tagFail := if tagBad && r.tagFail.isNone then some d else r.tagFail, scrubAt := clk + 1 } }
  | .uncorrectable =>
    let s1 := ((s.count (spadUncorrectable g) 1).logSpad g d 3 stCheckFail).modClu g d.phys fun c =>
      let r := 4 * d.row + d.bank
      c.putRow r { c.row r with bad := true }
    (s1.implicate g d.phys [.row d.bank d.row, .pass 8] d.injected).failRun g stCheckFail clk d.injected
  | .lane lane cls dup pass =>
    let s1 := s.count (grpVec g + (if dup then 0x08 else 0x04)) 1
    let s2 := s1.setCtr (grpVec g + 0x1C) (d.phys + lane * 32 + 2048 * cls)
    let s3 := s2.logAs d.injected 0x0111 g d.phys stCheckFail (leBytes 1 lane ++ leBytes 1 cls ++ leBytes 4 d.sched)
    (s3.implicate g d.phys [.pass pass] d.injected).failRun g stCheckFail clk d.injected
  | .fail status => s.failRun g status clk d.injected
  | .block status tensor block =>
    let k := blockRow status
    let s1 := ((s.count (grpExp g + 0x14 + 4 * k) 1).setCtr (grpExp g + 0x28) (tensor + 2 ^ 16 * k)).setCtr
      (grpExp g + 0x2C) block
    let s2 := s1.logAs d.injected 0x0122 g noUnit status (leBytes 2 tensor ++ leBytes 4 block)
    s2.failRun g status clk d.injected
  | .storeRow =>
    s.modGrp g fun G => { G with storeBuf := min storeRows (G.storeBuf + 1) }
  | .record p =>
    (s.modInfo g fun r => { r with recordFail := some p }).failRun g stCheckFail clk d.injected
  | .tile mask w => (s.physOf g mask).foldl (fun s p => s.fillPosition g p d.sched w) s
  | .factorStart mask => (s.physOf g mask).foldl (fun s p => s.startBank g p d.sched) s
  | .factor mask codes fmul => (s.physOf g mask).foldl (fun s p => s.fillBank g p d.sched codes fmul) s
  | .read req met dest =>
    let (s1, v) := s.readAt g req d.sched d.spot met
    s1.deliverRow g d.phys d.sched dest v
  | .write req v => s.writeAt g req d.sched d.spot v
  | .row op i => s.writeTransferRow g op i d.sched
  | .spill op n => s.decodeSpill g op n d.sched
  | .recordEnd op => s.endRecord g op d.sched
  | .kstep => s.kstep g d.phys d.sched
  | .kcompute => s.kcompute g d.phys
  | .vstart => s.vstart g d.phys d.sched
  | .epiStart a => s.epiStart g d.phys a d.sched
  | .slot =>
    match (s.grp g).cur with
    | some r => s.vslot g d.phys r.shadow r.run.chunks.length
    | none => s

/-- A due event's cycle is over at clock `clk`: the schedule counter has passed its value. -/
def Group.reached (G : Group) (clk : Int) (d : Due) : Bool := decide (d.sched < G.sched clk)

/-- The clock at which the schedule counter read `v`. -/
def Group.clkOf (G : Group) (v : Nat) : Int := G.schedClk + ((v : Int) - G.schedVal)

/-- The state as it stood at clock `clk` of group `g`, for entries and counters that belong to that cycle. -/
def State.asOf (s : State) (g : Nat) (clk : Int) (f : State → State) : State :=
  let s1 := f { s with now := (clk + (s.grp g).clockBase).toNat }
  { s1 with now := s.now }

/-- The order of due events within a cycle: what the engines begin, the accesses, what the engines compute on them, failures
in the order of R219, and what they leave for the next cycle. -/
def dueRank : DueKind → Nat
  | .kstep | .epiStart _ | .slot | .tile _ _ | .factorStart _ | .factor _ _ _ | .spill _ _ => 0
  | .read _ _ _ | .write _ _ | .row _ _ | .recordEnd _ => 1
  | .kcompute | .vstart => 2
  | .uncorrectable | .lane _ _ _ _ | .record _ => 3 + failRank stCheckFail
  | .fail st => 3 + failRank st
  | .block st _ _ => 3 + failRank st
  | .conflict | .tagFault => 3 + failRank stSeqFault
  | .corrected _ _ => 30
  | .storeRow => 31

def dueBefore (a b : Due) : Bool :=
  decide (a.sched < b.sched) || (a.sched == b.sched && decide (dueRank a.kind ≤ dueRank b.kind))

/-- The first due event of a list, of those that come together the one that was put first. -/
def firstDue : List Due → Option Due
  | [] => none
  | d :: r => match firstDue r with
    | some e => if dueBefore d e then some d else some e
    | none => some d

/-- What comes next in a group by itself. -/
inductive Turn where
  /-- a due event -/
  | due (d : Due)
  /-- a tag mismatch of a corrected row fails the run in the last cycle of the hold (R95) -/
  | tagFail (d : Due)
  /-- a STORE read finds the store buffer full; a row is due and has not arrived (R231) -/
  | storeFull
  | rowLate
  /-- the queues and engines of a failed run are emptied (R72) -/
  | empty
deriving DecidableEq, Repr

def Due.storeRead (d : Due) : Bool :=
  match d.kind with
  | .read _ _ (.store _ _) => true
  | _ => false

/-- A STORE read falls due in this cycle or has, and the store buffer is full: the earliest such schedule value. -/
def Group.storeFull (G : Group) (clk : Int) (info : RunInfo) : Option Nat :=
  if G.storeBuf < storeRows ∨ G.isHeld clk then none
  else
    match firstDue (info.due.filter fun d => d.storeRead && decide (d.sched ≤ G.sched clk)) with
    | some d => some d.sched
    | none => none

/-- A row was due in a cycle that is over and has not arrived: the earliest such schedule value. -/
def Group.rowLate (G : Group) (clk : Int) (info : RunInfo) : Option Nat :=
  if G.isHeld clk then none
  else match info.lackAt with
    | some v => if v < G.sched clk then some v else none
    | none => none

/-- The first of several turns with their schedule values; of those with one value the one that stands first. -/
def firstOf (l : List (Option (Nat × Turn))) : Option (Nat × Turn) :=
  l.foldl (fun a x =>
    match a, x with
    | some (v, t), some (w, u) => if w < v then some (w, u) else some (v, t)
    | none, x => x
    | a, none => a) none

/-- What comes next in group `g` by itself by now, with its clock: the cycles that are over, in their order. -/
def State.turnOf (s : State) (g : Nat) : Option (Int × Turn) :=
  let G := s.grp g
  let clk := s.clk g
  if !s.groupUp g then none
  else
    match G.cur with
    | some info =>
      match (if info.scrubAt + 39 < clk then info.tagFail else none) with
      | some d => some (info.scrubAt + 39, .tagFail d)
      | none =>
        (firstOf [(G.storeFull clk info).map fun v => (v, .storeFull), (G.rowLate clk info).map fun v => (v, .rowLate),
          (firstDue (info.due.filter (G.reached clk))).map fun d => (d.sched, .due d)]).map fun x => (G.clkOf x.1, x.2)
    | none =>
      match G.quiesce with
      | none => none
      | some q =>
        if clk ≤ q.failedAt then none
        else match firstDue q.info.due with
          | some d => some (q.failedAt, .due d)
          | none => if q.emptied then none else some (q.failedAt, .empty)

/-- A cluster of a failed run: halted, its queue and engines empty (R72). -/
def Cluster.emptied (c : Cluster) : Cluster :=
  { c with
    haltIssued := true, loops := [], mma := none, vec := none, formation := none, queue := [], wpos := [], banks := []
    acc := [], loads := [], arrayBusy := 0, claims := [] }

/-- HOLD is raised from clock `clk` on for the rows that are due and have not arrived (R231). -/
def State.holdRows (s : State) (g : Nat) (clk : Int) : State :=
  let v := (s.grp g).sched clk
  let s1 := s.modRun g fun r => { r with transfers := r.transfers.map fun x => { x with late := x.late || x.lateAt v } }
  if (s1.grp g).heldBySrc .row then s1 else s1.raiseHold g .row clk

/-- A turn of group `g` takes place, as of its clock. -/
def State.takeTurn (s : State) (g : Nat) (clk : Int) (x : Turn) : State :=
  match x with
  | .due d =>
    (s.modInfo g fun r => { r with due := r.due.erase d }).asOf g clk fun s => s.fallDue g d clk
  | .tagFail d =>
    s.asOf g clk fun s => ((s.logSpad g d 5 stSeqFault).failRun g stSeqFault clk d.injected).countTagFault g
  | .storeFull => s.asOf g clk fun s => s.raiseHold g .storeBuffer clk
  | .rowLate => s.asOf g clk fun s => s.holdRows g clk
  | .empty =>
    let s1 := (s.grp g).remap.foldl (fun s p => if p < 26 then s.modClu g p Cluster.emptied else s) s
    s1.modGrp g fun G => { G with quiesce := G.quiesce.map fun q => { q with emptied := true } }

/-- The group whose turn comes first, with the turn: by time, then by number. -/
def State.firstTurn (s : State) : Option (Nat × Int × Turn) :=
  s.groups.foldl (fun best x =>
    match s.turnOf x.1 with
    | none => best
    | some (clk, t) =>
      match best with
      | none => some (x.1, clk, t)
      | some (g, c, _) =>
        if clk + (s.grp x.1).clockBase < c + (s.grp g).clockBase then some (x.1, clk, t) else best) none

/-- The groups' own turns up to now, one by one, with fuel. -/
def State.settleGo : Nat → State → State
  | 0, s => s
  | f + 1, s =>
    match s.firstTurn with
    | none => s
    | some (g, clk, t) => State.settleGo f (s.takeTurn g clk t)

/-- K-steps and slots still to come in the group's clusters. -/
def State.ownSteps (s : State) (g : Nat) : Nat :=
  sumOf ((List.range 26).map fun p =>
    let c := s.clu g p
    (match c.mma with
      | some m => m.steps - m.next
      | none => 0)
    + (match c.vec with
      | some o => o.beats + 2 - o.slot
      | none => 0))

/-- A bound on the turns of the groups: each due event leaves at most 70 others, each K-step and slot at most 100. -/
def State.turns (s : State) : Nat :=
  sumOf (s.groups.map fun x =>
    16 + (match x.2.cur with
      | some info => 140 * (info.due.length + 1) + 400 * s.ownSteps x.1
      | none => 0)
    + (match x.2.quiesce with
      | some q => q.info.due.length
      | none => 0))

/-- The groups' runs are brought up to now: what falls due in cycles that are over takes place, in the order of time. -/
def State.settle (s : State) : State := State.settleGo s.turns s

/-- Time passes to `t` (notes/assumptions/1.md): nothing has left the device in this step yet, what falls due in the groups
takes place, and the log entries of REFCLK cycles that are over are numbered. -/
def State.advance (s : State) (t : Nat) : State :=
  ((({ s with outs := [] } : State).tick t).settle).numberEntries

/-- The groups' and the log's own doings up to the CTRL cycle in which a register access or command of time `t` takes place. -/
def State.atCtrl (s : State) (t : Nat) : State := s.advance (s.ctrlStart t)

/-- The arbiter knows when the last command reached it, and whose it was (R284). -/
def State.noteReach (s : State) (k : Nat) (m : Sys2Proof.Master) : State :=
  { s with owner := { s.owner with reachedAt := k, reachedBy := Master.num m } }

/-- A command of Table 13-4 that comes at time `t`: it takes effect in a CTRL cycle of its own (R284). -/
def State.hostCommand (s : State) (t : Nat) (h : Hdr) (instr : Instr) (c : CmdInfo)
    (eff : Inflight → State → State) : State :=
  if !s.inTurn t h.master then s.advance t
  else ((s.atCtrl t).noteReach (s.reachCycle t) h.master).arrive h instr c eff

/-! ### Clusters at a run's start -/

/-- A cluster at schedule value 0 of a run: tags, tag state and engines cleared, halted (R91, R112, R121, R132). -/
def Cluster.runStart (c : Cluster) : Cluster :=
  { c with
    rows := c.rows.map fun e => (e.1, e.2.map fun r => { r with tag := 0 })
    tags := [], haltIssued := true, loops := [], nextIssue := 0, sig := 0, claims := []
    acc := [], params := [], wpos := [], fillPtr := 0, arrayBusy := 0, banks := [], bankPtr := 0, formation := none, loads := []
    queue := [], sregs := [], lut := [], sup := [], mma := none, vec := none }

/-! ### Starting runs -/

def grpReruns (g : Nat) : Nat := grpSeq g + 0x1C
def grpWideRuns (g : Nat) : Nat := grpSeq g + 0x20

/-- Chunks that R48 adds to a run as it starts. -/
def State.fillRun (s : State) (g : Nat) (r : Run) : State × Run :=
  let fits (n : Nat) : Bool := match s.taken n with
    | some _ =>
      let x := s.str n
      x.image == r.image && x.st != .exporting && (s.img x.image).variantOf x.classWord == r.variant
    | none => false
  let order := sortBy s.before ((s.homed g).filter fits)
  order.foldl (fun (a : State × Run) n =>
    let (s, r) := a
    let G := s.grp g
    let m := s.img r.image
    let b := r.chunks.length
    let total := G.total + (m.runcostOf r.variant (b + 1) - m.runcostOf r.variant b)
    match s.taken n with
    | some c =>
      if G.places && decide (b < 64) && decide (total ≤ G.room) then
        ((s.modGrp g fun G => { G with total }).modChunk n c.seq fun c =>
            { c with pos := .placed, placedIn := some G.round },
          { r with chunks := r.chunks ++ [(n, c.seq)] })
      else a
    | none => a) (s, r)

/-- The place of an action list: offset in 16-byte units and entries (Table 3-1). -/
def State.actionList (s : State) (g : Nat) (m : Image) (v b : Nat) : Nat × Nat :=
  let at_ := (v * 64 + (b - 1)) * 8
  let l := slice (s.imageBytes m g (m.actionDir + at_ / 64) 64) (at_ % 64) 8
  (field l 0 4, field l 4 4)

/-- A run starts now (R48, R62, R91, R151). A planned run takes in further chunks first, and each of its chunks counts
the round's overrun in H (R54). -/
def State.startRun (s : State) (g : Nat) (r0 : Run) : State :=
  let planned := !r0.rerun && !r0.wide
  let (s1, r) := if planned then s.fillRun g r0 else (s, r0)
  let clk := s.clk g
  let past := (s1.grp g).overrun
  let s2 := s1.modChunks r.chunks fun c =>
    { c with pos := .running, h := if planned then c.h + past else c.h }
  let (listAddr, entries) := s2.actionList g (s2.img r.image) r.variant r.chunks.length
  let shadow := s2.cfg.dupAll || r.chunks.any fun p => (s2.str p.1).cls == .s
  let s3 := s2.modGrp g fun G =>
    { G with
      gap := none, hold := none, schedVal := 0, schedClk := clk
      cur := some { run := r, start := clk, listAddr, entries, shadow } }
  let s4 := (s3.grp g).remap.foldl (fun s p => if p < 26 then s.modClu g p Cluster.runStart else s) s3
  let s5 := if shadow then s4.count (grpVec g + 0x14) 1 else s4
  let s6 := if r.rerun then s5.count (grpReruns g) 1 else s5
  if r.wide && !r.rerun then s6.count (grpWideRuns g) 1 else s6

/-- A peak gap begins (R316). -/
def State.enterGap (s : State) (g len : Nat) (before : Option Run) : State :=
  let clk := s.clk g
  let s1 := s.modGrp g fun G => { G with gap := some { ends := clk + len, before } }
  let s2 : State := { s1 with power := { s1.power with sinceGap := 0 } }
  let s3 := if before.isSome then s2.count (grpPwr g + 0x04) 1 else s2
  s3.count (grpPwr g + 0x08) len

/-- A run is entered, by its leading gap where it has one. -/
def State.enterRun (s : State) (g : Nat) (r : Run) : State :=
  if r.gap = 0 then s.startRun g r else s.enterGap g r.gap (some r)

/-- A rerun or wide-range run is entered, with gaps of its own (R73, R77, R316). -/
def State.enterUnplanned (s : State) (g : Nat) (r : Run) : State :=
  s.enterRun g { r with gap := s.gapFor (s.img r.image) r.variant r.chunks.length }

/-! ### The Almanac slot's start -/

/-- Enabled image passes, in order of handle and entry: handle and entry index (R342). -/
def State.imagePasses (s : State) : List (Nat × Nat) :=
  s.loaded.flatMap fun h =>
    (List.range (s.img h).alm.length).filterMap fun i =>
      match (s.img h).alm[i]? with
      | some e => if e.enabled then some (h, i) else none
      | none => none

/-- P of R342. -/
def State.passCount (s : State) : Nat := 8 + s.imagePasses.length

/-- The number under which an image pass stands in a test set: beyond the device passes, by handle and entry. -/
def imagePassNo (h i : Nat) : Nat := 9 + 4 * h + i

/-- The test set of place `k` of the rotation, from 0: the device passes, then the image passes (R342). -/
def State.rotationPass (s : State) (k : Nat) : TestSet :=
  if k < 8 then .pass (k + 1)
  else match s.imagePasses[k - 8]? with
    | some (h, i) => .pass (imagePassNo h i)
    | none => .pass 1

/-- The test of a slot that starts now: the next set of the queue's head entry, or the rotation test (R338, R342). -/
def State.nextTest (s : State) (g : Nat) : AlmTest :=
  let G := s.grp g
  match G.tests.head? with
  | some e => { targeted := true, set := e.sets.head?.getD (.pass 1), cluster := G.logical e.cluster }
  | none =>
    let z := s.clusterCount
    { targeted := false, set := s.rotationPass (G.visit / z % s.passCount), cluster := G.visit % z }

/-- Channel calibrations run once in 16 Almanac slots of the near channel's group (R238). -/
def chCalibrations (c : Nat) : Nat := memChReg c + 0x20

/-- The Almanac slot starts: the overrun is taken from U and the plan made to fit; the test is chosen; map-outs of the
clusters not under test take effect (R49, R100, R342). Every 16th slot calibrates the near channel (R238). A disabled
group has no slot (Table 13-9). -/
def State.startSlot (s : State) (g : Nat) : State :=
  let G := s.grp g
  let past := (s.clk g - G.round).toNat
  let s1 := s.modGrp g fun G => { G with awaitSlot := false, overrun := past }
  let s2 := (if 0 < past then s1.count (grpOverrun g) past else s1).reduceU g past
  if G.unit != .enabled || G.heldBy != .none then s2
  else
    let test := s2.nextTest g
    let s3 := s2.modGrp g fun G =>
      { G with
        almStart := some (s.clk g), almTest := some test, almSlots := G.almSlots + 1
        visit := if test.targeted then G.visit else G.visit + 1 }
    s3

/-! ### What comes next -/

/-- What a group does when a run, a gap, a quiescing or the Almanac slot is over: a wide-range run that waits, the
slot that waited for an overrun, the next planned run, or nothing (Table 3-7). -/
def State.proceed (s : State) (g : Nat) : State :=
  let G := s.grp g
  if G.cur.isSome || G.quiesce.isSome || G.gap.isSome then s
  else
    match G.wideQ with
    | w :: rest => (s.modGrp g fun G => { G with wideQ := rest }).enterUnplanned g w
    | [] =>
      if G.awaitSlot then s.startSlot g
      else if G.almStart.isSome then s
      else
        match G.plan with
        | r :: rest =>
          if G.unit == .enabled && G.expUnit == .enabled && G.retiring.isNone then
            (s.modGrp g fun G => { G with plan := rest }).enterRun g r
          else s
        | [] => s

/-! ### Variants retired, chunks that fail for good -/

/-- A variant is retired in group `g` (R75): planned runs of it are withdrawn, their chunks complete. -/
def State.retireVariant (s : State) (g h v : Nat) : State :=
  let m := s.img h
  if m.isRetired g v then s
  else
    let s1 := s.setImg h { m with retired := m.retired ++ [(g, v)] }
    let s2 := (s1.logEvent 0x0121 g noUnit 0 (leBytes 1 h ++ leBytes 1 v)).raiseInts [intRetire]
    let hit (r : Run) : Bool := r.image == h && r.variant == v
    let gone := (s2.grp g).plan.filter hit
    let s3 := s2.modGrp g fun G => { G with plan := G.plan.filter fun r => !hit r, total := G.total - s2.runsCost gone }
    (gone.flatMap (·.chunks)).foldl (fun s p =>
      match s.chunkOf p.1 p.2 with
      | some c => s.completeChunk p.1 c { status := stVariantRetired, stamp := s.clk g }
      | none => s) s3

/-- Chunks complete with `status` at clock `clk` (R74). -/
def State.failChunks (s : State) (cs : List (Nat × Nat)) (status : Nat) (clk : Int) : State :=
  cs.foldl (fun s p =>
    match s.chunkOf p.1 p.2 with
    | some c => s.completeChunk p.1 c { status, stamp := clk }
    | none => s) s

/-! ### The end of a run -/

/-- The entry of R169, combined over the clusters that the image uses. -/
def State.supOf (s : State) (g zi sid p : Nat) : SupEntry :=
  let G := s.grp g
  (List.range zi).foldl (fun a c =>
    let e : SupEntry := tget {} (s.clu g (G.phys c)).sup (supKey sid p)
    { amax := if f32Mag a.amax < f32Mag e.amax then e.amax else a.amax
      sats := min 0xFFFFFFFF (a.sats + e.sats)
      vals := min 0xFFFFFFFF (a.vals + e.vals) }) {}

/-- why of one entry under its descriptor (R169), none where it is not evaluated. -/
def supWhy (d : SupDesc) (e : SupEntry) : Option Nat :=
  if !d.en || e.vals == 0 then none
  else
    let a := 2 ^ 15 * f32Mag e.amax
    let r := f32Mag d.range
    let hi := decide (r * 2 ^ (15 + d.hiExp.toNat) < a)
    let lo := !d.loOff && decide (a < r * 2 ^ (15 - (-d.loExp).toNat))
    let sat := decide (e.vals < 4096 * e.sats)
    some (b2n hi + 2 * b2n lo + 4 * b2n sat)

/-- Verdicts of position `p`: pairs of SID and why of the entries evaluated. -/
def State.supVerdicts (s : State) (g : Nat) (m : Image) (v p : Nat) : List (Nat × Nat) :=
  let zi := if m.profile = 1152 then 24 else 25
  let descs := match m.vars[v]? with
    | some x => x.sup
    | none => []
  (List.range 16).filterMap fun sid =>
    match descs[sid]? with
    | some d => (supWhy d (s.supOf g zi sid p)).map fun w => (sid, w)
    | none => none

/-- SCALE_OUT of a position is decided and counted (R169, R172). -/
def State.scaleOut (s : State) (g : Nat) (m : Image) (v p : Nat) : State × Bool :=
  let vs := s.supVerdicts g m v p
  let why := vs.foldl (fun a x => a ||| x.2) 0
  let cnt (o : Nat) (b : Bool) (s : State) : State := if b then s.count (grpScl g + o) 1 else s
  let s1 := cnt 0x0C (bit why 2) (cnt 0x08 (bit why 1) (cnt 0x04 (bit why 0) (cnt 0 (!vs.isEmpty) s)))
  match vs.find? fun x => x.2 != 0 with
  | some (sid, w) => (s1.setCtr (grpScl g + 0x18) (sid + 16 * w), true)
  | none => (s1, false)

/-- The lowest free commit lane (R79). -/
def Group.freeLane (G : Group) (clk : Int) : Nat :=
  ((List.range 4).find? fun l => match tget none G.lanes l with
    | some x => decide (x.ended + 21000 ≤ clk)
    | none => true).getD 3

/-- The place in the output stage of position `p` in commit lane `l` (R79). -/
def State.stageAddr (s : State) (g : Nat) (m : Image) (l p : Nat) : Nat :=
  g * s.nearBytes + m.nearBase + 64 * m.nearExtent + (64 * l + p) * m.outBytes

/-- The OUT_BYTES of a chunk's output: the rows that OUTPUT staged, and beyond them bytes that no rule gives (R4, R79). -/
def Image.stagedBytes (m : Image) (staged : List Byte) : List Byte :=
  staged ++ (List.range (m.outBytes - staged.length)).map fun i =>
    BitVec.ofNat 8 (Config.unstated m.digest 1 (staged.length + i))

/-- Chunks by the WIDE variants that they name, in the order of first naming (R77). -/
def groupWide : List (Nat × Nat × Nat) → List (Nat × List (Nat × Nat))
  | [] => []
  | (w, n, q) :: rest =>
    let tail := groupWide rest
    match tail.find? fun x => x.1 == w with
    | some x => (w, (n, q) :: x.2) :: tail.filter fun y => y.1 != w
    | none => (w, [(n, q)]) :: tail

def grpFlagged (g : Nat) : Nat := grpScl g + 0x10
def grpWideCleared (g : Nat) : Nat := grpScl g + 0x14

/-- The run of group `g` ends now: E. Verdicts, class words, the commit lane, wide-range runs, and what comes next (R65, R76 to
R79, R169 to R172). The outputs stand in the area of the lane that the run takes: which area OUTPUT writes before the lane is
taken the spec does not say, so the rows go there at E (DESIGN CHOICE, notes/assumptions/56.md). -/
def State.endRun (s : State) (g clmask classRow : Nat) : State :=
  match (s.grp g).cur with
  | none => s
  | some info =>
    let r := info.run
    let m := s.img r.image
    let clk := s.clk g
    let cl := ((List.range 25).find? fun c => bit clmask c).getD 0
    let ps := List.range r.chunks.length
    let (s1, flags) := ps.foldl (fun (a : State × List Bool) p =>
      let (s, b) := a.1.scaleOut g m r.variant p
      (s, a.2 ++ [b])) (s, [])
    let wideOf (p : Nat) : Option Nat :=
      let q := r.chunks.getD p (0, 0)
      if r.wide || !(flags.getD p false) then none
      else match m.wideOf (s.str q.1).classWord with
        | some w => if m.isRetired g w then none else some w
        | none => none
    let s2 := ps.foldl (fun s p =>
      let q := r.chunks.getD p (0, 0)
      match wideOf p with
      | some _ => s.modChunk q.1 q.2 fun c => { c with h := c.h + (clk - info.start).toNat }
      | none => s.modChunk q.1 q.2 fun c =>
          { c with
            pos := .committing, h := c.h + info.held, classWord := s.classByte g cl classRow p
            scaleOut := flags.getD p false }) s1
    let wides := groupWide (ps.filterMap fun p => (wideOf p).map fun w => (w, r.chunks.getD p (0, 0)))
    let cleared := if r.wide then (flags.filter (!·)).length else 0
    let s3 := if 0 < cleared then s2.count (grpWideCleared g) cleared else s2
    let lane : Lane :=
      { ended := clk, image := r.image, variant := r.variant, wide := r.wide, chunks := r.chunks
        commits := (ps.filter fun p => (wideOf p).isNone).map fun p => (p, 0) }
    let l := (s3.grp g).freeLane clk
    let s3 := ps.foldl (fun s p => s.memStore (s.stageAddr g m l p) (m.stagedBytes (tget [] info.staged p)) []) s3
    let s4 := s3.modGrp g fun G =>
      { G with
        cur := none, hold := none, schedVal := G.sched clk
        lanes := tput none G.lanes l (some lane)
        wideQ := G.wideQ ++ wides.map fun w => { image := r.image, variant := w.1, chunks := w.2, wide := true } }
    let s5 := if r.gap = 0 then s4.proceed g else s4.enterGap g r.gap none
    s5.progressRetirement g

/-- A peak gap ends (GAP_END). -/
def State.endGap (s : State) (g : Nat) : State :=
  match (s.grp g).gap with
  | none => s
  | some x =>
    let s1 := s.modGrp g fun G => { G with gap := none }
    let s2 := match x.before with
      | some r => s1.startRun g r
      | none => s1.proceed g
    s2.progressRetirement g

/-! ### Quiescing ends -/

/-- A block failure's status (Table 9-7). -/
def isBlockStatus (st : Nat) : Bool := decide (stBlockCheck ≤ st) && decide (st ≤ stScaleSkew)

/-- The quiescing of a failed run ends (R72 to R75, R181): a rerun, or its chunks fail for good. -/
def State.endQuiesce (s : State) (g : Nat) (retries : WriteRetries) : State :=
  match (s.grp g).quiesce with
  | none => s
  | some q =>
    let info := q.info
    let r := info.run
    let clk := s.clk g
    let len := (clk - info.start).toNat
    let s1 := (s.modGrp g fun G => { G with quiesce := none }).modChunks r.chunks fun c => { c with h := c.h + len }
    let s2 :=
      if q.aborted || q.status == stAborted then (s1.failChunks r.chunks stAborted clk).proceed g
      else if !r.rerun then
        s1.enterUnplanned g
          { r with rerun := true, firstStatus := q.status, firstRecord := info.recordFail }
      else
        let lost : Option (Nat × Nat) := match info.recordFail with
          | some p => if r.firstRecord = some p then r.chunks[p]? else none
          | none => none
        let s3 := s1.failChunks (r.chunks.filter fun c => some c != lost) q.status clk
        let s4 := match lost with
          | some c =>
            let clean := match (s3.str c.1).slot with
              | some l => (s3.slotAt g l).valid && (s3.slotAt g l).clean
              | none => false
            s3.recordFault c.1 clean retries
          | none => s3
        let s5 := if r.firstStatus == stSeqFault && q.status == stSeqFault then s4.retireVariant g r.image r.variant else s4
        s5.proceed g
    (s2.requestSwaps g).progressRetirement g

end Sys2Proof.Machine
end

