-- ==== Sys2Proof/Machine/Rounds.lean ====
section
/-! DEFINITION. Rounds: the round start (R47 to R51), the Almanac slot's end with its verdicts (R337 to R343), the
readiness notice (R26, R29, R50), and the end of a peak gap (R316). -/

namespace Sys2Proof.Machine

/-! ### Round start -/

/-- A round boundary of group `g` falls in this cycle and its plan has not been made (R22, R47). -/
def State.roundDue (s : State) (g : Nat) : Bool :=
  let G := s.grp g
  let clk := s.clk g
  s.groupUp g && decide (0 ≤ clk) && decide (clk % (roundCycles : Int) = 0) && (!G.planned || decide (G.round < clk))

/-- A run of an earlier round, its rerun or wide-range run or a gap of one, or an Almanac slot that it delayed, is in
progress (R49; notes/assumptions/20.md). -/
def Group.overruns (G : Group) : Bool := !G.runsOver || G.almStart.isSome

/-- The physical cluster that replaces cluster `p` by the journal. -/
def State.replacing (s : State) (g p : Nat) : Nat :=
  match (clusterRecords s.allRecords g).find? fun r => bits r.location 6 5 == p with
  | some r => bits r.location 11 5
  | none => 0x1F

/-- The S streams of group `g` are in their slots again (R188). -/
def State.refilled (s : State) (g : Nat) : Bool :=
  (s.homed g).all fun n =>
    let r := s.str n
    r.cls != .s || r.slot.isSome || !(r.st == .opened || (r.st == .closing && !r.chunks.isEmpty))

/-- The last step of a retirement (step 6 of R359): after the group's reset, its S streams are in their slots again. -/
def State.endRetirement (s : State) (g : Nat) : State :=
  let G := s.grp g
  match G.retiring with
  | some (p, _) =>
    if !G.retiringNow && s.refilled g then
      (s.modGrp g fun G => { G with retiring := none }).logEvent 0x0132 g p 0 (leBytes 1 p ++ leBytes 1 (s.replacing g p))
    else s
  | none => s

/-- The round starts: withdrawals of the round before, budget, capacity, stale chunks, plan, Almanac slot (R42, R46 to
R51). A round whose slot never began has overrun by its whole length. -/
def State.roundStart (s : State) (g : Nat) : State :=
  if !s.roundDue g then s
  else
    let clk := s.clk g
    let s1 := (if (s.grp g).awaitSlot then s.count (grpOverrun g) roundCycles else s).endRetirement g
    let full := s1.refilled g
    let s2 := (s1.withdrawPlan g true).modGrp g fun G =>
      { G with round := clk, planned := true, refill := G.refill && !full }
    let s3 := ((s2.setBudget g).judgeCapacity g).shedStale g
    let s4 := (s3.requestSwaps g).makePlan g
    let s5 := if (s4.grp g).overruns then s4.modGrp g fun G => { G with awaitSlot := true } else s4.startSlot g
    (s5.progressRetirement g).judgeAll

def execRoundStart (t g : Nat) (s : State) : Host.Outcome State Fault Refusal := .next ((s.advance t).roundStart g)

/-! ### The Almanac slot's end -/

def grpAlmTests (g : Nat) : Nat := grpSafe g
def grpAlmMismatch (g : Nat) : Nat := grpSafe g + 0x04
def grpTargeted (g : Nat) : Nat := grpSafe g + 0x08
def grpTransient (g : Nat) : Nat := grpSafe g + 0x0C
def grpLasting (g : Nat) : Nat := grpSafe g + 0x10
def grpLastVerdict (g : Nat) : Nat := grpSafe g + 0x18

/-- Place `k` of a cluster's rows serves a row of the stream slot region, itself or as a spare (R88, R98). -/
def Cluster.inSlots (c : Cluster) (slotRows k : Nat) : Bool :=
  let bank := k / 2112
  let br := k % 2112
  if br < 2048 then decide (8192 - slotRows ≤ 4 * br + bank)
  else c.remap.any fun e =>
    e.2 == some (br - 2048) && decide (e.1 / 2048 = bank) && decide (8192 - slotRows ≤ 4 * (e.1 % 2048) + bank)

/-- A cluster after a pass: the stream slot region keeps its rows; working rows and microprogram store hold what the
test left, free values of number `seed` (notes/assumptions/17.md). -/
def Cluster.afterPass (c : Cluster) (slotRows seed : Nat) : Cluster :=
  { c with rows := c.rows.filter fun e => c.inSlots slotRows e.1, store := [], seed := some seed }

/-- What a test leaves of its cluster: a row test restores its row, zero where it was uncorrectable (R338); a pass uses
the working rows. -/
def State.afterTest (s : State) (g p : Nat) (set : TestSet) : State :=
  match set with
  | .row bank br => s.modClu g p fun c =>
      let r := 4 * br + bank
      let v := c.row r
      if v.bad then c.putRow r {} else c
  | .pass _ => { s.modClu g p fun c => c.afterPass s.cfg.slotRows s.free with free := s.free + 1 }

/-- Bit of a test set in the DATA of event 0x0130 (notes/assumptions/21.md). -/
def TestSet.mask : TestSet → Nat
  | .row _ _ => 2 ^ 15
  | .pass n => 2 ^ (min n 15 - 1)

def maskOf (l : List TestSet) : Nat := (l.map TestSet.mask).foldl (· ||| ·) 0

/-- LAST_CLUSTER and LAST_VERDICT (Table 15-15). -/
def State.setVerdict (s : State) (g p v : Nat) : State := s.setCtr (grpLastVerdict g) (p + 32 * v)

/-- A lasting verdict on cluster `p`: counted, recorded, and its SELF_TEST commands answered; a lasting row fault maps
the row out, any other retires the cluster (R339, R341). -/
def State.lastingVerdict (s : State) (g : Nat) (e : TestEntry) (failedRow : Option (Nat × Nat)) (cmdFailed : Bool) : State :=
  let s1 := ((s.count (grpLasting g) 1).setVerdict g e.cluster 2).logEvent 0x0130 g e.cluster 0
    (leBytes 2 (maskOf e.ran) ++ leBytes 1 1)
  let s2 := s1.finishAll e.cmds stSuccess (resultOf [(12, leBytes 1 (b2n cmdFailed))])
  match failedRow with
  | some (bank, br) => s2.lastingRow g e.cluster bank br
  | none => s2.retire g e.cluster

/-- REFCLK cycles within which a third transient verdict is lasting (R340). -/
def transientWindow : Nat := 60000000000

/-- Every set of an entry has passed: a transient verdict where an implicating event belongs to it, lasting at the third
within ten minutes (R339 to R341). -/
def State.passedVerdict (s : State) (g : Nat) (e : TestEntry) : State :=
  if !e.implicated then
    (s.logEvent 0x0130 g e.cluster 0 (leBytes 2 (maskOf e.ran) ++ leBytes 1 0)).finishAll e.cmds stSuccess (resultOf [])
  else
    let key := g * 26 + e.cluster
    let now := s.refclk
    let stamps := ((tget [] s.safety.stamps key).filter fun x => decide (now ≤ x + transientWindow)) ++ [now]
    let s1 : State := { s with safety := { s.safety with stamps := tput [] s.safety.stamps key stamps } }
    let s2 := s1.count (grpTransient g) 1
    if 3 ≤ stamps.length then s2.lastingVerdict g e none false
    else
      ((s2.setVerdict g e.cluster 1).logEvent 0x0130 g e.cluster 0 (leBytes 2 (maskOf e.ran) ++ leBytes 1 0)).finishAll
        e.cmds stSuccess (resultOf [])

/-- The signature of a test's output rows (R342). -/
def testSignature (x : TestResult) : BitVec 32 := BitVec.ofNat 32 (crc32c (x.rows.flatMap rowBytes))

/-- The image and entry of an image pass. -/
def imagePassOf (n : Nat) : Option (Nat × Nat) := if n < 9 then none else some ((n - 9) / 4, (n - 9) % 4)

/-- An image's Almanac entry changed by `f`. -/
def State.modAlm (s : State) (h i : Nat) (f : AlmEntry → AlmEntry) : State :=
  let m := s.img h
  match m.alm[i]? with
  | some e => s.setImg h { m with alm := m.alm.set i (f e) }
  | none => s

/-- A mismatch of an image pass that no cluster has matched yet (R343). -/
def State.unqualified (s : State) (n : Nat) : Option (Nat × Nat) :=
  match imagePassOf n with
  | some (h, i) => match (s.img h).alm[i]? with
    | some e => if e.qualified then none else some (h, i)
    | none => some (h, i)
  | none => none

/-- The signature expected of pass `n`: that of an image's table, or that of a device pass in flash (R342, R343). -/
def State.signatureOf (s : State) (n : Nat) : Option (BitVec 32) :=
  match imagePassOf n with
  | some (h, i) => (s.img h).alm[i]?.map (·.sig)
  | none => some (Config.passSignature n)

/-- A test set passes (R339, R342): its signature matches, no checker disagreed, no read found an uncorrectable error, and
it was not held for 4,097 cycles; a row test, where every pattern read back. -/
def State.testPassed (s : State) (set : TestSet) (x : TestResult) : Bool :=
  !x.disagreed && !x.uncorrectable && !x.heldOut && (match set with
    | .row _ _ => !x.rowFailed
    | .pass n => s.signatureOf n == some (testSignature x))

/-- A targeted test set has run (R338, R339). -/
def State.judgeTargeted (s : State) (g p : Nat) (set : TestSet) (x : TestResult) : State :=
  let s1 := s.count (grpTargeted g) 1
  match (s1.grp g).tests.find? fun e => e.cluster == p with
  | none => s1
  | some e0 =>
    let e : TestEntry := { e0 with sets := e0.sets.erase set, ran := e0.ran ++ [set] }
    let drop (s : State) : State := s.modGrp g fun G => { G with tests := G.tests.filter fun x => x.cluster != p }
    if s1.testPassed set x then
      if e.sets.isEmpty then (drop s1).passedVerdict g e
      else s1.modGrp g fun G => { G with tests := G.tests.map fun x => if x.cluster = p then e else x }
    else
      match set with
      | .row bank br => (drop s1).lastingVerdict g e (some (bank, br)) true
      | .pass _ => (drop s1).lastingVerdict g e none true

/-- An Almanac mismatch of a qualified or device pass implicates the cluster and is recorded (R337). Table 16-2 lists no CODE
for it, which stays free (notes/assumptions/57.md). -/
def State.mismatch (s : State) (g p : Nat) (set : TestSet) : State :=
  (s.logFrom (2 + g) false (Config.mismatchCode % 2 ^ 16) g p 0 (leBytes 2 set.mask)).queueTests g p [set] true []

/-- A rotation test has run (R339, R342, R343): a match qualifies an image pass, a mismatch disables an unqualified
one or implicates the cluster, and a test held too long is a failed test set. -/
def State.judgeRotation (s : State) (g p : Nat) (set : TestSet) (x : TestResult) : State :=
  let n := match set with
    | .pass n => n
    | .row _ _ => 0
  let s1 := s.count (grpAlmTests g) 1
  if s1.testPassed set x then
    match imagePassOf n with
    | some (h, i) => s1.modAlm h i fun e => { e with qualified := true }
    | none => s1
  else
    let s2 := s1.count (grpAlmMismatch g) 1
    if x.heldOut then s2.lastingVerdict g { cluster := p, sets := [], ran := [set], implicated := true } none true
    else match s2.unqualified n with
      | some (h, i) => (s2.modAlm h i fun e => { e with enabled := false }).logEvent 0x0131 g noUnit 0
          (leBytes 1 h ++ leBytes 1 i)
      | none => s2.mismatch g p set

/-- The slot ends after its 100,000 cycles and the cycles for which the test was held, which U loses (R342); map-outs take
effect for the clusters that were not under test (R100); then the verdict, and the first run (R47). -/
def State.almanacEnd (s : State) (g : Nat) (x : TestResult) (held : Nat) (mapReads : List Met) : State :=
  let G := s.grp g
  match G.almStart, G.almTest with
  | some a, some test =>
    if s.groupUp g && decide (s.clk g = a + almanacCycles + held) && (!x.heldOut || decide (4097 ≤ held)) then
      let p := G.phys test.cluster
      let s0 := s.applyMapouts g p mapReads
      let s1 := s0.modGrp g fun G => { G with almStart := none, almTest := none }
      let s2 := (if 0 < held then s1.reduceU g held else s1).afterTest g p test.set
      let s3 := if test.targeted then s2.judgeTargeted g p test.set x else s2.judgeRotation g p test.set x
      ((s3.judgeAll).proceed g).progressRetirement g
    else s
  | _, _ => s

def execAlmanacSlotEnd (t g : Nat) (result : TestResult) (held : Nat) (s : State) (mapReads : List Met := []) :
    Host.Outcome State Fault Refusal :=
  .next ((s.advance t).almanacEnd g result held mapReads)

/-! ### Readiness -/

def grpPace (g : Nat) : Nat := grpSvc g + 0x1C

/-- A chunk of stream `n` is stamped ready at clock `stamp` (R29, R50); in a group held DISABLED it completes at once
(R360), else a swap-in may be asked for (R184). -/
def State.stampChunk (s : State) (n : Nat) (stamp : Int) : State :=
  let r := s.str n
  let g := r.home
  let pace := r.cls != .b && (match r.lastStamp with
    | some (h, x) => h == g && decide (stamp - x < (r.tp : Int) - roundCycles)
    | none => false)
  let c : Chunk := { seq := r.stampSeq, first := r.stampFirst, stamp, pace }
  let s1 := s.setStr n { r with
    chunks := r.chunks ++ [c]
    stampSeq := (r.stampSeq + 1) % 2 ^ 32
    stampFirst := r.stampFirst + r.chunkSamples
    lastStamp := some (g, stamp)
    pace := satAdd r.pace (b2n pace) }
  let s2 := if pace then s1.count (grpPace g) 1 else s1
  if (s.grp g).heldBy != .none then s2.completeChunk n c { status := stDisabled, stamp } else s2.requestSwaps g

/-- Notices that were held for stream `n` are delivered to its home group (R26, R362). -/
def State.deliverHeld (s : State) (n : Nat) : State :=
  let r := s.str n
  r.heldNotices.foldl (fun s at_ => s.stampChunk n (s.clk r.home - 4 * (((s.now - at_) / 4 : Nat) : Int)))
    (s.setStr n { r with heldNotices := [] })

/-- MAX_WRITE_US of the port whose tick emitted the last sample of the chunk (R251). -/
def State.noteWrite (s : State) (n : Nat) : State :=
  let r := s.str n
  match r.filled with
  | at_ :: rest =>
    (s.setStr n { r with filled := rest }).countMax (apPort (bindPort r.source) + 0x48) (toUs ((s.now - at_ : Nat) : Int))
  | [] => s

/-- A notice for the oldest complete chunk without one: held while the stream is MOVING or its group is in reset (R26,
R362), else delivered. -/
def State.notice (s : State) (n : Nat) : State :=
  let r := s.str n
  if r.st == .closed || decide (r.unstamped ≤ r.heldNotices.length) || !s.groupsWork then s
  else
    let s1 := s.noteWrite n
    if r.st == .moving || !(s.grp r.home).running then
      s1.modStr n fun r => { r with heldNotices := r.heldNotices ++ [s.now] }
    else s1.stampChunk n (s.clk r.home)

def execReadinessNotice (t stream : Nat) (s : State) : Host.Outcome State Fault Refusal := .next ((s.advance t).notice stream)

/-! ### The end of a gap -/

/-- A peak gap that is over by now ends. -/
def State.gapEnd (s : State) (g : Nat) : State :=
  match (s.grp g).gap with
  | some x => if s.groupUp g && decide (s.clk g = x.ends) then s.endGap g else s
  | none => s

def execGapEnd (t g : Nat) (s : State) : Host.Outcome State Fault Refusal := .next ((s.advance t).gapEnd g)

end Sys2Proof.Machine
end

