-- ==== Sys2Proof/Machine/RunEvents.lean ====
section
/-! DEFINITION. Events of runs and records: the ends of holds and of quiescing (R70, R72, R95), the commit steps (R31,
R79), and the ends of swaps (R183, R186). -/

namespace Sys2Proof.Machine

/-! ### Quiescing -/

/-- CORE cycles of quiescing (R72). -/
def quiesceCycles : Nat := 2000

def State.quiesceEnd (s : State) (g : Nat) (retries : WriteRetries) : State :=
  match (s.grp g).quiesce with
  | some q => if s.groupUp g && decide (s.clk g = q.failedAt + quiesceCycles) then s.endQuiesce g retries else s
  | none => s

def execQuiesceEnd (t g : Nat) (s : State) (retries : WriteRetries := []) : Host.Outcome State Fault Refusal :=
  .next ((s.advance t).quiesceEnd g retries)

/-! ### HOLD -/

/-- Held cycles at which a run fails (R70), counted from 1. -/
def holdLimit : Nat := 4097

/-- HOLD stays raised for 4,097 consecutive cycles: the run fails in the last of them (R70). A tag mismatch that fails it in
that same cycle is recorded too, and gives the status (R95, R219). -/
def State.holdTimeout (s : State) (g : Nat) : State :=
  let G := s.grp g
  let clk := s.clk g
  match G.hold, G.cur with
  | some h, some info =>
    if s.groupUp g && decide (clk = h.since + holdLimit - 1) then
      let s1 := match (if info.scrubAt + 39 = clk then info.tagFail else none) with
        | some d => s.takeTurn g clk (.tagFail d)
        | none => s
      s1.failRun g stHoldTimeout clk (h.srcs.contains .injected)
    else s
  | _, _ => s

def execHoldTimeout (t g : Nat) (s : State) : Host.Outcome State Fault Refusal := .next ((s.advance t).holdTimeout g)

/-- Cycles of a scrub hold (R95). -/
def scrubCycles : Nat := 40

/-- The 40-cycle hold of corrected reads ends (R95). -/
def State.scrubHoldEnd (s : State) (g : Nat) : State :=
  let G := s.grp g
  match G.cur with
  | some info =>
    if s.groupUp g && G.heldBySrc .scrub && decide (s.clk g = info.scrubAt + scrubCycles) then
      let s1 := (s.count (spadScrubHold g) scrubCycles).modGrp g fun G =>
        { G with cur := G.cur.map fun r => { r with scrubs := [] } }
      (info.scrubs.foldl (fun s x => s.verifyFailed g x) s1).dropHold g .scrub (s.clk g)
    else s
  | none => s

def execScrubHoldEnd (t g : Nat) (s : State) : Host.Outcome State Fault Refusal := .next ((s.advance t).scrubHoldEnd g)

/-! ### Commits (R31, R79) -/

/-- Cycles after E of the three commit steps of position 0, and between positions (R79). -/
def commitAt (step : Nat) : Nat := [900, 1700, 2100].getD step 0
def commitPace : Nat := 300

/-- The lane of group `g` in which the commit step of position `p` falls in this cycle. -/
def State.commitDue (s : State) (g lane p step : Nat) : Option Lane :=
  match tget none (s.grp g).lanes lane with
  | some x =>
    if s.groupUp g && x.commits.contains (p, step) && decide (s.clk g = x.ended + (commitAt step + commitPace * p : Nat)) then
      some x
    else none
  | none => none

/-- A commit step of position `p` is done. -/
def State.stepLane (s : State) (g lane p step : Nat) : State :=
  s.modGrp g fun G =>
    { G with lanes := tput none G.lanes lane ((tget none G.lanes lane).map fun x =>
        { x with commits := if step = 2 then x.commits.filter fun c => c.1 != p
                            else x.commits.map fun c => if c = (p, step) then (p, step + 1) else c }) }

/-- Steps 1 and 2 of R31: COMMITTED is inverted, CLEAN falls, the chunk's input is freed (R178, R251). -/
def State.switchCopy (s : State) (n seq : Nat) : State :=
  let r := s.str n
  let s1 := match r.slot, s.chunkOf n seq with
    | some l, some c =>
      (s.setSlot r.home l
        (let v := s.slotAt r.home l
         { v with committed := !v.committed, clean := false, lastUse := s.clk r.home })).setStr n
        (({ r with recSeq := seq } : Stream).freeInput (c.first + r.chunkSamples))
    | _, _ => s
  s1

def State.commitState (s : State) (g lane p : Nat) : State :=
  match s.commitDue g lane p 0 with
  | some x =>
    let q := x.chunks.getD p (0, 0)
    (s.switchCopy q.1 q.2).stepLane g lane p 0
  | none => s

def execCommitState (t g lane p : Nat) (s : State) : Host.Outcome State Fault Refusal :=
  .next ((s.advance t).commitState g lane p)

/-- Step 3 of R31: the output goes from the output stage to its destination. -/
def State.commitOutput (s : State) (g lane p : Nat) : State :=
  match s.commitDue g lane p 1 with
  | some x =>
    let (n, seq) := x.chunks.getD p (0, 0)
    let m := s.img x.image
    let s1 := match s.chunkOf n seq with
      | some c => s.deliverOutput n seq c.first (s.memRead (s.stageAddr g m lane p) m.outBytes)
      | none => s
    s1.stepLane g lane p 1
  | none => s

def execCommitOutput (t g lane p : Nat) (s : State) : Host.Outcome State Fault Refusal :=
  .next ((s.advance t).commitOutput g lane p)

/-- COMMITTED_FLAGGED counts a commit that carries SCALE_OUT (R172). -/
def State.countFlagged (s : State) (g : Nat) (c : Chunk) : State := if c.scaleOut then s.count (grpFlagged g) 1 else s

/-- Steps 4 and 5 of R31: the chunk completes; a request that waited for a slot is tried again (R185). -/
def State.completionStamp (s : State) (g lane p : Nat) : State :=
  match s.commitDue g lane p 2 with
  | some x =>
    let (n, seq) := x.chunks.getD p (0, 0)
    let s1 := match s.chunkOf n seq with
      | some c => (s.countFlagged g c).completeChunk n c { status := stSuccess, stamp := s.clk g }
      | none => s
    ((s1.stepLane g lane p 2).requestSwaps g).progressRetirement g
  | none => s

def execCompletionStamp (t g lane p : Nat) (s : State) : Host.Outcome State Fault Refusal :=
  .next ((s.advance t).completionStamp g lane p)

/-! ### Swaps (R183, R186) -/

def grpSwapIns (g : Nat) : Nat := grpState g
def grpSwapOuts (g : Nat) : Nat := grpState g + 0x04

/-- W of the chunks that waited for the swap-in grows by the cycles since the request (R54). -/
def Stream.swapWaited (r : Stream) (clk : Int) : Stream :=
  { r with chunks := r.chunks.map fun c => match c.swapReq with
      | some x => { c with w := c.w + (clk - x).toNat, swapReq := none }
      | none => c }

/-- A record comes into slot `l` of group `g` (steps 2 to 4 of R186). -/
def State.fillSlot (s : State) (g l n : Nat) (record : List Byte) : State :=
  let r := s.str n
  let clk := s.clk g
  let s1 := (s.writeCopy g l 0 0 (pieces 64 4096 record)).setSlot g l
    { stream := n, valid := true, pinned := r.cls == .s, clean := true, committed := false, lastUse := clk }
  let s2 := s1.setStr n (({ r with slot := some l } : Stream).swapWaited clk)
  (s2.count (grpSwapIns g) 1).count (grpSpillSwaps g) (b2n r.spilled)

/-- A state block that failed is counted and recorded (R218, Table 9-11). -/
def State.stateBlockFailed (s : State) (g st : Nat) : State :=
  if isBlockStatus st then (s.count cometBlockFails 1).logEvent 0x0122 g noUnit st (leBytes 2 0 ++ leBytes 4 0) else s

/-- The status of what is wrong with a stored record that a transfer read, none for nothing. -/
def State.readWrong (s : State) (n : Nat) (fault : TransferFault) : Nat :=
  match fault, s.readHome n with
  | .block st, _ => st
  | _, .error st => st
  | _, .ok _ => 0

/-- The reads of a stream's home in LPDDR6, of which the list names those that met an error (R233): whether one of its rows is
a stored error. -/
def State.homeReads (s : State) (n : Nat) (reads : MemReads) : State × Bool :=
  let r := s.str n
  if r.spilled then (s, false) else s.meetRows r.recordAddr (ceilDiv r.homeSize 64) reads

/-- The status that an armed detector of a Comet codec gives a transfer: block CRC, or decode (Table 16-7). Which codec
serves a transfer the spec leaves open; here the lowest-numbered armed one does. -/
def State.fireCodec (s : State) : Option Nat × State :=
  match (List.range 48).find? fun n => (s.armedAt (devDetector n)).isSome with
  | some n => (some (if n % 2 = 0 then stBlockCheck else stBlockInvalid), (s.fireArmed (devDetector n)).2)
  | none => (none, s)

/-- The swap-in into a slot ends: the record is in it, or the swap-in is repeated once, or it is a record fault. A stored error
under the home's rows counts as a block failure (R234). -/
def State.swapInDone (s : State) (g l : Nat) (fault : TransferFault) (reads : MemReads) (retries : WriteRetries) : State :=
  match (s.grp g).swaps.find? fun w => w.slot == l && w.out.isNone with
  | none => s
  | some w =>
    match w.inFor with
    | none => s
    | some n =>
      if !s.groupUp g || s.power.m = 8 then s
      else
        let (armed, s0) := s.fireCodec
        let (s0, lost) := s0.homeReads n reads
        let got : Option (List Byte) := match armed, fault, lost, s0.readHome n with
          | none, .none, false, .ok b => some b
          | _, _, _, _ => none
        let s0 := match armed, got with
          | some st, _ => s0.asInjected fun s => s.stateBlockFailed g st
          | none, some _ => s0
          | none, none => s0.stateBlockFailed g (s0.readWrong n fault)
        let s1 := match got with
          | some b => (s0.dropSwap g l).fillSlot g l n b
          | none =>
            if w.second then ((s0.dropSwap g l).modStr n fun r => r.swapWaited (s0.clk g)).recordFault n false retries
            else s0.modGrp g fun G =>
              { G with swaps := G.swaps.map fun x => if x.slot = l then { x with second := true } else x }
        let done := got.isSome || w.second
        if done then
          (((s1.dropHold g (.swap l) (s0.clk g)).requestSwaps g).progressRetirement g).judgeAll
        else s1

def execSwapInDone (t g slot : Nat) (fault : TransferFault) (s : State) (reads : MemReads := []) (retries : WriteRetries := []) :
    Host.Outcome State Fault Refusal :=
  .next ((s.advance t).swapInDone g slot fault reads retries)

/-- Slot `l` is free after a swap-out, or goes to the stream that it was freed for. -/
def State.passSlot (s : State) (g l : Nat) (inFor : Option Nat) : State :=
  match inFor with
  | some m =>
    let pin := (s.str m).cls == .s
    if s.cometUnit == .enabled then
      (s.setSlot g l { stream := m, pinned := pin }).addSwap g { slot := l, out := none, inFor := some m }
    else s.setSlot g l (if pin then { stream := m, pinned := true } else {})
  | none => s.setSlot g l {}

/-- The reads of copy `k` of slot `l` by the swap port, which are unscheduled (R95, R96): whether one of them is an error that
cannot be corrected. -/
def State.copyReads (s : State) (g l k : Nat) (reads : List (Nat × Met)) : State × Bool :=
  reads.foldl (fun (acc : State × Bool) x =>
    let w := acc.1.slotRow l k x.1
    let bad := match x.2 with
      | .uncorrectable _ => true
      | _ => false
    (acc.1.meetUnscheduled g ((acc.1.grp g).phys w.1) (w.2 % 4) (w.2 / 4) x.2, acc.2 || bad)) (s, false)

/-- The swap-out of a slot ends once its write is acknowledged (R186); a copy that cannot be read is a record fault
(R183). -/
def State.swapOutDone (s : State) (g l : Nat) (reads : List (Nat × Met)) (acked : Bool) (retries : WriteRetries) : State :=
  match (s.grp g).swaps.find? fun w => w.slot == l && w.out.isSome with
  | none => s
  | some w =>
    let n := w.out.getD 0
    let r := s.str n
    if !s.groupUp g || s.power.m = 8 then s
    else
      let k := b2n (s.slotAt g l).committed
      let (s0, lost) := s.copyReads g l k reads
      if !lost && (!acked || (r.spilled && !s0.hif.linkUp)) then s0
      else
        let s1 :=
          if lost then ((s0.dropSwap g l).passSlot g l w.inFor).recordFault n false retries
          else
            let s2 := s0.writeHome n (s0.readCopy g l k (s0.img r.image).recordRows) retries
            ((s2.count (grpSwapOuts g) 1).count (grpSpillSwaps g) (b2n r.spilled) |>.dropSwap g l).passSlot g l w.inFor
        (((s1.dropHold g (.swap l) (s0.clk g)).requestSwaps g).progressRetirement g).judgeAll

def execSwapOutDone (t g slot : Nat) (reads : List (Nat × Met)) (acked : Bool) (s : State) (retries : WriteRetries := []) :
    Host.Outcome State Fault Refusal :=
  .next ((s.advance t).swapOutDone g slot reads acked retries)

end Sys2Proof.Machine
end

