-- ==== Sys2Proof/Machine/Actions.lean ====
section
/-! DEFINITION. Actions of a run (Table 3-4) but for the expander's: segments and starts (R64 to R67), transfers over the
group bus and with memory (R217, R230, R231), records, inputs and outputs (R79, R175, R180 to R182), END (R65, R154). -/

namespace Sys2Proof.Machine

/-! ### Issue -/

/-- Nothing keeps the group's schedule from going on in this cycle: the group works, HOLD is low, and no row that is due in it
is still to come. -/
def State.canIssue (s : State) (g : Nat) : Bool :=
  let G := s.grp g
  let clk := s.clk g
  s.groupUp g && !G.isHeld clk && (match G.cur with
    | some r => match r.lackAt with
      | some v => decide (G.sched clk < v)
      | none => true
    | none => false)

/-- The next entry, where it has this operation and this is its cycle (R65). -/
def State.actionDue (s : State) (g op : Nat) : Option (RunInfo × Action) :=
  match (s.grp g).cur with
  | none => none
  | some r =>
    let a := s.entryAt g r r.next
    let v := s.schedNow g
    if s.canIssue g && decide (r.next < r.entries) && a.op == op && a.at_ == v
        && (r.lastAt != v || decide (r.inCycle < 4)) then some (r, a)
    else none

/-- The entry counts as issued. -/
def State.passEntry (s : State) (g : Nat) : State :=
  let v := s.schedNow g
  s.modRun g fun r => { r with next := r.next + 1, inCycle := if r.lastAt = v then r.inCycle + 1 else 1, lastAt := v }

/-- An action whose cycle this is issues, with its effect. -/
def State.onAction (s : State) (g op : Nat) (eff : RunInfo → Action → State → State) : State :=
  match s.actionDue g op with
  | some (r, a) => eff r a (s.passEntry g)
  | none => s

/-- The action that has just issued fails the run in this cycle, and no further action issues in it (R72, R219). -/
def State.failIssue (s : State) (g status : Nat) (injected : Bool) : State :=
  (s.addDue g { sched := s.schedNow g, kind := .fail status, injected }).modRun g fun r => { r with inCycle := 4 }

/-- A guard of group detector `det` trips where `bad` holds, or where the detector is armed: the run fails in this cycle. -/
def State.guardFail (s : State) (g det : Nat) (bad : Bool) (status : Nat) : Option State :=
  if bad then some (s.failIssue g status false)
  else
    let (fired, s1) := s.fireArmed (grpDetector g det)
    if fired then some (s1.failIssue g status true) else none

/-- The first cluster of a mask. -/
def firstOfMask (mask : Nat) : Nat := ((List.range 25).find? fun c => bit mask c).getD 0

/-- Indices of Table 16-6. -/
def detBarrier : Nat := 15
def detSegCrc : Nat := 16
def detHalf : Nat := 17
def detStart : Nat := 18

/-- A cluster is halted at `v` (Table 5-4). -/
def Cluster.isHalted (c : Cluster) (v : Nat) : Bool :=
  c.haltIssued && c.mma.isNone && (c.arrayBusy == 0 || decide (c.arrayBusy < v)) && c.formation.isNone
    && !(c.wpos.any fun w => w.2.formed && w.2.fullAt == v)
    && (c.acc.all fun a => !a.2.opened && (a.2.epiOver || a.2.epi.isNone) && !a.2.epiRuns v)
    && (match c.vec with
      | some o => decide (o.ends < v)
      | none => true)

/-! ### LOAD_SEG and the segment's arrival (R64, R66) -/

/-- A segment directory entry: offset in 64-byte units, rows (Table 3-1). -/
def State.segmentOf (s : State) (g : Nat) (m : Image) (i : Nat) : Nat × Nat :=
  let l := s.imageSlice m g (64 * m.segDir + 8 * i) 8
  (field l 0 4, field l 4 2)

def State.loadSeg (s : State) (g : Nat) : State :=
  s.onAction g 0x01 fun r a s =>
    let half := a.field 16 1
    let busy := (s.physOf g a.clmask).any fun p => !(s.clu g p).haltIssued && (s.clu g p).half == half
    match s.guardFail g detHalf busy stSeqFault with
    | some s1 => s1
    | none =>
      let n := (s.segmentOf g (s.img r.run.image) (a.field 0 16)).2
      s.modRun g fun r => { r with segs := r.segs ++
        [{ segment := a.field 0 16, half, clmask := a.clmask, arrives := a.at_ + n + 16 }] }

def execLoadSeg (t g : Nat) (s : State) : Host.Outcome State Fault Refusal := .next ((s.advance t).loadSeg g)

/-- The words of a segment are written into a half of a cluster's store. -/
def Cluster.loadWords (c : Cluster) (half : Nat) (words : List Nat) : Cluster :=
  { c with
    store := (List.range words.length).foldl
      (fun t i => tput none t (1024 * half + i) (some (BitVec.ofNat 64 (words.getD i 0)))) c.store }

/-- A segment is in place: the oldest of those due now (R64, R66). -/
def State.segmentArrival (s : State) (g : Nat) (damaged : Bool) : State :=
  match (s.grp g).cur with
  | none => s
  | some r =>
    match r.segs.find? fun x => x.arrives == s.schedNow g with
    | none => s
    | some x =>
      if !s.canIssue g then s
      else
        let m := s.img r.run.image
        let (off, n) := s.segmentOf g m x.segment
        let bytes := s.imageSlice m g (64 * off) (64 * n)
        let bad := damaged || crc32c bytes != field (s.imageSlice m g (64 * (off + n)) 4) 0 4
        let s1 := s.modRun g fun r => { r with segs := r.segs.erase x }
        match s1.guardFail g detSegCrc bad stSeqFault with
        | some s2 => s2
        | none =>
          let words := (pieces 8 1024 bytes).map leNat
          (s1.physOf g x.clmask).foldl (fun s p => s.modClu g p fun c => c.loadWords x.half words) s1

def execSegmentArrival (t g : Nat) (damaged : Bool) (s : State) : Host.Outcome State Fault Refusal :=
  .next ((s.advance t).segmentArrival g damaged)

/-! ### START and BARRIER (R64, R66, R67) -/

def State.start (s : State) (g : Nat) : State :=
  s.onAction g 0x02 fun _ a s =>
    let v := a.at_
    let bad := (s.physOf g a.clmask).any fun p => !(s.clu g p).isHalted v
    match s.guardFail g detStart bad stSeqFault with
    | some s1 => s1
    | none => (s.physOf g a.clmask).foldl (fun s p => s.modClu g p fun c =>
        { c with haltIssued := false, half := a.field 0 1, word := a.field 1 10, loops := [], nextIssue := v + 1, sig := 0 }) s

def execStart (t g : Nat) (s : State) : Host.Outcome State Fault Refusal := .next ((s.advance t).start g)

def State.barrier (s : State) (g : Nat) : State :=
  s.onAction g 0x0B fun _ a s =>
    let bad := (s.physOf g a.clmask).any fun p =>
      let c := s.clu g p
      !c.isHalted a.at_ || c.sig != BitVec.ofNat 32 (a.field 0 32)
    (s.guardFail g detBarrier bad stSeqFault).getD s

def execBarrier (t g : Nat) (s : State) : Host.Outcome State Fault Refusal := .next ((s.advance t).barrier g)

/-! ### Decoder and coder (R216) -/

/-- Busy intervals meet: some of `new` overlaps one of `old`. -/
def startsBusy (old new : List (Nat × Nat)) : Bool :=
  new.any fun x => old.any fun y => decide (y.1 < x.2) && decide (x.1 < y.2)

/-! ### FETCH and INPUT (R217, R230, R231) -/

/-- Every one of `n` rows from image-relative address `a` lies within the extents. -/
def State.rowsMapped (s : State) (m : Image) (g a n : Nat) : Bool := (List.range n).all fun i => (s.imageAddr m g (a + i)).isSome

/-- The memory addresses of `n` rows from image-relative address `a`. -/
def State.rowAddrs (s : State) (m : Image) (g a n : Nat) : List Nat :=
  (List.range n).map fun i => (s.imageAddr m g (a + i)).getD 0

/-- A transfer starts; armed detectors meet its first row. -/
def State.startTransfer (s : State) (g : Nat) (x : Transfer) : State :=
  let s1 := match s.physOf g x.clmask with
    | p :: _ => s.armAccess g (x.dueAt 0) { phys := p, row := x.row } false
    | [] => s
  if x.count = 0 then s1
  else s1.modRun g fun r => { r with nextOp := r.nextOp + 1, transfers := r.transfers ++ [{ x with op := r.nextOp }] }

/-- Rows of memory as they stand, with the STORE of this run that wrote each (R231). -/
def State.fetched (s : State) (r : RunInfo) (addrs : List Nat) : List Row × List Nat :=
  (addrs.map s.memRow, addrs.map fun a => match r.wrote.find? fun x => x.1 == a with
    | some x => x.2 + 1
    | none => 0)

/-- Decoder intervals of a spill FETCH issued at `v` (R217). -/
def fetchBusy (v n : Nat) : List (Nat × Nat) :=
  (List.range (ceilDiv n 64)).map fun i => (v + 600 + 325 * (i + 1), v + 600 + 325 * (i + 1) + 2 * min 64 (n - 64 * i))

def State.fetch (s : State) (g : Nat) : State :=
  s.onAction g 0x04 fun r a s =>
    let m := s.img r.run.image
    let (ad, row, n, v) := (a.field 0 34, a.field 34 13, a.field 47 16, a.at_)
    let spill := m.spillAt ad
    let units := if spill.isSome then spillUnits * ceilDiv n 64 else n
    let busy := if spill.isSome then fetchBusy v n else []
    if startsBusy r.decoder busy || !s.rowsMapped m g ad units then s.failIssue g stSeqFault false
    else
      let addrs := s.rowAddrs m g ad units
      let (data, origin) := s.fetched r addrs
      (s.modRun g fun r => { r with decoder := r.decoder ++ busy }).startTransfer g
        { op := 0, req := reqFetch, clmask := a.clmask, row, count := n, issued := v, farFrom := m.nearExtent - ad, spill
          addrs, data, origin }

def execFetch (t g : Nat) (s : State) : Host.Outcome State Fault Refusal := .next ((s.advance t).fetch g)

/-- The chunk's input samples as rows, with the memory addresses that they are read from; what the last row holds beyond them
is no rule's (notes/assumptions/25.md). -/
def State.inputRows (s : State) (n first : Nat) : List Row × List Nat :=
  let r := s.str n
  let wide := bindSfmt r.source
  let bytes := (slice r.samples (first - r.inStart) r.chunkSamples).flatMap (sampleBytes wide)
  let tail := (List.range ((64 - bytes.length % 64) % 64)).map fun i =>
    BitVec.ofNat 8 (Config.unstated (s.img r.image).digest 0 (bytes.length + i))
  let rows := (pieces 64 (bytes.length + 64) (bytes ++ tail)).map bytesRow
  (rows, (List.range rows.length).map fun i => s.ringAddr r (first + (if wide then 16 else 32) * i) / 64 * 64)

def State.input (s : State) (g : Nat) : State :=
  s.onAction g 0x09 fun r a s =>
    let q := r.run.chunks.getD (a.field 0 6) (0, 0)
    match s.chunkOf q.1 q.2 with
    | none => s
    | some c =>
      let (rows, addrs) := s.inputRows q.1 c.first
      s.startTransfer g
        { op := 0, req := reqInput, clmask := a.clmask, row := a.field 6 13, count := rows.length, issued := a.at_
          farFrom := rows.length, addrs, data := rows, origin := [] }

def execInput (t g : Nat) (s : State) : Host.Outcome State Fault Refusal := .next ((s.advance t).input g)

/-! ### STORE and OUTPUT (R79, R217, R230, R231, R235) -/

/-- Rows `0` to `n - 1` from row `row` of cluster `c` are read at t + 1 + 5 × i, with armed detectors on the first. -/
def State.readPaced (s : State) (g req c row n v : Nat) (ecc : Ecc) (dest : Nat → Sink) : State :=
  let p := (s.grp g).phys c
  (s.armAccess g (v + 1) { phys := p, row } true).addDues g
    ((List.range n).map fun i => readDue ecc v req (v + 1 + 5 * i) c p ((row + i) % 8192) (dest i))

/-- Detector 34 of Table 16-6: write link protection. -/
def detWriteLink : Nat := 34

/-- The repetitions of a STORE's writes; armed write link protection repeats the first (R365). -/
def State.storeRetries (s : State) (g : Nat) (l : WriteRetries) : State × WriteRetries :=
  let (fired, s1) := s.fireArmed (grpDetector g detWriteLink)
  (s1, if fired then (0, max 1 (retriesOf l 0)) :: l else l)

def State.store (s : State) (g : Nat) (ecc : Ecc) (retries : WriteRetries) : State :=
  s.onAction g 0x05 fun r a s =>
    let m := s.img r.run.image
    let (ad, row, n, v) := (a.field 0 34, a.field 34 13, a.field 47 16, a.at_)
    let spill := m.spillAt ad
    let units := if spill.isSome then spillUnits * ceilDiv n 64 else n
    let busy := if spill.isSome then [(v + 1, v + 1 + 5 * n)] else []
    if decide (m.nearExtent < ad + units) || startsBusy r.coder busy then s.failIssue g stSeqFault false
    else if n = 0 then s
    else
      let (s1, retries) := s.storeRetries g retries
      let s2 := s1.modRun g fun r => { r with
        coder := r.coder ++ busy, nextOp := r.nextOp + 1
        stores := r.stores ++ [{ op := r.nextOp, addr := ad, count := n, spill, retries }] }
      s2.readPaced g reqStore (firstOfMask a.clmask) row n v ecc (.store r.nextOp)

def execStore (t g : Nat) (ecc : Ecc) (writeRetries : WriteRetries) (s : State) : Host.Outcome State Fault Refusal :=
  .next ((s.advance t).store g ecc writeRetries)

/-- An entry of the store buffer frees, and a hold that waits for one falls (R231). -/
def State.storeBufferDrain (s : State) (g : Nat) : State :=
  if (s.grp g).storeBuf = 0 then s
  else (s.modGrp g fun G => { G with storeBuf := G.storeBuf - 1 }).dropHold g .storeBuffer (s.clk g)

def execStoreBufferDrain (t g : Nat) (s : State) : Host.Outcome State Fault Refusal := .next ((s.advance t).storeBufferDrain g)

def State.output (s : State) (g : Nat) (ecc : Ecc) : State :=
  s.onAction g 0x0A fun _ a s =>
    s.readPaced g reqOutput (firstOfMask a.clmask) (a.field 6 13) (a.field 19 16) a.at_ ecc fun _ => .output (a.field 0 6)

def execOutput (t g : Nat) (ecc : Ecc) (s : State) : Host.Outcome State Fault Refusal := .next ((s.advance t).output g ecc)

/-! ### XFER -/

/-- Row `i` is read, and written in every cluster of the mask, at t + i (Table 3-4). -/
def State.xfer (s : State) (g : Nat) (ecc : Ecc) : State :=
  s.onAction g 0x06 fun _ a s =>
    let (src, from_, to_, n, v) := (a.field 0 5, a.field 5 13, a.field 18 13, a.field 31 16, a.at_)
    let p := (s.grp g).phys src
    (s.armAccess g v { phys := p, row := from_ } true).addDues g
      ((List.range n).map fun i =>
        readDue ecc v reqXfer (v + i) src p ((from_ + i) % 8192) (.rows a.clmask ((to_ + i) % 8192)))

def execXfer (t g : Nat) (ecc : Ecc) (s : State) : Host.Outcome State Fault Refusal := .next ((s.advance t).xfer g ecc)

/-! ### STATE_IN and STATE_OUT (R175, R180 to R182) -/

/-- A STATE_IN or STATE_OUT meets a slot with a swap on it (R68): HOLD from this cycle on, and the entry issues when it
falls. -/
def State.swapBlocked (s : State) (g : Nat) (a : Action) (r : RunInfo) : Option Nat :=
  match (s.str (r.run.chunks.getD (a.field 0 6) (0, 0)).1).slot with
  | some l => if (s.grp g).swapOn l then some l else none
  | none => none

/-- The rows of a record start to move: row n of the slot's copy `k`, or of the working rows, is read in cycle 2 × (n div Zi)
and written in the next; the last two cycles compose the header. -/
def State.moveRecord (s : State) (g : Nat) (r : RunInfo) (a : Action) (out : Bool) (ecc : Ecc) : State :=
  let m := s.img r.run.image
  let p := a.field 0 6
  let q := r.run.chunks.getD p (0, 0)
  match (s.str q.1).slot, s.chunkOf q.1 q.2 with
  | some l, some _ =>
    let held := b2n (s.slotAt g l).committed
    let k := if out then 1 - held else held
    let place (n : Nat) : Nat × Nat := if out then workPlace m (a.field 6 13) p n else s.slotRow l k n
    let v := a.at_
    let reads := (List.range m.recordRows).map fun n =>
      let w := place n
      readDue ecc v reqState (v + 2 * (n / m.clusters)) w.1 ((s.grp g).phys w.1) w.2 (.record r.nextOp n)
    let s1 := s.modRun g fun r => { r with
      nextOp := r.nextOp + 1
      records := r.records ++
        [{ op := r.nextOp, out, position := p, stream := q.1, seq := q.2, slot := l, copy := k, first := a.field 6 13 }] }
    s1.addDues g (reads ++ [{ sched := v + 2 * ceilDiv m.recordRows m.clusters + 1, kind := .recordEnd r.nextOp }])
  | _, _ => s

/-- An action on a stream slot: held by a swap, or issued. -/
def State.onSlotAction (s : State) (g op : Nat) (out : Bool) (ecc : Ecc) : State :=
  match s.actionDue g op with
  | some (r, a) => match s.swapBlocked g a r with
    | some l => s.raiseHold g (.swap l) (s.clk g)
    | none => s.onAction g op fun r a s => s.moveRecord g r a out ecc
  | none => s

def State.stateIn (s : State) (g : Nat) (ecc : Ecc) : State := s.onSlotAction g 0x07 false ecc

def execStateIn (t g : Nat) (ecc : Ecc) (s : State) : Host.Outcome State Fault Refusal := .next ((s.advance t).stateIn g ecc)

def State.stateOut (s : State) (g : Nat) (ecc : Ecc) : State := s.onSlotAction g 0x08 true ecc

def execStateOut (t g : Nat) (ecc : Ecc) (s : State) : Host.Outcome State Fault Refusal := .next ((s.advance t).stateOut g ecc)

/-! ### END (R65, R154) -/

/-- A tile queue of the group holds an entry. -/
def State.tilesLeft (s : State) (g v : Nat) : Bool :=
  (s.grp g).remap.any fun p => decide (p < 26) && ((s.clu g p).headTile v).isSome

/-- What falls due in the group's present schedule cycle takes place, with fuel. -/
def State.finishCycle (g : Nat) : Nat → State → State
  | 0, s => s
  | f + 1, s =>
    let G := s.grp g
    let clk := s.clk g
    match G.cur with
    | some info =>
      match firstDue (info.due.filter fun d => decide (d.sched ≤ G.sched clk)) with
      | some d => State.finishCycle g f (s.takeTurn g clk (.due d))
      | none => s
    | none => s

/-- END issues: what its cycle brings takes place, and unless that fails the run, the run ends (R65). -/
def State.endAction (s : State) (g : Nat) : State :=
  s.onAction g 0x0C fun r a s =>
    let left := s.tilesLeft g a.at_
    let s0 := if left then s.failIssue g stSeqFault false else s
    let s1 := State.finishCycle g s0.turns s0
    match (s1.grp g).cur with
    | some i => if i.start = r.start then s1.endRun g a.clmask (a.field 0 13) else s1
    | none => s1

def execEndRun (t g : Nat) (s : State) : Host.Outcome State Fault Refusal := .next ((s.advance t).endAction g)

/-! ### Rows from memory (R231, R233, R234) -/

/-- Stored row `u` is still to come to the transfer. -/
def Transfer.lacks (x : Transfer) (u : Nat) : Bool :=
  decide (u < x.addrs.length) && !x.arrived.contains u && !x.rereads.contains u

/-- Stored row `u` of a transfer is in the delivery buffer: what it is due for follows in its own cycle. -/
def State.bufferRow (s : State) (g : Nat) (x : Transfer) (u : Nat) : State :=
  let s1 := s.modTransfer g x.op fun y => { y with arrived := y.arrived ++ [u], rereads := y.rereads.filter (· != u) }
  if x.spill.isSome then
    let n := u / spillUnits
    let all := (List.range spillUnits).all fun i => spillUnits * n + i == u || x.arrived.contains (spillUnits * n + i)
    if all then s1.addDue g { sched := x.unitDue u, kind := .spill x.op n } else s1
  else s1.addDue g { sched := x.dueAt u, kind := .row x.op u }

/-- HOLD for rows falls once none that is due is still to come (R231). -/
def State.dropRows (s : State) (g : Nat) : State :=
  let v := s.schedNow g
  match (s.grp g).cur with
  | some r =>
    if r.transfers.any fun x => x.lateAt v then s
    else (s.modRun g fun r => { r with transfers := r.transfers.map fun x => { x with late := false } }).dropHold g .row (s.clk g)
  | none => s

/-- A row that comes after its due cycle is late (Table 10-9). -/
def State.rowArrives (s : State) (g : Nat) (x : Transfer) (u : Nat) : State :=
  let late := x.late && decide (x.unitDue u ≤ s.schedNow g)
  let s1 := match s.rowPlace (x.addrs.getD u 0) with
    | some (c, _) => if late then s.count (chLateRows c) 1 else s
    | none => s
  (s1.bufferRow g x u).dropRows g

/-- Near channel detectors 31 to 33 of Table 16-6 as they change what a read meets. -/
def State.armedRead (s : State) (g : Nat) (v : RowVerdict) : State × RowVerdict :=
  let (f1, s1) := s.fireArmed (grpDetector g 31)
  let (f2, s2) := s1.fireArmed (grpDetector g 32)
  let (f3, s3) := s2.fireArmed (grpDetector g 33)
  (s3, if f2 || f3 then .uncorrectable else if f1 && v == .clean then .correctable else v)

/-- A row of the oldest transfer that still lacks it arrives (R233), where the delivery buffer has room for it or it is due
(R231). -/
def State.memoryRowArrival (s : State) (g u : Nat) (read : RowRead) : State :=
  match (s.grp g).cur with
  | none => s
  | some r =>
    match r.transfers.find? fun x => x.lacks u with
    | none => s
    | some x =>
      if !s.groupUp g || (decide (256 ≤ r.buffered) && decide (s.schedNow g < x.unitDue u)) then s
      else
        let place := s.rowPlace (x.addrs.getD u 0)
        let (s1, met) := s.armedRead g (rowVerdict read)
        if met == .uncorrectable || s1.isDamaged place then
          s1.modTransfer g x.op fun y => { y with rereads := y.rereads ++ [u] }
        else
          let s2 := match place, met with
            | some (c, o), .correctable => s1.memCorrected c o
            | _, _ => s1
          s2.rowArrives g x u

def execMemoryRowArrival (t g i : Nat) (read : RowRead) (s : State) : Host.Outcome State Fault Refusal :=
  .next ((s.advance t).memoryRowArrival g i read)

/-- A row of a transfer is due in this cycle and has not arrived: HOLD (R68, R231). -/
def State.rowDue (s : State) (g : Nat) : State :=
  let G := s.grp g
  let clk := s.clk g
  match G.cur with
  | none => s
  | some r =>
    let fresh := match G.hold with
      | some h => decide (clk ≤ h.since)
      | none => true
    if s.groupUp g && fresh && r.transfers.any fun x => !x.late && x.lateAt (G.sched clk) then s.holdRows g clk else s

def execRowDue (t g : Nat) (s : State) : Host.Outcome State Fault Refusal := .next ((s.advance t).rowDue g)

end Sys2Proof.Machine
end

