-- ==== Sys2Proof/Machine/Expander.lean ====
section
/-! DEFINITION. The expander: EXPAND, the decode of its blocks with their tiles and factor banks, late blocks and rereads
(R205 to R208, R214 to R218, R233, R234). -/

namespace Sys2Proof.Machine

/-! ### Tensors (Tables 9-3, 9-5) -/

/-- Decode allowance of block `j` (R205). -/
def Tensor.allowance (t : Tensor) (j : Nat) : Nat := ceilDiv (t.countOf j) 32

/-- Symbols of a tile, and its side bytes. -/
def Tensor.tileSyms (t : Tensor) : Nat := if t.sparse then 512 else if t.format = 5 then 2048 else 1024
def Tensor.sideBytes (t : Tensor) : Nat :=
  if t.format = 5 then 0 else 64 + (if t.format = 2 then 32 else 0) + (if t.sparse then 256 else 0)

/-- A tensor has side blocks. -/
def Tensor.hasSide (t : Tensor) : Bool := t.cls == 2 || ((t.cls == 0 || t.cls == 1) && t.format != 5)

/-- Side bytes of data block `j`, and SIDE_STRIDE (R210). -/
def Tensor.sideCount (t : Tensor) (j : Nat) : Nat :=
  if t.cls = 2 then (if j % t.factorBlocks = 0 then 64 else 1) else t.countOf j / t.tileSyms * t.sideBytes
def Tensor.sideStride (t : Tensor) : Nat :=
  16 + ceilDiv (if t.cls = 2 then 64 else 4096 / t.tileSyms * t.sideBytes) 16 * 16

/-- Bits 63:0 of the tweak with TWEAK_HI above them (Table 9-4). -/
def Tensor.tweak (t : Tensor) (index j : Nat) (side : Bool) : Nat :=
  2 ^ 64 * t.tweakHi + 2 ^ 63 * b2n side + 2 ^ 32 * index + j

/-- The key of a descriptor: a slot that holds no model key counts as empty (R387), and its key as zero bytes. -/
def State.tensorKey (s : State) (t : Tensor) : Option (List Byte) :=
  if t.enc then
    match s.keyAt t.keySlot with
    | some k => some (if k.kind = 0 then k.key else List.replicate 64 0)
    | none => some (List.replicate 64 0)
  else none

/-- What the reader of data block `j` expects of it, and of its side block. -/
def State.dataExpect (s : State) (m : Image) (g ti : Nat) (t : Tensor) (j : Nat) : BlockExpect :=
  { symBits := formatBits t.format, side := false, count := t.countOf j, tag := (t.tagBase + j) % 65536
    mustEsc := t.cls == 0, table := s.tableOf m g t.tableOff, key := (s.tensorKey t).map fun k => (k, t.tweak ti j false) }
def State.sideExpect (s : State) (ti : Nat) (t : Tensor) (j tag : Nat) : BlockExpect :=
  { symBits := 8, side := true, count := t.sideCount j, tag, mustEsc := true, table := { symBits := 8, num := [], sym := [] }
    key := (s.tensorKey t).map fun k => (k, t.tweak ti j true) }

/-- Byte offsets of data block `j` and of its side block from the image's start (R209, R210). -/
def State.blockByte (s : State) (m : Image) (g : Nat) (t : Tensor) (j : Nat) : Nat :=
  64 * t.dataOff + field (s.imageSlice m g (64 * t.indexOff + 4 * j) 4) 0 4
def Tensor.sideByte (t : Tensor) (j : Nat) : Nat := 64 * t.sideOff + j * t.sideStride

/-- The length of the stored form at byte offset `o`, as its header gives it, and the stored form (R200). -/
def State.storedLen (s : State) (m : Image) (g o : Nat) : Nat := 16 + bodyLen (parseHdr (s.imageSlice m g o 16)).words
def State.storedForm (s : State) (m : Image) (g o : Nat) : List Byte := s.imageSlice m g o (s.storedLen m g o)

/-- The rows of the image in which a stored form lies, and those of data block `j`, then of its side block. -/
def State.formRows (s : State) (m : Image) (g o : Nat) : List Nat :=
  let n := s.storedLen m g o
  (List.range ((o + n - 1) / 64 + 1 - o / 64)).map (o / 64 + ·)
def State.blockRows (s : State) (m : Image) (g : Nat) (t : Tensor) (j : Nat) : List Nat :=
  s.formRows m g (s.blockByte m g t j) ++ (if t.hasSide then s.formRows m g (t.sideByte j) else [])

/-- A data block read with its side block. -/
structure WeightBlock where
  data : Decoded
  side : Decoded
  /-- the first failure in the first decode cycle, 0 for none -/
  first : Nat

/-- The tag that a block's header carries. -/
def tagOf (l : List Byte) : Nat := (parseHdr l).tag

/-- The first of several failures by the rows of Table 9-7, 0 for none. -/
def firstFailure (l : List Nat) : Nat := ((l.filter (· != 0)).foldl (fun a x => if a = 0 then x else min a x) 0)

/-- Data block `j` of tensor `ti` and its side block are read and checked (R207, R211, R218, R219). -/
def State.weightBlock (s : State) (m : Image) (g ti : Nat) (t : Tensor) (j : Nat) : WeightBlock :=
  let dl := s.storedForm m g (s.blockByte m g t j)
  let data := decodeBlock (s.dataExpect m g ti t j) stBlockInvalid dl
  let side := if t.hasSide then
      decodeBlock (s.sideExpect ti t j (tagOf dl)) stScaleSkew (s.storedForm m g (t.sideByte j))
    else {}
  { data, side, first := firstFailure [data.first, side.first] }

/-- A failure in the last allowance cycle, 0 for none. -/
def WeightBlock.last (b : WeightBlock) : Nat := firstFailure [b.data.last, b.side.last]

/-- Tile `q` of a block, whose last symbol comes at `fullAt` (R112, R208). -/
def WeightBlock.tile (b : WeightBlock) (t : Tensor) (q fullAt : Nat) : WPos :=
  let n := t.tileSyms
  let syms := (List.range n).map fun i => b.data.syms.getD (n * q + i) 0
  let side := ((List.range t.sideBytes).map fun i => BitVec.ofNat 8 (b.side.syms.getD (t.sideBytes * q + i) 0))
  let gAt := if t.format = 2 then 96 else 64
  { full := true, fullAt
    codes := if t.format = 5 then (List.range 1024).map fun i => syms.getD (2 * i) 0 + 256 * syms.getD (2 * i + 1) 0 else syms
    rs := if t.format = 5 then List.replicate 32 0 else (List.range 32).map fun j => sext 16 (field side (2 * j) 2)
    g := if t.format = 2 then (slice side 64 32).map (·.toNat) else []
    index := if t.sparse then (slice side gAt 256).map (·.toNat) else [] }

/-- FMUL of a U factor block's side block. -/
def WeightBlock.fmul (b : WeightBlock) : List Int :=
  (List.range 32).map fun j => sext 16 (b.side.syms.getD (2 * j) 0 + 256 * b.side.syms.getD (2 * j + 1) 0)

/-! ### EXPAND -/

/-- The target matches the class and the blocks are there (R216). -/
def Tensor.expandOk (t : Tensor) (first count target : Nat) : Bool :=
  decide (0 < count) && decide (first + count ≤ t.blocks) &&
    (if target = 0 then t.cls == 0 || t.cls == 1
     else t.classL && decide (first % t.factorBlocks = 0) && count == t.factorBlocks)

/-- EXPAND: its blocks follow one another from the 16th cycle on. One that reads rows outside both extents, or that meets a
busy decoder, fails the run; under target 1 the bank is judged as its delivery starts (R129, R214, R216, R228). -/
def State.expand (s : State) (g : Nat) : State :=
  s.onAction g 0x03 fun r a s =>
    let m := s.img r.run.image
    let (ti, first, n, target, v) := (a.field 0 16, a.field 16 20, a.field 36 16, a.field 52 1, a.at_)
    match m.tensors[ti]? with
    | none => s.failIssue g stSeqFault false
    | some t =>
      let len := sumOf ((List.range n).map fun i => t.allowance (first + i))
      let busy := [(v + 16, v + 16 + len)]
      let mapped := (List.range n).all fun i => (s.blockRows m g t (first + i)).all fun u => (s.imageAddr m g u).isSome
      if !t.expandOk first n target || startsBusy r.decoder busy || !mapped then s.failIssue g stSeqFault false
      else
        let s1 := s.modRun g fun r => { r with
          decoder := r.decoder ++ busy
          expands := r.expands ++ [{ tensor := ti, first, count := n, factor := target == 1, clmask := a.clmask, next := 0, starts := v + 16 }] }
        if target = 1 then s1.addDue g { sched := v + 16, kind := .factorStart a.clmask } else s1

def execExpand (t g : Nat) (s : State) : Host.Outcome State Fault Refusal := .next ((s.advance t).expand g)

/-! ### BLOCK_DECODE -/

/-- The expand `x` of group `g`'s run is replaced. -/
def State.putExpand (s : State) (g : Nat) (x : Expand) (y : List Expand) : State :=
  s.modRun g fun r => { r with expands := r.expands.flatMap fun z => if z == x then y else [z] }

/-- Indices of Table 16-6 of the expander's detectors, in the order of Table 9-7. -/
def detBlock (k : Nat) : Nat := 24 + k

/-- Armed detectors of the expander act on a block: those that fail it in its first decode cycle, and in its last
allowance cycle. -/
def State.armBlock (s : State) (g ti j starts ends : Nat) : State :=
  (List.range 5).foldl (fun s k =>
    let (fired, s1) := s.fireArmed (grpDetector g (detBlock k))
    if fired then
      s1.addDue g { sched := if k = 2 ∨ k = 3 then ends else starts, kind := .block (0x0050 + k) ti j, injected := true }
    else s1) s

/-- The tiles of a decoded block, each due in the first cycle of its delivery (R214). DESIGN CHOICE: in which cycle of a
tile's delivery the position that it is directed at is judged (Table 5-11) the spec does not say; it is the first
(notes/assumptions/53.md). -/
def State.deliverTiles (s : State) (g : Nat) (x : Expand) (t : Tensor) (j : Nat) (b : WeightBlock) : State :=
  let per := t.tileSyms / 32
  (List.range (t.countOf j / t.tileSyms)).foldl (fun s q =>
    let fullAt := x.starts + per * (q + 1) - 1
    s.addDue g { sched := x.starts + per * q, kind := .tile x.clmask (b.tile t q fullAt) }) s

/-- The next block of an EXPAND is decoded in this cycle. -/
def State.decodeNext (s : State) (g : Nat) (r : RunInfo) (x : Expand) (t : Tensor) : State :=
  let m := s.img r.run.image
  let j := x.first + x.next
  let b := s.weightBlock m g x.tensor t j
  let ends := x.starts + t.allowance j - 1
  let s1 := (s.armBlock g x.tensor j x.starts ends)
  if b.first ≠ 0 then s1.addDue g { sched := x.starts, kind := .block b.first x.tensor j }
  else
    let s2 := (s1.count (expBlocks g) 1).count (expEscapes g) (b2n b.data.esc)
    let s3 := if b.last = 0 then s2 else s2.addDue g { sched := ends, kind := .block b.last x.tensor j }
    let codes := x.codes ++ (List.range (t.countOf j)).map fun i => b.data.syms.getD i 0
    let fmul := if x.next = 0 && t.cls == 2 then b.fmul else x.fmul
    let past := decide (x.count ≤ x.next + 1)
    let y : Expand := { x with next := x.next + 1, starts := ends + 1, codes, fmul }
    let s4 := s3.putExpand g x (if past then [] else [if x.factor then y else { y with codes := [] }])
    if x.factor then
      if past then s4.addDue g { sched := ends, kind := .factor x.clmask codes fmul } else s4
    else s4.deliverTiles g x t j b

/-- The expander waits for the next block of `x` from this cycle on: for its stored form where `waiting`, and for rereads of the
rows at the addresses `again` (R215, R233). -/
def State.holdExpander (s : State) (g : Nat) (x : Expand) (waiting : Bool) (again : List Nat) : State :=
  let s1 := s.putExpand g x [{ x with late := some (s.clk g), waiting, rereads := again }]
  if (s1.grp g).heldBySrc .expander then s1 else s1.raiseHold g .expander (s1.clk g)

/-- What a read of a block met at the memory address `a`, once it was repeated where it had to be: the state with it counted,
whether it still waits for the repetition, and whether it is a stored error (R233 to R235). -/
def State.meetBlockRow (s : State) (a : Nat) (v : RowVerdict) (again : Option RowRead) : State × Bool × Bool :=
  match s.rowPlace a, v with
  | none, _ | _, .clean => (s, false, false)
  | some (c, o), .correctable => (s.memCorrected c o, false, false)
  | some (c, o), .uncorrectable =>
    match again with
    | none => (s, true, false)
    | some w =>
      if s.isDamaged (some (c, o)) || rowVerdict w == .uncorrectable then (s.storedError c o, false, true)
      else
        let s1 := s.count (chLinkRetries c) 1
        (if rowVerdict w == .correctable then s1.memCorrected c o else s1, false, false)

/-- The reads of a block's rows: the state, the addresses whose repetition is still to come, and whether one is a stored error.
Armed detectors of the channel meet the first of them. -/
def State.meetBlock (s : State) (g : Nat) (rows : List Nat) (reads : List (Nat × RowRead × Option RowRead)) :
    State × List Nat × Bool :=
  (List.range rows.length).foldl (fun (acc : State × List Nat × Bool) i =>
    let a := rows.getD i 0
    let read := reads.find? fun x => x.1 == i
    let given : RowVerdict := match read with
      | some x => rowVerdict x.2.1
      | none => .clean
    let (s0, v) := if i = 0 then acc.1.armedRead g given else (acc.1, given)
    let met : RowVerdict := if s0.isDamaged (s0.rowPlace a) then .uncorrectable else v
    let (s1, wait, bad) := s0.meetBlockRow a met (read.bind fun x => x.2.2)
    (s1, if wait then acc.2.1 ++ [a] else acc.2.1, acc.2.2 || bad)) (s, [], false)

/-- BLOCK_DECODE: the next block whose decode starts in this cycle. Its reads, made ahead of it (R215), are counted here; one
that is a stored error fails the run in this cycle (R234). -/
def State.blockDecode (s : State) (g : Nat) (late : Bool) (reads : List (Nat × RowRead × Option RowRead)) : State :=
  match (s.grp g).cur with
  | none => s
  | some r =>
    match r.expands.find? fun x => x.starts == s.schedNow g && x.late.isNone with
    | none => s
    | some x =>
      let m := s.img r.run.image
      match m.tensors[x.tensor]? with
      | none => s
      | some t =>
        if !(s.groupUp g && (late || s.canIssue g)) then s
        else
          let rows := (s.blockRows m g t (x.first + x.next)).map fun u => (s.imageAddr m g u).getD 0
          let (s1, again, bad) := s.meetBlock g rows reads
          if bad then s1.addDue g { sched := x.starts, kind := .fail stMemError }
          else if late || !again.isEmpty then s1.holdExpander g x late again
          else s1.decodeNext g r x t

def execBlockDecode (t g : Nat) (late : Bool) (reads : List (Nat × RowRead × Option RowRead)) (s : State) :
    Host.Outcome State Fault Refusal := .next ((s.advance t).blockDecode g late reads)

/-- The expand `x`, for which HOLD stands, becomes `y`. Once a block is complete and no reread is outstanding HOLD falls, and
its decode starts in this cycle, with the BLOCK_DECODE that follows (R215). -/
def State.expanderGoesOn (s : State) (g : Nat) (x y : Expand) : State :=
  let done := !y.waiting && y.rereads.isEmpty
  let s1 := s.putExpand g x [if done then { y with late := none } else y]
  match done, x.late with
  | true, some since => (s1.count (expHold g) (s.clk g - since).toNat).dropHold g .expander (s.clk g)
  | _, _ => s1

def State.expanderBlockArrival (s : State) (g : Nat) : State :=
  match (s.grp g).cur with
  | none => s
  | some r =>
    match r.expands.find? fun x => x.late.isSome && x.waiting with
    | some x => if s.groupUp g then s.expanderGoesOn g x { x with waiting := false } else s
    | none => s

def execExpanderBlockArrival (t g : Nat) (s : State) : Host.Outcome State Fault Refusal :=
  .next ((s.advance t).expanderBlockArrival g)

/-! ### Rereads (R233, R234) -/

/-- The run in progress, or the one that has failed in this very cycle, of which coinciding failures are still seen (R219). -/
def State.runSeen (s : State) (g : Nat) : Option RunInfo :=
  match (s.grp g).cur, (s.grp g).quiesce with
  | some r, _ => some r
  | none, some q => if q.failedAt = s.clk g then some q.info else none
  | none, none => none

/-- The row at memory address `a` has been reread: a link error, with a correction where the reread needed one, or a stored
error (R233). -/
def State.reread (s : State) (a : Nat) (read : RowRead) : State × Bool :=
  match s.rowPlace a with
  | none => (s, false)
  | some (c, o) =>
    if s.isDamaged (some (c, o)) || rowVerdict read == .uncorrectable then (s.storedError c o, true)
    else
      let s1 := s.count (chLinkRetries c) 1
      (if rowVerdict read == .correctable then s1.memCorrected c o else s1, false)

/-- A stored error in stored row `u` of a transfer fails the run in the row's due cycle, or in this one if that is later
(R234); the row is no longer waited for. -/
def State.rowFails (s : State) (g : Nat) (x : Transfer) (u : Nat) : State :=
  let v := s.schedNow g
  if (s.grp g).isHeld (s.clk g) ∧ x.unitDue u ≤ v then s.failRun g stMemError (s.clk g) false
  else
    (s.modTransfer g x.op fun y => { y with arrived := y.arrived ++ [u], rereads := y.rereads.filter (· != u) }).addDue g
      { sched := max (x.unitDue u) v, kind := .fail stMemError }

/-- The oldest reread of group `g` arrives: of its transfers' rows, else of the expander's. -/
def State.rereadArrival (s : State) (g : Nat) (read : RowRead) : State :=
  match s.runSeen g with
  | none => s
  | some r =>
    if !s.groupUp g then s
    else
      match r.transfers.find? fun x => !x.rereads.isEmpty with
      | some x =>
        let u := x.rereads.headD 0
        let (s1, bad) := s.reread (x.addrs.getD u 0) read
        if (s1.grp g).cur.isNone then if bad then s1.failRun g stMemError (s1.clk g) false else s1
        else if bad then s1.rowFails g x u else s1.rowArrives g x u
      | none =>
        match r.expands.find? fun x => !x.rereads.isEmpty with
        | some x =>
          let (s1, bad) := s.reread (x.rereads.headD 0) read
          if bad then s1.failRun g stMemError (s1.clk g) false
          else s1.expanderGoesOn g x { x with rereads := x.rereads.drop 1 }
        | none => s

def execRereadArrival (t g : Nat) (read : RowRead) (s : State) : Host.Outcome State Fault Refusal :=
  .next ((s.advance t).rereadArrival g read)

end Sys2Proof.Machine
end

