-- ==== Sys2Proof/Machine/Words.lean ====
section
/-! DEFINITION. How a cluster issues its microinstructions (R66, R67, R109), the control words (Table 5-4), and the words
that write stream registers (R133, R135, R136). -/

namespace Sys2Proof.Machine

/-- The word that a cluster issues next; a word that no segment has written reads as in notes/assumptions/17.md. -/
def Cluster.wordAt (c : Cluster) : MWord :=
  let k := 1024 * c.half + c.word % 1024
  match tget none c.store k with
  | some w => w
  | none => match c.seed with
    | some n => BitVec.ofNat 64 (freeOf n (60000 + k))
    | none => 0

/-- Fields of a word. -/
def wordField (w : MWord) (lo n : Nat) : Nat := bits w.toNat lo n
def wordBit (w : MWord) (i : Nat) : Bool := bit w.toNat i

/-- Where execution goes after word `next - 1`: passes of the innermost loops that end there, with fuel for the four
levels (Table 5-4). -/
def loopNext : Nat → List LoopFrame → Nat → List LoopFrame × Nat
  | 0, fs, next => (fs, next)
  | _, [], next => ([], next)
  | f + 1, x :: r, next =>
    if next ≠ x.last then (x :: r, next)
    else if 1 < x.left then ({ x with left := x.left - 1 } :: r, x.first)
    else loopNext f r next

/-- The cluster has issued word `w` at schedule value `v`; `fs` are the loops then open (R67, R109). -/
def Cluster.passWord (c : Cluster) (w : MWord) (v : Nat) (fs : List LoopFrame) : Cluster :=
  let (loops, word) := loopNext 5 fs (c.word + 1)
  { c with
    sig := BitVec.ofNat 32 (crcMore c.sig.toNat (leBytes 8 w.toNat)), loops, word, nextIssue := v + 1 }

/-- The physical cluster and word, where logical cluster `c` of group `g` issues a word of this unit and operation in this
cycle. -/
def State.wordDue (s : State) (g c unit op : Nat) : Option (Nat × MWord) :=
  let G := s.grp g
  let p := G.phys c
  let cl := s.clu g p
  let w := cl.wordAt
  if s.canIssue g && decide (p < 26) && !cl.haltIssued && cl.nextIssue == s.schedNow g
      && wordField w 60 4 == unit && wordField w 56 4 == op then some (p, w)
  else none

/-- A word that is due issues, with its effect: of the schedule value, the physical cluster and the word. -/
def State.onWord (s : State) (g c unit op : Nat) (eff : Nat → Nat → MWord → State → State) : State :=
  match s.wordDue g c unit op with
  | some (p, w) =>
    let v := s.schedNow g
    eff v p w (s.modClu g p fun cl => cl.passWord w v cl.loops)
  | none => s

def unitControl : Nat := 0
def unitMatrix : Nat := 1
def unitVector : Nat := 2

/-! ### Control words -/

def State.controlNop (s : State) (g c : Nat) : State := s.onWord g c unitControl 0 fun _ _ _ s => s

def execControlNop (t g c : Nat) (s : State) : Host.Outcome State Fault Refusal := .next ((s.advance t).controlNop g c)

def State.waitWord (s : State) (g c : Nat) : State :=
  s.onWord g c unitControl 1 fun v p w s => s.modClu g p fun cl => { cl with nextIssue := v + wordField w 0 32 + 1 }

def execWait (t g c : Nat) (s : State) : Host.Outcome State Fault Refusal := .next ((s.advance t).waitWord g c)

/-- The loop that a LOOP word at `word` opens. -/
def loopOf (w : MWord) (word : Nat) : LoopFrame :=
  { first := word + 1, last := word + 1 + wordField w 0 10, left := wordField w 10 16 }

def State.loopWord (s : State) (g c : Nat) : State :=
  match s.wordDue g c unitControl 2 with
  | some (p, w) => s.modClu g p fun cl => cl.passWord w (s.schedNow g) (loopOf w cl.word :: cl.loops)
  | none => s

def execLoop (t g c : Nat) (s : State) : Host.Outcome State Fault Refusal := .next ((s.advance t).loopWord g c)

def State.haltWord (s : State) (g c : Nat) : State :=
  s.onWord g c unitControl 3 fun _ p _ s => s.modClu g p fun cl => { cl with haltIssued := true }

def execHalt (t g c : Nat) (s : State) : Host.Outcome State Fault Refusal := .next ((s.advance t).haltWord g c)

/-! ### SETA and SETB -/

/-- Detector 21 of Table 16-6. -/
def detVector : Nat := 21

/-- A SETA or SETB with a non-zero reserved field, or a SETB with a reserved FMT, fails the run (R149). DEDUCED: the cases of
Table 6-6 that concern what a register holds are judged of the words that name it for an operation, since SETA and SETB
are what fills it (notes/assumptions/26.md). -/
def setBad (w : MWord) (second : Bool) : Bool :=
  if second then wordField w 0 20 != 0 || decide (10 < wordField w 27 4) else wordField w 0 12 != 0

def State.setaWord (s : State) (g c : Nat) : State :=
  s.onWord g c unitVector 1 fun v p w s => (s.engineFault g p detVector v (setBad w false)).modClu g p fun cl =>
    { cl with sregs := tmod {} cl.sregs (wordField w 51 5) fun r =>
        { r with base := wordField w 38 13, run := wordField w 25 13, stride := wordField w 12 13 } }

def execSeta (t g c : Nat) (s : State) : Host.Outcome State Fault Refusal := .next ((s.advance t).setaWord g c)

def State.setbWord (s : State) (g c : Nat) : State :=
  s.onWord g c unitVector 2 fun v p w s => (s.engineFault g p detVector v (setBad w true)).modClu g p fun cl =>
    { cl with sregs := tmod {} cl.sregs (wordField w 51 5) fun r =>
        { r with
          length := wordField w 31 20, fmt := wordField w 27 4, mreg := wordField w 22 5, men := wordBit w 21, minv := wordBit w 20 } }

def execSetb (t g c : Nat) (s : State) : Host.Outcome State Fault Refusal := .next ((s.advance t).setbWord g c)

end Sys2Proof.Machine
end

