-- ==== Sys2Proof/Machine/MatrixWords.lean ====
section
/-! DEFINITION. Matrix words and what they bring about: MMA, MEPI, MFAC (R110, R111, R120, R121), the epilogue's end with
its verdict and push (R126 to R129, R153), and the end of a factor formation (R121 to R123, R127). -/

namespace Sys2Proof.Machine

/-! ### MMA -/

/-- An MMA word's fields (Table 5-5), its first K-step in the cycle after `v`. -/
def mmaOf (w : MWord) (v : Nat) (ecc : Ecc) : MmaOp :=
  { mode := wordField w 52 4, acc := wordField w 43 1, sp24 := wordBit w 42, rel := wordBit w 41, epi := wordBit w 40
    xu := wordBit w 9, wu := wordBit w 8, wpos := wordField w 36 4, xrow := wordField w 23 13, srow := wordField w 10 13
    steps := wordField w 45 7 + 1, next := 0, starts := v + 1, ecc, issued := v }

/-- The array has a K-step that ends after `v`. -/
def Cluster.arrayRuns (c : Cluster) (v : Nat) : Bool := c.mma.isSome || decide (v < c.arrayBusy)

/-- A chain as it opens (R117, R124, R125). -/
def openChain (m : MmaOp) : Acc :=
  { opened := true, mode := m.mode, xu := m.xu, wu := m.wu, p := List.replicate 1024 0, a := List.replicate 1024 0
    cs := List.replicate 32 0, rs := List.replicate 32 0 }

/-- The faults of Table 5-11 of an MMA as it issues. -/
def Cluster.mmaBad (c : Cluster) (m : MmaOp) (cont : Bool) (v : Nat) : Bool :=
  let a := tget {} c.acc m.acc
  c.arrayRuns v
    || (if cont then !a.opened || a.mode != m.mode || a.xu != m.xu || a.wu != m.wu
        else a.opened || a.epiRuns v || a.epiAhead)

def State.mmaWord (s : State) (g c : Nat) (ecc : Ecc) : State :=
  s.onWord g c unitMatrix 1 fun v p w s =>
    let m := mmaOf w v ecc
    let cont := wordBit w 44
    let s1 := s.engineFault g p detMatrix v ((s.clu g p).mmaBad m cont v)
    let s2 := s1.modClu g p fun cl =>
      { cl with acc := if cont then cl.acc else tput {} cl.acc m.acc (openChain m), mma := some m }
    (s2.armAccess g m.starts { phys := p, row := m.xrow } true).addDue g { sched := m.starts, kind := .kstep, phys := p }

def execMma (t g c : Nat) (ecc : Ecc) (s : State) : Host.Outcome State Fault Refusal := .next ((s.advance t).mmaWord g c ecc)

/-! ### MEPI -/

/-- MEPI: its five rows are read one a cycle from this one on, and fill the parameter set with the last (R111). DESIGN CHOICE: a
row past 8,191, to which PROW with its offset may come, is taken modulo 8,192 (notes/assumptions/53.md). -/
def State.mepiWord (s : State) (g c : Nat) (ecc : Ecc) : State :=
  s.onWord g c unitMatrix 2 fun v p w s =>
    let a := wordField w 55 1
    let row := wordField w 40 13
    let s1 := s.engineFault g p detMatrix v ((tget {} (s.clu g p).acc a).epiRuns v)
    let s2 := (s1.armAccess g v { phys := p, row } true).modClu g p fun cl =>
      { cl with
        params := tmod {} cl.params a fun q =>
          { q with loaded := true, readyAt := v + 4, out := wordBit w 54, bias := wordBit w 53, tileId := wordField w 32 8 }
        loads := cl.loads ++ [{ word := w, issued := v }] }
    s2.addDues g ((List.range 5).map fun i => readDue ecc v reqMatrix (v + i) c p ((row + i) % 8192) (.param v))

def execMepi (t g c : Nat) (ecc : Ecc) (s : State) : Host.Outcome State Fault Refusal := .next ((s.advance t).mepiWord g c ecc)

/-! ### Verdicts (R126, R127) -/

def mtxChains (g : Nat) : Nat := grpMtx g
def mtxPartial (g : Nat) : Nat := grpMtx g + 0x08
def mtxNonfinite (g : Nat) : Nat := grpMtx g + 0x24
def mtxSaturated (g : Nat) : Nat := grpMtx g + 0x28
def mtxLastFail (g : Nat) : Nat := grpMtx g + 0x2C
def mtxFactorTiles (g : Nat) : Nat := grpMtx g + 0x30

/-- The device pass that a verdict calls for (Table 15-4). -/
def verdictPass (verdict mode : Nat) : Nat :=
  if verdict = 7 then 4 else if mode = modeI8 ∨ mode = modeI8W4 then 1 else if mode = modeI4 ∨ mode = modeI8B4 then 2 else 3

/-- A checker fails the run in this cycle, or coincides with the failure that this cycle has brought already (R219). -/
def State.failNow (s : State) (g v status : Nat) (injected : Bool) : State :=
  if (s.grp g).cur.isSome then s.addDue g { sched := v, kind := .fail status, injected }
  else s.failRun g status (s.clk g) injected

/-- A verdict of 2 to 7 of physical cluster `p`: counted, recorded, and the run fails (R127, R131, R337). -/
def State.badVerdict (s : State) (g p verdict mode v : Nat) (injected : Bool) : State :=
  let s1 := (s.count (grpMtx g + 0x0C + 4 * (verdict - 2)) 1).setCtr (mtxLastFail g) (p + 32 * verdict)
  let s2 := s1.logAs injected 0x0110 g p stCheckFail (leBytes 1 verdict ++ leBytes 1 mode ++ leBytes 4 v)
  (s2.implicate g p [.pass (verdictPass verdict mode)] injected).failNow g v stCheckFail injected

/-- The schedule value of this cycle, where the run goes on in it, or has failed in this very cycle, so that what falls in it is
still seen (R219). -/
def State.thisCycle (s : State) (g : Nat) : Option Nat :=
  let G := s.grp g
  if s.canIssue g then some (s.schedNow g)
  else match G.cur, G.quiesce with
    | none, some q => if s.groupUp g ∧ q.failedAt = s.clk g then some G.schedVal else none
    | _, _ => none

/-- Armed checkers of the matrix engine: the verdict that the first of them to act gives, 0 for none. Detectors 0 to 4
and 6 of Table 16-6 stand behind verdicts 2 to 6. -/
def State.armedVerdict (s : State) (g mode : Nat) (out : Bool) : State × Nat :=
  let intLike := !isFloatMode mode
  let cand : List (Nat × Nat × Bool) :=
    [(0, 2, intLike), (1, 3, intLike), (2, 4, intLike), (3, 5, !isIntMode mode), (4, 6, out)]
  cand.foldl (fun (acc : State × Nat) x =>
    if x.2.2 then
      let (fired, s1) := acc.1.fireArmed (grpDetector g x.1)
      (s1, if fired && acc.2 == 0 then x.2.1 else acc.2)
    else acc) (s, 0)

/-- Entries in the tile queue at `v`. -/
def Cluster.queued (c : Cluster) (v : Nat) : List Tile :=
  c.queue.filter fun q => match q.freed with
    | some f => decide (v < f)
    | none => true

/-! ### EPILOGUE_END -/

def vecQueueMax (g : Nat) : Nat := grpVec g + 0x18

/-- The tile is pushed, or the queue is full (R128, R153). -/
def State.pushTile (s : State) (g p a v : Nat) (q : ParamSet) (r : Result) : State :=
  let cl := s.clu g p
  let kept := cl.queued v
  let full := decide (8 ≤ kept.length)
  let s1 := s.engineFault g p detQueueFull v full
  if full then s1
  else
    let tile : Tile :=
      { vals := r.vals, fp := q.out, verdict := r.verdict, nonfinite := r.nonfinite, saturated := r.saturated
        tileId := q.tileId, acc := a, pushed := v, freed := none }
    let s2 := s1.setClu g p { cl with queue := kept ++ [tile] }
    ((s2.countMax (vecQueueMax g) (kept.length + 1)).count (mtxPartial g) (b2n (r.verdict = 1))).count (mtxNonfinite g)
      (b2n r.nonfinite) |>.count (mtxSaturated g) (b2n r.saturated)

/-- The epilogue of accumulator `a` of logical cluster `c` ends in this cycle. DESIGN CHOICE: whether CHAINS counts a chain whose
tile fails its check, and when, the spec does not say; it counts every chain at its epilogue's end (notes/assumptions/53.md). -/
def State.epilogueEnd (s : State) (g c a upset : Nat) : State :=
  let p := (s.grp g).phys c
  let x := tget {} (s.clu g p).acc a
  match s.thisCycle g, x.epi with
  | some v, some (_, e) =>
    if e ≠ v ∨ x.epiOver ∨ 26 ≤ p then s
    else
      let q := tget {} (s.clu g p).params a
      let r := x.epilogue q upset
      let (s1, armed) := s.armedVerdict g x.mode q.out
      let s2 := (s1.modClu g p fun cl => { cl with acc := tput {} cl.acc a { x with epiOver := true } }).count (mtxChains g) 1
      (if 2 ≤ r.verdict then s2.badVerdict g p r.verdict x.mode v false
       else if armed ≠ 0 then s2.badVerdict g p armed x.mode v true
       else s2.pushTile g p a v q r)
  | _, _ => s

def execEpilogueEnd (t g c acc upset : Nat) (s : State) : Host.Outcome State Fault Refusal :=
  .next ((s.advance t).epilogueEnd g c acc upset)

/-! ### Factor formation -/

/-- Factor bank `i`. -/
def Cluster.bank (c : Cluster) (i : Nat) : FactorBank := tget {} c.banks i

/-- A factor bank has FULL set at `v`. -/
def FactorBank.isFull (b : FactorBank) (v : Nat) : Bool := b.full && decide (b.fullAt ≤ v)

/-- The formation of physical cluster `p` is over: its tile is written, or its check fails (R121, R127). DESIGN CHOICE: the mode
in event 0x0110 of a FAIL_FACTOR, which belongs to no chain, is 0 (notes/assumptions/53.md). -/
def State.formationEnd (s : State) (g p v : Nat) (upset : Bool) : State :=
  match (s.clu g p).formation with
  | none => s
  | some f =>
    let (a5, s1) := s.fireArmed (grpDetector g 5)
    let (a6, s2) := s1.fireArmed (grpDetector g 6)
    let s3 := s2.modClu g p fun cl =>
      let drop (rel : Bool) (i : Nat) (t : Table FactorBank) := if rel then tmod {} t i fun b => { b with full := false } else t
      { cl with formation := none, banks := drop f.vrel f.vbank (drop f.urel f.ubank cl.banks) }
    if !f.ok || upset then s3.badVerdict g p 7 modeI8 v false
    else if a5 || a6 then s3.badVerdict g p 7 modeI8 v true
    else
      (s3.directAt g p v f.dest { full := true, fullAt := v, formed := true, codes := f.codes, rs := f.rs }).count
        (mtxFactorTiles g) 1

def State.factorFormationEnd (s : State) (g c : Nat) (upset : Bool) : State :=
  let p := (s.grp g).phys c
  match s.thisCycle g, (s.clu g p).formation with
  | some v, some f => if f.ends = v ∧ p < 26 then s.formationEnd g p v upset else s
  | _, _ => s

def execFactorFormationEnd (t g c : Nat) (upset : Bool) (s : State) : Host.Outcome State Fault Refusal :=
  .next ((s.advance t).factorFormationEnd g c upset)

/-- The formation that an MFAC word begins at `v`. DESIGN CHOICE: of a RANK16 from 17 to 31, which its range leaves out and no
check refuses, the rank is 16 × RANK16 as of any other (notes/assumptions/53.md). -/
def formationOf (c : Cluster) (w : MWord) (v : Nat) : Formation :=
  let r := 16 * wordField w 51 5
  let ub := tget {} c.banks (wordField w 49 2)
  let vb := tget {} c.banks (wordField w 47 2)
  let (codes, rs, ok) := formTile r (wordField w 40 5) (factorInts (wordBit w 46) ub.codes) (factorInts (wordBit w 45) vb.codes) ub.fmul
  { ends := v + 2 * r + 8, dest := wordField w 36 4, codes, rs, ok, ubank := wordField w 49 2, vbank := wordField w 47 2
    urel := wordBit w 35, vrel := wordBit w 34 }

/-- MFAC; a formation that ends in its issue cycle ends first (R121). -/
def State.mfacWord (s : State) (g c : Nat) : State :=
  s.onWord g c unitMatrix 3 fun v p w s =>
    let s0 := match (s.clu g p).formation with
      | some f => if f.ends = v then s.formationEnd g p v false else s
      | none => s
    let cl := s0.clu g p
    let bad := cl.formation.isSome || !(cl.bank (wordField w 49 2)).isFull v
      || !(cl.bank (wordField w 47 2)).isFull v
    (s0.engineFault g p detMatrix v bad).modClu g p fun cl => { cl with formation := some (formationOf cl w v) }

def execMfac (t g c : Nat) (s : State) : Host.Outcome State Fault Refusal := .next ((s.advance t).mfacWord g c)

end Sys2Proof.Machine
end

