-- ==== Sys2Proof/Machine/VectorWords.lean ====
section
/-! DEFINITION. Vector words: what each names (Table 6-3, R191), the faults at issue (R149, Table 6-6), the start of an
operation with its scalars (R136, R137), and its end. -/

namespace Sys2Proof.Machine

/-! ### Checks at issue -/

/-- Stream register `i`. -/
def Cluster.sreg (c : Cluster) (i : Nat) : SReg := tget {} c.sregs i

/-- The greatest row of a stream. -/
def SReg.lastRow (r : SReg) : Nat :=
  let n := r.rowCount
  let q := (n - 1) / r.run
  max (r.rowAt (n - 1)) (if r.run ≠ 0 ∧ 1 ≤ q then r.rowAt (q * r.run - 1) else 0)

/-- A destination whose runs overlap. -/
def SReg.overlaps (r : SReg) : Bool := decide (r.stride < r.run) && decide (r.run < r.rowCount)

/-- What a word names: the operation, its destinations, its sources without the mask, and whether the word is ill formed
in itself. -/
structure VecIssue where
  op : VecOp
  dests : List SReg
  sources : List SReg
  bad : Bool

/-- Registers that the operation uses. -/
def VecIssue.named (x : VecIssue) : List SReg := x.dests ++ x.sources ++ x.op.mask.toList

/-- The cases of Table 6-6 that concern single registers. -/
def SReg.bad (r : SReg) (c : Cluster) : Bool :=
  r.length == 0 || decide (maskFmt < r.fmt) || decide (8191 < r.lastRow) || (r.men && (c.sreg r.mreg).fmt != maskFmt)

/-- A row of D lies in a buffer slot. -/
def SReg.inSlot (r : SReg) (slots : List SlotDecl) : Bool :=
  (List.range r.rowCount).any fun j => (slotOf slots (r.rowAt j)).isSome

/-- A case of Table 6-6 holds, apart from the queue's and a scalar shift amount's. -/
def VecIssue.faulty (x : VecIssue) (c : Cluster) (slots : List SlotDecl) : Bool :=
  x.bad || (x.named.any fun r => r.bad c) || (x.dests.any SReg.overlaps)
    || (x.op.mask.isSome && !x.op.mz && x.op.d.inSlot slots)

/-- Sources, or the mask, that are no scalar and differ from D in LENGTH (EW, CVT). -/
def lengthsDiffer (d : SReg) (sources : List SReg) (mask : Option SReg) : Bool :=
  (sources.any fun r => !r.scalar && r.length != d.length) || (match mask with
    | some m => m.length != d.length
    | none => false)

/-- The mask stream of a register. -/
def Cluster.maskOfReg (c : Cluster) (r : SReg) : Option SReg := if r.men then some (c.sreg r.mreg) else none

/-- The operation of a word before its pace is known. -/
def bareOp (w : MWord) (v : Nat) (ecc : Ecc) (upset : LaneUpset) : VecOp :=
  { word := w, issued := v, pace := 1, beats := 1, ecc, upset }

/-! ### What each word names -/

def Cluster.ewIssue (c : Cluster) (w : MWord) (v : Nat) (ecc : Ecc) (upset : LaneUpset) : VecIssue :=
  let func := wordField w 50 6
  let n := ewArity func
  let d := c.sreg (wordField w 45 5)
  let a := c.sreg (wordField w 40 5)
  let b := c.sreg (wordField w 35 5)
  let e := c.sreg (wordField w 30 5)
  let srcs := ([a, b, e].take n)
  let float := (srcs.any fun r => isFloatFmt r.fmt) || (decide (0x11 ≤ func) && decide (func ≤ 0x17))
  let mask := c.maskOfReg d
  { op := { bareOp w v ecc upset with d, a, b, c := e, mask, float }
    dests := [d], sources := srcs
    bad := func == 0 || decide (0x19 < func) || wordField w 0 29 != 0 || lengthsDiffer d srcs mask
      || (float && decide (0x0C ≤ func) && decide (func ≤ 0x10)) }

def Cluster.cvtIssue (c : Cluster) (w : MWord) (v : Nat) (ecc : Ecc) : VecIssue :=
  let d := c.sreg (wordField w 51 5)
  let a := c.sreg (wordField w 46 5)
  let sc := c.sreg (wordField w 40 5)
  let e := c.sreg (wordField w 27 5)
  let q := wordBit w 45
  let csen := wordBit w 26
  let srcs := (if q then [] else [a]) ++ [sc]
  let mask := c.maskOfReg d
  let sums := csen && (decide (3 < d.fmt) || d.length % 32 != 0 || e.fmt != 5 || e.length != d.length / 32
    || (mask.isSome && !wordBit w 8))
  { op := { bareOp w v ecc .none with d, a, s := sc, e, mask }
    dests := d :: (if csen then [e] else []), sources := srcs
    bad := lengthsDiffer d srcs mask || sc.fmt != 9 || sums || (q && d.length != 1024) }

def Cluster.redIssue (c : Cluster) (w : MWord) (v : Nat) (ecc : Ecc) : VecIssue :=
  let d := c.sreg (wordField w 51 5)
  let a := c.sreg (wordField w 46 5)
  let rf := wordField w 43 3
  let float := isFloatFmt a.fmt
  { op := { bareOp w v ecc .none with d, a, mask := c.maskOfReg a, float }
    dests := [d], sources := [a]
    bad := decide (5 < rf) || wordField w 0 26 != 0
      || (rf == 5 && (float || d.fmt != 5 || d.length != ceilDiv a.length 32)) }

def Cluster.lutIssue (c : Cluster) (w : MWord) (v : Nat) (ecc : Ecc) : VecIssue :=
  let a := c.sreg (wordField w 51 5)
  { op := { bareOp w v ecc .none with a }
    dests := [], sources := [a], bad := wordField w 0 51 != 0 || a.fmt != 9 || a.length != 256 }

/-- The flags' register of a SCAN. -/
def Cluster.scanFlags (c : Cluster) (w : MWord) : SReg := c.sreg (wordField w 26 5)

def Cluster.scanIssue (c : Cluster) (w : MWord) (v : Nat) (ecc : Ecc) : VecIssue :=
  let d := c.sreg (wordField w 51 5)
  let a := c.sreg (wordField w 46 5)
  let b := c.sreg (wordField w 41 5)
  let cin := c.sreg (wordField w 36 5)
  let e := c.sreg (wordField w 31 5)
  let f := c.scanFlags w
  let ch := 64 * (wordField w 14 6 + 1)
  let l := d.length / ch
  { op := { bareOp w v ecc .none with d, a, b, c := cin, e, f, float := true }
    dests := [d, e], sources := [a, b, cin, f]
    bad := wordField w 20 6 != 0 || wordField w 0 14 != 0 || d.length % ch != 0 || l == 0 || decide (64 < l)
      || decide (4096 < d.length) || d.men || d.fmt != 9 || a.fmt != 4 || !isFloatFmt b.fmt || cin.fmt != 9 || e.fmt != 9
      || f.fmt != maskFmt || a.length != d.length || b.length != d.length || cin.length != ch || e.length != ch
      || f.length != l }

/-! ### Issue -/

/-- An operation that has ended and is not yet counted is counted. -/
def State.finishVec (s : State) (g p v : Nat) : State :=
  match (s.clu g p).vec with
  | some o =>
    if o.ends ≤ v ∧ !o.retired then
      (s.modClu g p fun cl => { cl with vec := some { o with retired := true } }).count (vecOps g) 1
    else s
  | none => s

/-- The vector operation of the cluster has not ended at `v` (R136). -/
def Cluster.vecRuns (c : Cluster) (v : Nat) : Bool :=
  match c.vec with
  | some o => decide (v < o.ends)
  | none => false

/-- The operation with its pace and beats (R137). -/
def VecOp.paced (o : VecOp) : VecOp :=
  { o with beats := o.lead.beats, pace := max o.compute (ceilDiv o.positions 4) }

/-- Where the last slot of the vector operation is the one cycle `v`, in which the next may issue already, its writes fall due
before it does (R136, R137). -/
def State.lastSlot (s : State) (g p v : Nat) : State :=
  match (s.grp g).cur, (s.clu g p).vec with
  | some r, some o =>
    if o.slot = o.beats + 1 ∧ o.slotAt o.slot = v then
      (s.modRun g fun r => { r with due := r.due.filter fun d => !(d.kind == .slot && d.phys == p) }).vslot g p r.shadow
        r.run.chunks.length
    else s
  | _, _ => s

/-- A vector operation issues at `v` in physical cluster `p`, logical cluster `c`; `queueBad` is a fault of the tile queue. Its
scalars, and the row of a SCAN's flags, are read in this cycle, and its first slot follows (R137). -/
def State.issueVec (s : State) (g c p v : Nat) (x : VecIssue) (queueBad : Bool) : State :=
  let s0 := (s.lastSlot g p v).finishVec g p v
  let cl := s0.clu g p
  let bad := cl.vecRuns v || queueBad || x.faulty cl (s0.curSlots g)
  let s1 := s0.engineFault g p detVector v bad
  if bad then s1
  else
    let first : SReg := x.sources.headD x.op.d
    let rows := x.op.scalarRegs.map (fun y => y.2.rowAt 0) ++ (if x.op.cls = clsScan then [x.op.f.rowAt 0] else [])
    let s2 := (s1.armAccess g (v + 1) { phys := p, row := first.rowAt 0 } true).addDues g
      (rows.map fun row => readDue x.op.ecc v reqVector v c p (row % 8192) .scalar)
    (s2.modClu g p fun cl => { cl with vec := some x.op.paced }).addDue g { sched := v, kind := .vstart, phys := p }

def State.ewWord (s : State) (g c : Nat) (ecc : Ecc) (upset : LaneUpset) : State :=
  s.onWord g c unitVector clsEw fun v p w s => s.issueVec g c p v ((s.clu g p).ewIssue w v ecc upset) false

def execEw (t g c : Nat) (ecc : Ecc) (upset : LaneUpset) (s : State) : Host.Outcome State Fault Refusal :=
  .next ((s.advance t).ewWord g c ecc upset)

/-- The head entry of the queue does not suit a CVT with QSRC (Table 6-6, R153). -/
def Cluster.queueBad (c : Cluster) (w : MWord) (v : Nat) : Bool :=
  wordBit w 45 && (match c.headTile v with
    | some q => decide (v ≤ q.pushed) || q.tileId != wordField w 0 8
    | none => true)

def State.cvtWord (s : State) (g c : Nat) (ecc : Ecc) (upset : LaneUpset) : State :=
  s.onWord g c unitVector clsCvt fun v p w s =>
    let x := (s.clu g p).cvtIssue w v ecc
    s.issueVec g c p v { x with op := { x.op with upset } } ((s.clu g p).queueBad w v)

def execCvt (t g c : Nat) (ecc : Ecc) (upset : LaneUpset) (s : State) : Host.Outcome State Fault Refusal :=
  .next ((s.advance t).cvtWord g c ecc upset)

def State.redWord (s : State) (g c : Nat) (ecc : Ecc) (upset : LaneUpset) : State :=
  s.onWord g c unitVector clsRed fun v p w s =>
    let x := (s.clu g p).redIssue w v ecc
    s.issueVec g c p v { x with op := { x.op with upset } } false

def execRed (t g c : Nat) (ecc : Ecc) (upset : LaneUpset) (s : State) : Host.Outcome State Fault Refusal :=
  .next ((s.advance t).redWord g c ecc upset)

def State.ldlutWord (s : State) (g c : Nat) (ecc : Ecc) : State :=
  s.onWord g c unitVector clsLut fun v p w s => s.issueVec g c p v ((s.clu g p).lutIssue w v ecc) false

def execLdlut (t g c : Nat) (ecc : Ecc) (s : State) : Host.Outcome State Fault Refusal := .next ((s.advance t).ldlutWord g c ecc)

def State.scanWord (s : State) (g c : Nat) (ecc : Ecc) (upset : LaneUpset) : State :=
  s.onWord g c unitVector clsScan fun v p w s =>
    let x := (s.clu g p).scanIssue w v ecc
    s.issueVec g c p v { x with op := { x.op with upset } } false

def execScan (t g c : Nat) (ecc : Ecc) (upset : LaneUpset) (s : State) : Host.Outcome State Fault Refusal :=
  .next ((s.advance t).scanWord g c ecc upset)

/-! ### VECTOR_OPERATION_END -/

/-- The vector operation of logical cluster `c` ends in this cycle. -/
def State.vectorOperationEnd (s : State) (g c : Nat) : State :=
  let p := (s.grp g).phys c
  match s.thisCycle g, (s.clu g p).vec with
  | some v, some o => if o.ends = v ∧ p < 26 then s.finishVec g p v else s
  | _, _ => s

def execVectorOperationEnd (t g c : Nat) (s : State) : Host.Outcome State Fault Refusal :=
  .next ((s.advance t).vectorOperationEnd g c)

end Sys2Proof.Machine
end

