-- ==== Sys2Proof/Machine/Election.lean ====
section
/-! DEFINITION. Commands of the owner's election and of no effect beyond the lease: NOP, CLAIM, RELEASE, GRANT, OWNER_QUERY,
DEVICE_QUERY (R285 to R288, R298), and the lease's expiry (R286). Each command has its description for R291 and its
own effect, which its meaning hands to the arrival of Operands.lean. -/

namespace Sys2Proof.Machine

/-! ### NOP -/

def infoNop : CmdInfo := { op := 0x0001, cls := .read, inRange := true }

def effNop (i : Inflight) (s : State) : State := s.finish i.id stSuccess []

def execNop (t : Nat) (h : Hdr) (s : State) : Host.Outcome State Fault Refusal :=
  .next (s.hostCommand t h (.nop t h) infoNop effNop)

/-! ### DEVICE_QUERY -/

def infoDeviceQuery : CmdInfo := { op := 0x0002, cls := .read, inRange := true }

/-- The stepping A1. -/
def stepping : Nat := 0x11

/-- The version of the running firmware; 0 in recovery, which runs none. -/
def State.fwVersion (s : State) : Nat :=
  match (if s.boot.running = 1 then s.boot.fwB else if s.boot.running = 0 then s.boot.fwA else none) with
  | some p => p.version
  | none => 0

def effDeviceQuery (i : Inflight) (s : State) : State :=
  s.finish i.id stSuccess (resultOf
    [(12, leBytes 1 stepping), (13, leBytes 1 (b2n s.repair.profile1152)), (14, leBytes 1 (if s.boot.running < 2 then s.boot.running else 0xFF))
    , (16, leBytes 4 s.fwVersion), (20, leBytes 4 s.capacityMib), (24, leBytes 1 s.loaded.length)])

def execDeviceQuery (t : Nat) (h : Hdr) (s : State) : Host.Outcome State Fault Refusal :=
  .next (s.hostCommand t h (.deviceQuery t h) infoDeviceQuery effDeviceQuery)

/-! ### CLAIM, RELEASE, GRANT -/

def infoClaim (h : Hdr) (role brk : Bool) : CmdInfo :=
  { op := 0x0010, cls := .election
    fields := [⟨64, 1, b2n role⟩, ⟨65, 1, b2n brk⟩]
    inRange := !(brk && h.master == .pcie), brk }

/-- CLAIM that the arbiter has let through (Table 12-5). -/
def effClaim (role : Bool) (i : Inflight) (s : State) : State :=
  (s.setOwner (Master.num i.hdr.master) role 0x0010).finish i.id stSuccess []

def execClaim (t : Nat) (h : Hdr) (role brk : Bool) (s : State) : Host.Outcome State Fault Refusal :=
  .next (s.hostCommand t h (.claim t h role brk) (infoClaim h role brk) (effClaim role))

def infoRelease : CmdInfo := { op := 0x0011, cls := .election, inRange := true }

def effRelease (i : Inflight) (s : State) : State := (s.setOwner 3 false 0x0011).finish i.id stSuccess []

def execRelease (t : Nat) (h : Hdr) (s : State) : Host.Outcome State Fault Refusal :=
  .next (s.hostCommand t h (.release t h) infoRelease effRelease)

def infoGrant (h : Hdr) (target : Nat) (role : Bool) : CmdInfo :=
  { op := 0x0012, cls := .election
    fields := [param 8 2 target, param 9 1 (b2n role)]
    inRange := decide (target < 2) && target != Master.num h.master }

def effGrant (target : Nat) (role : Bool) (i : Inflight) (s : State) : State :=
  (s.setOwner target role 0x0012).finish i.id stSuccess []

def execGrant (t : Nat) (h : Hdr) (target : Nat) (role : Bool) (s : State) : Host.Outcome State Fault Refusal :=
  .next (s.hostCommand t h (.grant t h target role) (infoGrant h target role) (effGrant target role))

/-! ### OWNER_QUERY -/

/-- The words of OWN_STAT (Table 12-9); an expiry that is due shows in them. -/
def State.ownWord (s : State) : Nat := s.owner.owner + 4 * b2n s.owner.role + 8 * b2n (s.owner.expired || s.leaseDue)
def State.leaseLeft (s : State) : Nat :=
  if s.owner.owner = 3 ∨ s.owner.expired then 0 else min 0xFFFFFFFF (toUs (4 * ((s.owner.leaseEnd : Int) - s.ctrl)))

def infoOwnerQuery : CmdInfo := { op := 0x0013, cls := .read, inRange := true }

def effOwnerQuery (i : Inflight) (s : State) : State :=
  s.finish i.id stSuccess (resultOf
    [(12, leBytes 4 s.ownWord), (16, leBytes 4 s.leaseLeft), (20, leBytes 4 (s.ctrAt ownChanges))])

def execOwnerQuery (t : Nat) (h : Hdr) (s : State) : Host.Outcome State Fault Refusal :=
  .next (s.hostCommand t h (.ownerQuery t h) infoOwnerQuery effOwnerQuery)

/-! ### LEASE_EXPIRY -/

/-- The owner arbiter keeps the lease wherever the control domain is out of reset, recovery among it (R281, R286). -/
def State.leaseExpiry (s : State) : State := if s.controlUp then s.expireLease else s

def execLeaseExpiry (t : Nat) (s : State) : Host.Outcome State Fault Refusal := .next ((s.advance t).leaseExpiry)

end Sys2Proof.Machine
end

