-- ==== Sys2Proof/Machine/ImageChecks.lean ====
section
/-! DEFINITION. What a Tuant image holds (Tables 3-1, 3-11, 3-12, 9-5, 15-6), and the checks of IMAGE_LOAD in their order
(R81, R93, R130, R171, R221, R315, R386; notes/assumptions/29.md). The image lies in its extents; group 0's copy is read. -/

namespace Sys2Proof.Machine

/-! ### Reading -/

/-- A part of `n` bytes at offset `off` (64-byte units) lies within the image's extents. -/
def Image.within (m : Image) (off n : Nat) : Bool := decide (64 * off + n ≤ 64 * (m.nearExtent + m.farExtent))

/-- Elements of `w` bytes from byte `o` on, little-endian. -/
def State.imageWords (s : State) (m : Image) (o w n : Nat) : List Nat :=
  (pieces w n (s.imageSlice m 0 o (w * n))).map leNat

/-- A slot table entry (Table 4-1), and a supervision descriptor (Table 7-6). -/
def parseSlot (v : Nat) : SlotDecl :=
  { firstRow := bits v 0 13, rows := bits v 13 13, producer := bits v 26 3, consumer := bits v 29 3, passes := bits v 32 8 }
def parseSup (v : Nat) : SupDesc :=
  { range := BitVec.ofNat 32 (bits v 0 32), loExp := sext 8 (bits v 32 8), hiExp := sext 8 (bits v 40 8), en := bit v 48
    loOff := bit v 49 }

/-- A tensor descriptor (Table 9-5). -/
def parseTensor (l : List Byte) : Tensor :=
  let f (i n : Nat) := field l i n
  { cls := f 0 1, format := f 1 1, sparse := bit (f 2 1) 0, enc := bit (f 3 1) 0, keySlot := bits (f 3 1) 1 3
    tagBase := f 4 2, rank16 := f 6 2, blocks := f 8 4, lastCount := f 12 4, dataOff := f 16 4, indexOff := f 20 4
    sideOff := f 24 4, tableOff := f 28 4, tweakHi := f 32 8 }

/-- The variant directory's entries, 16 bytes each. -/
def State.variantDir (s : State) (m : Image) (hdr : List Byte) : List (List Byte) :=
  pieces 16 (field hdr 4 1) (s.imageSlice m 0 (64 * field hdr 48 4) (16 * field hdr 4 1))

def State.rawSlots (s : State) (m : Image) (e : List Byte) : List Nat := s.imageWords m (64 * field e 4 4) 8 (min 256 (field e 8 2))
def State.rawSups (s : State) (m : Image) (e : List Byte) : List Nat := s.imageWords m (64 * field e 12 4) 8 16

/-- The raw descriptors of the tensor table, which follows the state coding header (R213). -/
def State.rawTensors (s : State) (m : Image) (hdr : List Byte) : List (List Byte) :=
  let c := field hdr 68 4
  let n := min 65536 (field (s.imageSlice m 0 (64 * c) 64) 4 4)
  pieces 64 n (s.imageSlice m 0 (64 * (c + 1)) (64 * n))

/-- An Almanac entry's 32 bytes (Table 15-6). -/
def parseAlm (l : List Byte) : AlmEntry :=
  { segment := field l 0 2, entry := field l 2 2, inAddr := field l 4 4, inRows := field l 8 2, inFirst := field l 10 2
    outFirst := field l 12 2, outRows := field l 14 2, cost := field l 16 4, sig := BitVec.ofNat 32 (field l 20 4) }

/-- The image with what its header and tables give. -/
def State.parseImage (s : State) (m : Image) (hdr : List Byte) : Image :=
  let v := field hdr 4 1
  let at_ (i : Nat) := 64 * field hdr i 4
  let stateTab := s.tableOf m 0 (field (s.imageSlice m 0 (at_ 68) 64) 0 4)
  { m with
    profile := field hdr 2 2, variants := v, initClassWord := field hdr 5 1, recordRows := field hdr 6 2
    chunkSamples := field hdr 8 2, audioOut := field hdr 10 2, outBytes := field hdr 12 4
    actionDir := field hdr 36 4, segDir := field hdr 40 4, segCount := field hdr 44 4, initBody := field hdr 64 4
    dispatch := s.imageWords m (at_ 24) 2 256
    runcost := pieces 64 v (s.imageWords m (at_ 28) 4 (64 * v))
    roundcost := s.imageWords m (at_ 32) 4 256
    pk := s.imageWords m (at_ 52) 2 v
    vars := (s.variantDir m hdr).map fun e =>
      { w := field e 0 4, slots := (s.rawSlots m e).map parseSlot, sup := (s.rawSups m e).map parseSup }
    tensors := (s.rawTensors m hdr).map parseTensor
    stateNum := stateTab.num, stateSym := stateTab.sym }

/-! ### Checks 1 to 5 of Table 3-8, and R315 -/

/-- Check 1. -/
def State.headerOk (s : State) (m : Image) (hdr : List Byte) : Bool :=
  let f (i n : Nat) := field hdr i n
  let v := f 4 1
  let rows := f 6 2
  let zero (i n : Nat) := (slice hdr i n).all (· == 0)
  f 0 2 == 1 && (f 2 2 == 1200 || f 2 2 == 1152) && decide (1 ≤ v) && decide (v ≤ 64)
    && decide (256 ≤ rows) && decide (rows ≤ 4096) && rows % 64 == 0 && bits (f 10 2) 13 3 == 0
    && decide (1 ≤ f 12 4) && decide (f 12 4 ≤ 16384) && decide (1 ≤ f 44 4) && decide (f 60 1 ≤ 4)
    && (f 60 1 != 0 || f 56 4 == 0) && zero 61 3 && zero 72 184
    && decide (m.bodyBytes ≤ 64 * (m.nearExtent + m.farExtent))
    && m.within 0 256 && m.within (f 24 4) 512 && m.within (f 28 4) 16384 && m.within (f 32 4) 1024
    && m.within (f 36 4) 32768 && m.within (f 40 4) (8 * f 44 4) && m.within (f 48 4) (16 * v) && m.within (f 52 4) (2 * v)
    && m.within (f 56 4) (32 * f 60 1) && m.within (f 64 4) (64 * (rows - 1)) && m.within (f 68 4) 64
    && (s.variantDir m hdr).all fun e =>
      field e 10 2 == 0 && decide (field e 8 2 ≤ 256) && m.within (field e 4 4) (8 * field e 8 2) && m.within (field e 12 4) 128

/-- Check 3. -/
def Image.dispatchOk (m : Image) : Bool :=
  m.dispatch.all fun e => decide (bits e 0 6 < m.variants) && (!bit e 15 || decide (bits e 8 6 < m.variants))

/-- The list never falls. -/
def nonDecreasing (l : List Nat) : Bool := (List.zip l (l.drop 1)).all fun p => decide (p.1 ≤ p.2)

/-- Check 4. -/
def Image.runcostOk (m : Image) : Bool :=
  m.runcost.all fun l => nonDecreasing l && decide (6000 ≤ l.getD 0 0) && decide (l.getD 0 0 ≤ 4800000)

/-- R315. -/
def Image.powerOk (m : Image) : Bool :=
  (List.range m.variants).all fun v =>
    let p := m.pk.getD v 0
    p != 0 && decide (p * min (m.runcostOf v 64) 2500000 ≤ 1700 * 2500000)

/-! ### Action lists: checks 6, 7, 9, 10 -/

/-- Entries of the action list of variant `v` and batch size `b` as 128-bit numbers, none where they do not lie within
the extents. -/
def State.listOf (s : State) (m : Image) (v b : Nat) : Option (List Nat) :=
  let (off, n) := s.actionList 0 m v b
  if 1 ≤ n ∧ 16 * (off + n) ≤ 64 * (m.nearExtent + m.farExtent) then some (s.imageWords m (16 * off) 16 n) else none

/-- Every action list with its variant and batch size. -/
def State.allLists (s : State) (m : Image) : List (Nat × Nat × List Nat) :=
  (List.range m.variants).flatMap fun v => (List.range 64).map fun b => (v, b + 1, (s.listOf m v (b + 1)).getD [])

def rawAction (v : Nat) : Action := parseAction (leBytes 16 v)

/-- Check 6 for one list. -/
def listOk (l : List Nat) (cost : Nat) : Bool :=
  let as := l.map rawAction
  let ats := as.map (·.at_)
  (l.all fun v => bits v 38 2 == 0) && (as.all fun a => decide (1 ≤ a.op) && decide (a.op ≤ 0x0C))
    && nonDecreasing ats && ((List.zip ats (ats.drop 4)).all fun p => p.1 != p.2)
    && (as.filter fun a => a.op == 0x0C).length == 1
    && (match as.getLast? with
      | some a => a.op == 0x0C && a.at_ == cost
      | none => false)

/-- Check 7: a START of a cluster that a BARRIER names comes 3 cycles after it, if it does not come before it. -/
def startsOk (as : List Action) : Bool :=
  (as.filter fun b => b.op == 0x0B).all fun b =>
    (as.filter fun a => a.op == 0x02 && a.clmask &&& b.clmask != 0).all fun a =>
      decide (a.at_ < b.at_) || decide (b.at_ + 3 ≤ a.at_)

/-- Checks 9 and 10. -/
def positionsOk (as : List Action) (b : Nat) : Bool :=
  as.all fun a => decide (a.op < 0x07) || decide (0x0A < a.op) || decide (a.field 0 6 < b)
def stateMasksOk (m : Image) (as : List Action) : Bool :=
  as.all fun a => (a.op != 0x07 && a.op != 0x08) || a.clmask == 2 ^ m.clusters - 1

/-! ### Segments: check 8 and R130 -/

/-- Check 8. -/
def State.segmentsOk (s : State) (m : Image) (lists : List (List Action)) : Bool :=
  (lists.all fun as => as.all fun a => a.op != 0x01 || decide (a.field 0 16 < m.segCount))
    && (List.range m.segCount).all fun i =>
      let (off, n) := s.segmentOf 0 m i
      decide (1 ≤ n) && decide (n ≤ 128) && m.within off (64 * n + 4)
        && crc32c (s.imageSlice m 0 (64 * off) (64 * n)) == field (s.imageSlice m 0 (64 * (off + n)) 4) 0 4

/-- A matrix word that R130 lets stand (Tables 5-1, 5-5). -/
def matrixWordOk (v : Nat) : Bool :=
  let op := bits v 56 4
  let mode := bits v 52 4
  if op = 1 then
    decide (mode < 6) && bits v 0 8 == 0 && !(bit v 42 && (mode == 4 || mode == 5 || bit v 8)) && !(bit v 8 && mode == 2)
  else if op = 2 then bits v 0 32 == 0
  else if op = 3 then bits v 0 34 == 0 && bits v 51 5 != 0
  else false

/-- A vector word that R130 lets stand (Table 6-3, R191). -/
def vectorWordOk (v : Nat) : Bool :=
  let op := bits v 56 4
  if op = 1 then bits v 0 12 == 0
  else if op = 2 then bits v 0 20 == 0
  else if op = 3 then bits v 0 29 == 0
  else if op = 4 then true
  else if op = 5 then bits v 0 26 == 0
  else if op = 6 then bits v 0 51 == 0
  else if op = 7 then bits v 20 6 == 0 && bits v 0 14 == 0
  else false

/-- The words of a segment from word `i` on, with the ends of the loop bodies that enclose them, innermost first
(R109, R130). DESIGN CHOICE: bits to which the tables give no field may have any value (notes/assumptions/53.md). -/
def wordsOk (total : Nat) : Nat → List Nat → List Nat → Bool
  | _, _, [] => true
  | i, ends, v :: rest =>
    let open_ := ends.filter fun e => decide (i < e)
    let unit := bits v 60 4
    let op := bits v 56 4
    if unit = 0 ∧ op = 2 then
      let e := i + 1 + bits v 0 10
      bits v 0 10 != 0 && bits v 10 16 != 0 && decide (e ≤ total) && (open_.all fun x => decide (e ≤ x))
        && decide (open_.length < 4) && wordsOk total (i + 1) (e :: open_) rest
    else
      (if unit = 0 then decide (op < 4) else if unit = 1 then matrixWordOk v else if unit = 2 then vectorWordOk v else false)
        && wordsOk total (i + 1) open_ rest

/-- R130. -/
def State.microOk (s : State) (m : Image) : Bool :=
  (List.range m.segCount).all fun i =>
    let (off, n) := s.segmentOf 0 m i
    wordsOk (8 * n) 0 [] (s.imageWords m (64 * off) 8 (8 * n))

/-! ### Slots and supervision: R93, R171 -/

/-- Two slots share a row. -/
def SlotDecl.meets (a b : SlotDecl) : Bool := decide (a.firstRow < b.firstRow + b.rows) && decide (b.firstRow < a.firstRow + a.rows)

/-- No slot of the list meets a later one. -/
def slotsApart : List SlotDecl → Bool
  | [] => true
  | a :: r => (r.all fun b => !a.meets b) && slotsApart r

/-- R93 for one variant. -/
def variantOk (slotRows : Nat) (w : Nat) (raw : List Nat) : Bool :=
  let slots := raw.map parseSlot
  decide (w ≤ 8192 - slotRows) && slotsApart slots && (raw.all fun v => bits v 40 24 == 0)
    && slots.all fun d =>
      decide (d.firstRow + d.rows ≤ w) && d.producer != 1 && decide (d.producer < 6) && decide (d.consumer < 6)
        && d.passes != 0 && d.rows != 0

/-- R171 for one descriptor. -/
def supOk (v : Nat) : Bool :=
  let d := parseSup v
  let e := bits v 23 8
  !bit v 31 && decide (0 < e) && decide (e < 255) && decide (-15 ≤ d.loExp) && decide (d.loExp ≤ 0)
    && decide (0 ≤ d.hiExp) && decide (d.hiExp ≤ 15) && bits v 50 14 == 0

/-! ### Compression: Table 9-8 -/

/-- Check 1 for one descriptor; `l` are its bytes. -/
def Image.tensorOk (m : Image) (l : List Byte) : Bool :=
  let t := parseTensor l
  decide (t.cls ≤ 4) && decide (t.format ≤ 5) && (t.cls != 4 || t.format == 0) && bits (field l 2 1) 1 7 == 0
    && (!t.sparse || (decide (t.format ≤ 2) && decide (t.cls ≤ 1))) && bits (field l 3 1) 4 4 == 0
    && (if t.classL then decide (1 ≤ t.rank16) && decide (t.rank16 ≤ 16) else t.rank16 == 0)
    && decide (1 ≤ t.blocks) && decide (1 ≤ t.lastCount) && decide (t.lastCount ≤ 4096)
    && ((slice l 40 24).all (· == 0))
    && (if t.cls = 4 then t.indexOff == 0 && m.within t.dataOff (4160 * t.blocks)
        else m.within t.indexOff (4 * t.blocks) && m.within t.dataOff 16)
    && (if t.hasSide then m.within t.sideOff (t.blocks * t.sideStride) else t.sideOff == 0)
    && (if t.cls = 0 then t.tableOff == 0 else m.within t.tableOff 32)

/-- Check 1. -/
def State.codingOk (s : State) (m : Image) (hdr : List Byte) : Bool :=
  let c := field hdr 68 4
  let h := s.imageSlice m 0 (64 * c) 64
  decide (field h 4 4 ≤ 65536) && ((slice h 8 56).all (· == 0)) && m.within (c + 1) (64 * field h 4 4)
    && m.within (field h 0 4) 32 && (s.tableOf m 0 (field h 0 4)).symBits == 8
    && (s.rawTensors m hdr).all m.tensorOk

/-- Check 2 for the table at `off`. -/
def State.tableOk (s : State) (m : Image) (off symBits : Nat) : Bool :=
  let t := s.tableOf m 0 off
  t.ok && t.symBits == symBits && m.within off (ceilDiv (26 + t.sym.length) 16 * 16)
    && field (s.imageSlice m 0 (64 * off) 2) 1 1 == 0
def State.tablesOk (s : State) (m : Image) (hdr : List Byte) : Bool :=
  s.tableOk m (field (s.imageSlice m 0 (64 * field hdr 68 4) 64) 0 4) 8
    && m.tensors.all fun t => t.cls == 0 || s.tableOk m t.tableOff (if t.cls = 4 then 8 else formatBits t.format)

/-- An address within a spill tensor's region. -/
def Image.inSpill (m : Image) (a : Nat) : Bool :=
  m.tensors.any fun t => t.cls == 4 && decide (t.dataOff ≤ a) && decide (a < t.dataOff + 65 * t.blocks)

/-- Check 3 for a spill transfer of `n` rows from address `a`. -/
def Image.spillOk (m : Image) (a n : Nat) : Bool :=
  match m.spillAt a with
  | some (ti, j) => match m.tensors[ti]? with
    | some t => decide (j + ceilDiv n 64 ≤ t.blocks)
    | none => false
  | none => !m.inSpill a

/-- Check 3 for one list, with the busy intervals of decoder and coder so far (R214, R216, R217). -/
def Image.busyOk (m : Image) : List Action → List (Nat × Nat) → List (Nat × Nat) → Bool
  | [], _, _ => true
  | a :: r, dec, cod =>
    let (ad, n) := (a.field 0 34, a.field 47 16)
    if a.op = 0x03 then
      let (first, count) := (a.field 16 20, a.field 36 16)
      match m.tensors[a.field 0 16]? with
      | none => false
      | some t =>
        let busy := [(a.at_ + 16, a.at_ + 16 + sumOf ((List.range count).map fun i => t.allowance (first + i)))]
        t.expandOk first count (a.field 52 1) && !startsBusy dec busy && m.busyOk r (dec ++ busy) cod
    else if a.op = 0x04 then
      let busy := if (m.spillAt ad).isSome then fetchBusy a.at_ n else []
      m.spillOk ad n && !startsBusy dec busy && m.busyOk r (dec ++ busy) cod
    else if a.op = 0x05 then
      let busy := if (m.spillAt ad).isSome then [(a.at_ + 1, a.at_ + 1 + 5 * n)] else []
      m.spillOk ad n && !startsBusy cod busy && m.busyOk r dec (cod ++ busy)
    else m.busyOk r dec cod

/-- Weight tensors with their numbers. -/
def Image.weightTensors (m : Image) : List (Nat × Tensor) :=
  (List.zip (List.range m.tensors.length) m.tensors).filter fun p => p.2.cls != 4

/-- Check 4. -/
def State.indexOk (s : State) (m : Image) (t : Tensor) : Bool :=
  let l := s.imageWords m (64 * t.indexOff) 4 t.blocks
  ((List.zip l (l.drop 1)).all fun p => decide (p.1 < p.2))
    && l.all fun e => decide (64 * t.dataOff + e < 64 * (m.nearExtent + m.farExtent))

/-- Every stored form of a tensor lies before the next one, and the last one within the image, where the data region ends
(R209, notes/assumptions/29.md). -/
def State.blocksApart (s : State) (m : Image) (t : Tensor) : Bool :=
  (List.range t.blocks).all fun j =>
    let a := s.blockByte m 0 t j
    decide (a + s.storedLen m 0 a ≤ if j + 1 < t.blocks then s.blockByte m 0 t (j + 1) else 64 * (m.nearExtent + m.farExtent))

/-- Every weight block of the image, read. -/
def State.allBlocks (s : State) (m : Image) : List (Tensor × Nat × WeightBlock) :=
  m.weightTensors.flatMap fun p => (List.range p.2.blocks).map fun j => (p.2, j, s.weightBlock m 0 p.1 p.2 j)

/-- The sum of an output's delivered codes in one of the readings of R106; INT formats signed or not, B4 by its table. -/
def rowSum (t : Tensor) (unsigned : Bool) (codes : List Nat) : Int :=
  (codes.map fun q =>
    if t.format = 2 then b4Code q
    else if t.format = 3 ∨ t.format = 4 then 0
    else if unsigned then (q : Int)
    else sext (if t.format = 1 then 4 else 8) q).foldl (· + ·) 0

/-- Check 9 for tile `q` of a block: row sums, and index pairs (R112, R114, R208). -/
def WeightBlock.tileOk (b : WeightBlock) (t : Tensor) (q : Nat) : Bool :=
  let w := b.tile t q 0
  let per := t.tileSyms / 32
  ((List.range 32).all fun j =>
      let codes := slice w.codes (per * j) per
      let r := w.rs.getD j 0
      r == rowSum t false codes || (!t.sparse && r == rowSum t true codes))
    && w.index.all fun x => decide (x < 16) && decide (x % 4 < x / 4)

/-- Check 9 for a block of class E or PLAIN. -/
def WeightBlock.contentOk (b : WeightBlock) (t : Tensor) (j : Nat) : Bool :=
  t.classL || t.format == 5 || (List.range (t.countOf j / t.tileSyms)).all fun q => b.tileOk t q

/-- A tensor's key slot holds a model key (R386). -/
def State.modelKey (s : State) (slot : Nat) : Bool :=
  match s.keyAt slot with
  | some k => k.kind == 0
  | none => false

/-! ### The checks in order -/

/-- The status of the first check that fails, 0 where all pass. -/
def firstRefusal : List (Bool × Nat) → Nat
  | [] => 0
  | (ok, st) :: r => if ok then firstRefusal r else st

/-- The checks of IMAGE_LOAD after the signature, in their order. -/
def State.loadChecks (s : State) (m : Image) (hdr : List Byte) : Nat :=
  let lists := s.allLists m
  let acts := lists.map fun x => x.2.2.map rawAction
  let dir := s.variantDir m hdr
  let blocks := s.allBlocks m
  firstRefusal
    [ (s.headerOk m hdr, stImageInvalid),
      (m.profile != 1200 || !s.repair.profile1152, stProfileMismatch),
      (m.dispatchOk, stImageInvalid),
      (m.runcostOk, stImageInvalid),
      (nonDecreasing m.roundcost, stImageInvalid),
      (m.powerOk, stImageInvalid),
      (lists.all fun x => listOk x.2.2 (m.runcostOf x.1 x.2.1), stImageInvalid),
      (acts.all startsOk, stImageInvalid),
      (s.segmentsOk m acts, stImageInvalid),
      ((List.zip lists acts).all fun x => positionsOk x.2 x.1.2.1, stImageInvalid),
      (acts.all (stateMasksOk m), stImageInvalid),
      (decide (m.recordRows ≤ s.cfg.slotCap), stNoCapacity),
      (dir.all fun e => variantOk s.cfg.slotRows (field e 0 4) (s.rawSlots m e), stImageInvalid),
      (s.microOk m, stImageInvalid),
      (dir.all fun e => (s.rawSups m e).all supOk, stImageInvalid),
      (s.codingOk m hdr, stImageInvalid),
      (m.tensors.all fun t => !t.enc || s.modelKey t.keySlot, stKeyInvalid),
      (s.tablesOk m hdr, stImageInvalid),
      (acts.all fun a => m.busyOk a [] [], stImageInvalid),
      (m.weightTensors.all fun p => s.indexOk m p.2, stImageInvalid),
      (blocks.all fun x => x.2.2.data.first != stBlockCheck && x.2.2.side.first != stBlockCheck, stBlockCheck),
      ((m.weightTensors.all fun p => s.blocksApart m p.2)
          && blocks.all fun x => x.2.2.data.first == 0 && x.2.2.side.first != stBlockInvalid, stBlockInvalid),
      (blocks.all fun x => x.2.2.data.last == 0,
        ((blocks.find? fun x => x.2.2.data.last != 0).map fun x => x.2.2.data.last).getD 0),
      (blocks.all fun x => x.2.2.side.first == 0, stScaleSkew),
      (blocks.all fun x => x.2.2.contentOk x.1 x.2.1, stImageInvalid) ]

end Sys2Proof.Machine
end

