-- ==== Sys2Proof/Machine/Ports.lean ====
section
/-! DEFINITION. Writes to the port and Equinox registers (R244, R262 to R264), and the events of the ports: received
frames, frame starts at the pins, ticks, measurement windows (R250, R253 to R256), and Equinox groups (R263 to R265). -/

namespace Sys2Proof.Machine

/-! ### Access -/

/-- Accesses of master `m` reach the registers (R408): the PCIe host's over a link that is up, with the function in D0
(R269, notes/assumptions/60.md). -/
def State.regReach (s : State) (m : Master) : Bool := s.controlUp && (m != .pcie || (s.hif.linkUp && !s.hif.d3hot))

/-- A write of master `m` to an owner's register is not ignored (R273). -/
def State.ownerWrites (s : State) (m : Master) : Bool := s.controlUp && s.owner.owner == Master.num m

/-- An access of master `m` to the registers at time `t`. It takes place at the start of a CTRL cycle, so that it comes before
the events of that cycle (R7, notes/assumptions/59.md). -/
def State.access (s : State) (t : Nat) (m : Master) (f : State → State) : State :=
  if (s.atCtrl t).regReach m then f (s.atCtrl t) else s.atCtrl t

/-- Reads of master `m` are answered: where its accesses reach the registers, and, as those of a reserved offset, the PCIe host's
while the control domain is in reset (R380, R408). -/
def State.readReach (s : State) (m : Master) : Bool :=
  s.regReach m || (s.life.phase == .inReset && m == .pcie && s.hif.linkUp && !s.hif.d3hot)

/-- A read of master `m` at time `t`, as `State.access`. -/
def State.readAccess (s : State) (t : Nat) (m : Master) (f : State → State) : State :=
  if (s.atCtrl t).readReach m then f (s.atCtrl t) else s.atCtrl t

/-! ### PORT_CFG (R244, R247) -/

/-- The port with the settings that a PORT_CFG word gives. -/
def Port.withCfg (r : Port) (v : Nat) : Port :=
  { r with
    en := bit v 0, master := bit v 1, format := bits v 2 2, delay := bit v 4, slotBits := bits v 5 2
    sampleBits := bits v 7 2, slots := bits v 9 5, rate := bits v 14 4, rampMs := bits v 18 6 }

/-- PORT_CFG as it reads. -/
def Port.cfg (r : Port) : Nat :=
  b2n r.en + 2 * b2n r.master + 4 * r.format + 16 * b2n r.delay + 32 * r.slotBits + 128 * r.sampleBits
    + 512 * r.slots + 16384 * r.rate + 262144 * r.rampMs

/-- The settings are ones that R244 allows. -/
def Port.cfgOk (r : Port) : Bool :=
  decide (r.slotBits < 3) && decide (r.sampleBits ≤ r.slotBits) && decide (r.rate < 13)
    && (if r.format < 2 then r.slots == 1 else r.format == 2)
    && decide (r.hz * r.slotCount * bitsOfCode r.slotBits ≤ 49152000)

/-- A write changes nothing but EN and RAMP_MS. -/
def Port.sameFormat (a b : Port) : Bool :=
  ({ a with en := b.en, rampMs := b.rampMs } : Port).cfg == b.cfg

/-- The port's settings become those of `n`: the chains start or stop with EN, and a new RAMP_MS waits for each channel
(R250, R259). -/
def State.applyCfg (s : State) (p : Nat) (n : Port) : State :=
  let r := s.prt p
  let n1 := if n.en && !r.en then n.atEn s.now s.ctrl else if !n.en && r.en then n.atDis else n
  let s1 := s.setPrt p n1
  let ramp (c : Chan) : Chan := { c with newRamp := c.newRamp || c.bound }
  let s2 := if n.rampMs = r.rampMs then s1 else (s1.mapChans p 0 ramp).mapChans p 1 ramp
  s2.judgeAll

def State.writePortCfg (s : State) (m : Master) (p v : Nat) : State :=
  let r := s.prt p
  if !s.ownerWrites m || r.tapped then s
  else
    let n := r.withCfg v
    if (!r.en || r.sameFormat n) && n.cfgOk && (n.en || (s.boundStreams p).isEmpty) then s.applyCfg p n
    else s.setPrt p { r with cfgReject := true }

def execPortCfgWrite (t : Nat) (m : Master) (port : Nat) (v : Reg) (s : State) : Host.Outcome State Fault Refusal :=
  .next (s.access t m fun s => s.writePortCfg m port v.toNat)

/-! ### Masks -/

/-- The data path's own registers take writes: they do not while it is in reset or off (R362). -/
def Port.takesWrites (r : Port) : Bool := r.unit != .resetting && r.unit != .off

def State.writeRxMask (s : State) (m : Master) (p : Nat) (v : Reg) : State :=
  if s.ownerWrites m && (s.prt p).takesWrites then s.modPrt p fun r => { r with rxMask := v } else s

def State.writeTxMask (s : State) (m : Master) (p : Nat) (v : Reg) : State :=
  if s.ownerWrites m && (s.prt p).takesWrites then s.modPrt p fun r => { r with txMask := v } else s

def execRxMaskWrite (t : Nat) (m : Master) (port : Nat) (v : Reg) (s : State) : Host.Outcome State Fault Refusal :=
  .next (s.access t m fun s => s.writeRxMask m port v)

def execTxMaskWrite (t : Nat) (m : Master) (port : Nat) (v : Reg) (s : State) : Host.Outcome State Fault Refusal :=
  .next (s.access t m fun s => s.writeTxMask m port v)

/-! ### Equinox groups (R263, R264) -/

/-- The member ports of a group, ascending. -/
def Eqx.ports (x : Eqx) : List Nat := (List.range 16).filter fun p => x.members.getLsbD p

def State.writeMembers (s : State) (m : Master) (e v : Nat) : State :=
  let x := s.eqxOf e
  let others := (List.range 4).filter (· != e)
  let taken := others.any fun o => (s.eqxOf o).members &&& BitVec.ofNat 16 v != 0
  if s.ownerWrites m && x.st == 0 && !taken then s.setEqx e { x with members := BitVec.ofNat 16 v } else s

/-- ARM: IDLE to ARMED when every member is enabled at one rate; masters hold their clocks. -/
def State.armEqx (s : State) (m : Master) (e : Nat) : State :=
  let x := s.eqxOf e
  let ps := x.ports
  if !s.ownerWrites m then s
  else if x.st = 0 ∧ (ps.all fun p => (s.prt p).en && (s.prt p).rate == (s.prt (ps.headD 0)).rate) then
    ps.foldl (fun s p => s.modPrt p fun r => { r with clockHeld := r.master, clock := if r.master then none else r.clock })
      (s.setEqx e { x with st := 1, armedAt := s.ctrl })
  else s.setEqx e { x with reject := true }

/-- CTRL cycles from the FIRE write to the earliest trigger. -/
def fireLead : Nat := 625

/-- FIRE: fixes the trigger cycle, from which each member awaits its frame 0. -/
def State.fireEqx (s : State) (m : Master) (e : Nat) : State :=
  let x := s.eqxOf e
  let trig := x.trigLo.toNat + 2 ^ 32 * x.trigHi.toNat
  if !s.ownerWrites m then s
  else if x.st = 1 ∧ (trig = 0 ∨ s.ctrl + fireLead ≤ trig) then
    let at_ := if trig = 0 then s.ctrl + fireLead else trig
    x.ports.foldl (fun s p => s.modPrt p fun r => { r with frame0At := some at_ }) (s.setEqx e { x with st := 2, t := at_ })
  else s.setEqx e { x with reject := true }

/-- DISARM: to IDLE from any state; before the trigger no frame 0 follows, and running channels continue. -/
def State.disarmEqx (s : State) (m : Master) (e : Nat) : State :=
  let x := s.eqxOf e
  if !s.ownerWrites m then s
  else
    let s1 := s.setEqx e { x with st := 0 }
    if x.st = 2 then x.ports.foldl (fun s p => s.modPrt p fun r => { r with frame0At := none }) s1 else s1

def execMembersWrite (t : Nat) (m : Master) (eqx : Nat) (v : Reg) (s : State) : Host.Outcome State Fault Refusal :=
  .next (s.access t m fun s => s.writeMembers m eqx v.toNat)
def execArm (t : Nat) (m : Master) (eqx : Nat) (s : State) : Host.Outcome State Fault Refusal :=
  .next (s.access t m fun s => s.armEqx m eqx)
def execFire (t : Nat) (m : Master) (eqx : Nat) (s : State) : Host.Outcome State Fault Refusal :=
  .next (s.access t m fun s => s.fireEqx m eqx)
def execDisarm (t : Nat) (m : Master) (eqx : Nat) (s : State) : Host.Outcome State Fault Refusal :=
  .next (s.access t m fun s => s.disarmEqx m eqx)

/-- The masters of a group restart their clocks together, within 2 nominal frame periods of ARM. -/
def State.restartMasters (s : State) (e : Nat) : State :=
  let x := s.eqxOf e
  x.ports.foldl (fun s p =>
    let r := s.prt p
    if r.clockHeld && decide ((s.ctrl - x.armedAt) * r.hz ≤ 2 * windowCtrl) then s.setPrt p (r.restartClock s.now)
    else s) s

def execEquinoxMasterRestart (t eqx : Nat) (s : State) : Host.Outcome State Fault Refusal :=
  .next ((s.advance t).restartMasters eqx)

/-- The trigger cycle comes: the group is RUNNING, and its masters restart their frame clocks (R264). -/
def State.triggerEqx (s : State) (e : Nat) : State :=
  let x := s.eqxOf e
  if s.controlUp && x.st == 2 && decide (s.ctrl = x.t) then
    x.ports.foldl (fun s p => s.modPrt p fun r => r.restartClock s.now) (s.setEqx e { x with st := 3 })
  else s

def execEquinoxTrigger (t eqx : Nat) (s : State) : Host.Outcome State Fault Refusal :=
  .next ((s.advance t).triggerEqx eqx)

/-- Offsets against the lowest-numbered member, at the end of a window after the fire (R265). -/
def State.offsetWindow (s : State) (e : Nat) : State :=
  let x := s.eqxOf e
  match x.ports with
  | [] => s
  | lead :: _ =>
    if s.controlUp && x.st == 3 && decide (s.ctrl % windowCtrl = 0) then
      let l := s.prt lead
      x.ports.foldl (fun s p => s.modPrt p fun r =>
        { r with eqxRx := satI32 (r.driftRx - l.driftRx), eqxTx := satI32 (r.driftTx - l.driftTx) }) s
    else s

def execEqxOffsetWindow (t eqx : Nat) (s : State) : Host.Outcome State Fault Refusal :=
  .next ((s.advance t).offsetWindow eqx)

/-! ### Frames -/

/-- The ports work; they stop when runs are abandoned and when a stop is declared (R323, Table 17-4). -/
def State.portsUp (s : State) : Bool :=
  s.controlUp && s.life.phase != .abandoned && s.life.phase != .stopDeclared

/-- The data path of port `p` works. -/
def State.portUp (s : State) (p : Nat) : Bool := s.portsUp && (s.prt p).works

/-- The frame clock of port `p` is watched. -/
def State.edgeUp (s : State) (p : Nat) : Bool := s.portsUp && (s.prt p).clocked

/-- A frame start at the edge of a port whose data path does not work: the edge and its clocks continue (R266,
Table 13-9), and NO_CLOCK clears where it is watched (R255). -/
def State.edgeStart (s : State) (p at_ : Nat) : State :=
  let r := s.prt p
  if at_ ≤ r.lastStart then s
  else if s.edgeUp p && r.noClock then (s.setPrt p { r with lastStart := at_, clock := r.clockFrom at_, noClock := false }).judgeAll
  else s.setPrt p { r with lastStart := at_, clock := r.clockFrom at_ }

/-- The value x of a received slot: the sample's bits at the top, the lower bits 0 (R249). -/
def rxValue (sampleBits : Nat) (w : BitVec 32) : Int :=
  let sb := bitsOfCode sampleBits
  sext 32 (w.toNat / 2 ^ (32 - sb) * 2 ^ (32 - sb))

/-- A received frame goes where the chain takes it (R250, R256, R260): discarded under RATE_FAULT, to the delay line
while it fills, else to the FIFO; `true` when it was discarded at a full FIFO. -/
def Port.takeFrame (r : Port) (f : Frame) : Port × Bool :=
  if r.rateFault then (r.driftR 1, false)
  else if r.underrun == .silence && decide (r.delayLine.length < 65) then ({ r with delayLine := r.delayLine ++ [f] }, false)
  else if r.rxFifo.length < 8 then ({ r with rxFifo := r.rxFifo ++ [f] }, false)
  else (r.driftR 1, true)

/-- A frame of port `p` that started at `start` has come in; one that began before the data path received is not whole
(R250; notes/assumptions/40.md). -/
def State.receiveFrame (s : State) (p start : Nat) (slots : List (BitVec 32)) : State :=
  let r0 := s.prt p
  if !r0.en || decide (s.now < start) || (r0.clockHeld && decide (r0.lastStart < start))
      || !r0.startsAt s.life.onRefclk start then s
  else if !s.portUp p then s.edgeStart p start
  else
    let s1 := s.frameStart p start
    let r := s1.prt p
    if start < r.since ∨ start < s.life.ctrlBase then s1
    else
      let f : Frame :=
        { slots := (List.range r.slotCount).map fun k => rxValue r.sampleBits (slots.getD k 0)
          mask := if start < r.lastStart then r.rxLatchedPrev else r.rxLatched }
      let (r1, full) := r.takeFrame f
      (s1.setPrt p r1).count (apRxFull p) (b2n full)

/-- Taps of port `p`, by their index in the tap list. -/
def State.tapsOf (s : State) (p : Nat) : List Nat :=
  (List.range s.vigil.image.taps.length).filter fun i => (s.vigil.image.taps.getD i (16, 0)).1 == p

/-- A frame reaches Vigil at the edge of a tapped port: it counts for the taps' hops, and TAP_LOST clears (R330, R332). -/
def State.tapFrame (s : State) (p : Nat) : State :=
  if s.vigil.running && (s.prt p).tapped then
    let bits : BitVec 64 := (s.tapsOf p).foldl (fun m i => m ||| BitVec.ofNat 64 (2 ^ i)) 0
    let v := s.vigil
    { s with
      vigil := { v with
        tapLost := v.tapLost &&& ~~~bits, lastFrame := tput 0 v.lastFrame p s.now
        frames := tput 0 v.frames p (tget 0 v.frames p + 1) } }
  else s

def execReceiveFrame (t port start : Nat) (slots : List (BitVec 32)) (s : State) : Host.Outcome State Fault Refusal :=
  .next (((s.advance t).tapFrame port).receiveFrame port start slots)

/-- A value as the pins send it (R249). -/
def txValue (sampleBits : Nat) (x : Int) : Int :=
  let sb := bitsOfCode sampleBits
  clampInt (-(2 ^ (sb - 1) : Nat)) ((2 ^ (sb - 1) : Nat) - 1) (rshiftRne x (32 - sb))

/-- A frame starts at the pins of port `p`: one frame of the transmit FIFO goes out, or a zero frame (R250, R261); where
the data path does not work, a zero frame. -/
def State.sendFrame (s : State) (p : Nat) : State :=
  if !(s.prt p).en || (s.prt p).clockHeld || !(s.prt p).startsAt s.life.onRefclk s.now then s
  else if !s.portUp p then (s.edgeStart p s.now).emit (.frame p (List.replicate (s.prt p).slotCount 0))
  else
    let s1 := s.frameStart p s.now
    let r := s1.prt p
    match r.txFifo with
    | f :: rest => (s1.setPrt p { r with txFifo := rest }).emit (.frame p (f.map (txValue r.sampleBits)))
    | [] =>
      ((s1.setPrt p (r.driftT 1)).count (apTxEmpty p) 1).emit (.frame p (List.replicate r.slotCount 0))

def execTransmitFrameStart (t port : Nat) (s : State) : Host.Outcome State Fault Refusal :=
  .next ((s.advance t).sendFrame port)

/-! ### Ticks -/

/-- The pace accumulator overflows in this CTRL cycle (R250). -/
def State.paceTick (s : State) (p : Nat) : State :=
  let r := s.prt p
  let acc := r.paceAcc + r.hz * (s.ctrl - r.paceCtrl)
  if s.portUp p && decide (625000000 ≤ acc) && decide (acc % 625000000 < r.hz) then
    ((s.setPrt p { r with paceAcc := acc % 625000000, paceCtrl := s.ctrl }).rxTick p).txTick p
  else s

def execPaceTick (t port : Nat) (s : State) : Host.Outcome State Fault Refusal := .next ((s.advance t).paceTick port)

/-! ### Windows -/

/-- A measurement window ends (R253 to R256). -/
def State.windowEnd (s : State) (p : Nat) : State :=
  let r := s.prt p
  if s.portUp p && decide (s.ctrl % windowCtrl = 0) then
    let n := s.ctrl / windowCtrl
    let s1 := s.setPrt p { r with window := r.windowNext, windowNext := {} }
    if r.window.idx + 1 = n then
      match r.window.measure r.hz with
      | some (rate, dev) => s1.windowResult p rate dev
      | none => s1
    else if r.window.idx = n then s
    else s1
  else s

def execRateWindowEnd (t port : Nat) (s : State) : Host.Outcome State Fault Refusal := .next ((s.advance t).windowEnd port)

/-- A 10 ms sub-window ends: a deviation beyond 2 % sets RATE_FAULT (R253, R256). -/
def State.subWindowEnd (s : State) (p : Nat) : State :=
  let r := s.prt p
  if s.portUp p && decide (s.ctrl % subWindowCtrl = 0) then
    let n := s.ctrl / subWindowCtrl
    let s1 := s.setPrt p { r with subWindow := r.subNext, subNext := {} }
    if r.subWindow.idx = n then s
    else
      let (fired, s2) := s1.fireArmed (devDetector (48 + 2 * p))
      if fired then s2.asInjected fun s => s.setRateFault p true
      else if r.subWindow.idx + 1 = n then
        match r.subWindow.measure r.hz with
        | some (_, dev) => if 20000000 < dev.natAbs then s1.setRateFault p true else s1
        | none => s1
      else s1
  else s

def execSubWindowEnd (t port : Nat) (s : State) : Host.Outcome State Fault Refusal := .next ((s.advance t).subWindowEnd port)

/-- NO_CLOCK sets with its cause (R255). -/
def State.setNoClock (s : State) (p : Nat) : State :=
  ((s.modPrt p fun r => { r with noClock := true }).portCause p 0b1000).judgeAll

/-- No frame start for 4 nominal frame periods (R255), or the armed detector sees as much (R368). -/
def State.loseClock (s : State) (p : Nat) : State :=
  let r := s.prt p
  if s.edgeUp p && !r.noClock then
    let (fired, s1) := s.fireArmed (devDetector (49 + 2 * p))
    if fired then s1.asInjected fun s => s.setNoClock p
    else if decide (4 * 2500000000 ≤ (s.now - r.lastStart) * r.hz) then s.setNoClock p
    else s
  else s

def execNoClock (t port : Nat) (s : State) : Host.Outcome State Fault Refusal := .next ((s.advance t).loseClock port)

end Sys2Proof.Machine
end

