-- ==== Sys2Proof/Machine/Rings.lean ====
section
/-! DEFINITION. The PCIe host's interface: doorbells and ring control (R274 to R276), message coalescing (R279), link, function
level reset and PERST_N (R271, R400), device interrupts and MSI-X masks (R411), configuration requests (R377). -/

namespace Sys2Proof.Machine

/-- The PCIe host reaches the registers (R271, R408). -/
def State.pcieUp (s : State) : Bool := s.regReach .pcie

def doorbellErrors : Nat := 0x2A2104
def linkDowns : Nat := 0x2A2108

/-- An illegal doorbell write is counted and recorded (R275). -/
def State.doorbellError (s : State) (ring : Nat) (injected : Bool) : State :=
  (s.count doorbellErrors 1).logAs injected 0x0161 noUnit noUnit 0 (leBytes 1 ring ++ leBytes 1 0)

/-! ### Doorbells -/

/-- A new tail is legal: below the size, and the new entries fit (R275). -/
def SqRing.tailLegal (r : SqRing) (tail : Nat) : Bool :=
  decide (tail < r.size) &&
    decide ((r.tail + r.size - r.head) % r.size + (tail + r.size - r.tail) % r.size < r.size)

def State.sqDoorbell (s : State) (ring tail : Nat) : State :=
  let r := s.sqr ring
  if decide (64 ≤ ring) || !r.en then s
  else
    let (fired, s1) := s.fireArmed (devDetector 106)
    if r.tailLegal (tail % 4096) && !fired then s1.setSq ring { r with tail := tail % 4096 }
    else (s1.setSq ring { r with error := true, en := false }).doorbellError ring (r.tailLegal (tail % 4096))

def execSqTail (t ring tail : Nat) (s : State) : Host.Outcome State Fault Refusal := 
  .next (s.access t .pcie fun s => s.sqDoorbell ring tail)

/-- A new head is legal: between the old head and the device's tail. -/
def CqRing.headLegal (r : CqRing) (head : Nat) : Bool :=
  decide (head < r.size) && decide ((head + r.size - r.head) % r.size ≤ (r.tail + r.size - r.head) % r.size)

def State.cqDoorbell (s : State) (ring head : Nat) : State :=
  let r := s.cqr ring
  if decide (64 ≤ ring) || !r.en then s
  else
    let (fired, s1) := s.fireArmed (devDetector 106)
    if r.headLegal (head % 4096) && !fired then
      State.postBacklog ring (r.backlog.length + 1) (s1.setCq ring { r with head := head % 4096 })
    else (s1.setCq ring { r with error := true, en := false }).doorbellError ring (r.headLegal (head % 4096))

def execCqHead (t ring head : Nat) (s : State) : Host.Outcome State Fault Refusal := 
  .next (s.access t .pcie fun s => s.cqDoorbell ring head)

/-! ### Ring control (R276, Tables 12-6, 12-7) -/

/-- LOG2_SIZE as a write leaves it. -/
def newLog2 (old v : Nat) : Nat := if v = 0 ∨ 12 < v then old else v

/-- Fields of word +0x08. -/
def regField (v : Reg) (lo n : Nat) : Nat := bits v.toNat lo n
def regBit (v : Reg) (i : Nat) : Bool := bit v.toNat i

/-- A write of word +0x08 of RING_SQ with EN = 1. -/
def State.sqEnable (s : State) (ring : Nat) (v : Reg) : State :=
  let r := s.sqr ring
  if decide (64 ≤ ring) || r.en || !(s.cqr (regField v 5 6)).en then s
  else s.setSq ring
    { r with en := true, error := false, log2 := newLog2 r.log2 (regField v 1 4), cq := regField v 5 6, head := 0, tail := 0 }

def execRingSqEnable (t ring : Nat) (v : Reg) (s : State) : Host.Outcome State Fault Refusal :=
  .next (s.access t .pcie fun s => s.sqEnable ring v)

/-- A write of word +0x08 of RING_SQ with EN = 0. -/
def State.sqDisable (s : State) (ring : Nat) (v : Reg) : State :=
  let r := s.sqr ring
  if decide (64 ≤ ring) then s
  else if r.en then s.setSq ring { r with en := false }
  else s.setSq ring { r with log2 := newLog2 r.log2 (regField v 1 4), cq := regField v 5 6 }

def execRingSqDisable (t ring : Nat) (v : Reg) (s : State) : Host.Outcome State Fault Refusal :=
  .next (s.access t .pcie fun s => s.sqDisable ring v)

/-- VECTOR, IEN and OVERFLOW as a write leaves them, and LOG2_SIZE of a ring that is not enabled. -/
def CqRing.writeCtl (r : CqRing) (v : Reg) : CqRing :=
  { r with
    log2 := if r.en then r.log2 else newLog2 r.log2 (regField v 1 4), vector := regField v 5 8, ien := regBit v 13
    overflow := r.overflow && !regBit v 14 }

/-- A write of word +0x08 of RING_CQ with EN = 1; a ring that it enables gets its backlog (R271, R278). -/
def State.cqEnable (s : State) (ring : Nat) (v : Reg) : State :=
  let r := s.cqr ring
  if decide (64 ≤ ring) then s
  else if r.en then s.setCq ring (r.writeCtl v)
  else
    State.postBacklog ring (r.backlog.length + 1)
      (s.setCq ring
        { r.writeCtl v with en := true, error := false, head := 0, tail := 0, phase := true, unsignalled := 0, firstAt := 0 })

def execRingCqEnable (t ring : Nat) (v : Reg) (s : State) : Host.Outcome State Fault Refusal :=
  .next (s.access t .pcie fun s => s.cqEnable ring v)

/-- An enabled submission ring is bound to completion ring `ring`. -/
def State.cqBound (s : State) (ring : Nat) : Bool :=
  (List.range 64).any fun n => (s.sqr n).en && (s.sqr n).cq == ring

/-- A write of word +0x08 of RING_CQ with EN = 0. -/
def State.cqDisable (s : State) (ring : Nat) (v : Reg) : State :=
  let r := s.cqr ring
  if decide (64 ≤ ring) then s
  else s.setCq ring { r.writeCtl v with en := r.en && s.cqBound ring }

def execRingCqDisable (t ring : Nat) (v : Reg) (s : State) : Host.Outcome State Fault Refusal :=
  .next (s.access t .pcie fun s => s.cqDisable ring v)

/-- COAL_US has passed since the first entry without a message (R279). -/
def State.coalesce (s : State) (ring : Nat) : State :=
  let r := s.cqr ring
  if r.en && r.ien && r.coalUs != 0 && r.unsignalled != 0 && decide (r.firstAt + usCycles * r.coalUs ≤ s.now) then
    s.signalCq ring
  else s

def execCoalesceTimeout (t ring : Nat) (s : State) : Host.Outcome State Fault Refusal := .next ((s.advance t).coalesce ring)

/-! ### Link and resets of the function -/

/-- Every ring is disabled (R271). -/
def State.disableRings (s : State) : State :=
  { s with
    sq := (List.range 64).foldl (fun t n => tmod {} t n fun r => { r with en := false }) s.sq
    cq := (List.range 64).foldl (fun t n => tmod {} t n fun r => { r with en := false }) s.cq }

def State.linkFalls (s : State) : State :=
  if s.hif.linkUp then
    (({ s with hif := { s.hif with linkUp := false, speed := 0, width := 0, flit := false } } : State).disableRings).count
      linkDowns 1
  else s

def execLinkDown (t : Nat) (s : State) : Host.Outcome State Fault Refusal := .next ((s.advance t).linkFalls)

/-- The link has trained (R269, R271, R377): PERST_N is high and the control domain has left its first reset. At 64 GT/s it is
in FLIT mode (Table 12-2). -/
def State.linkRises (s : State) (speed width : Nat) (flit : Bool) : State :=
  if s.controlUp && s.life.perstN && (speed != 6 || flit) then
    { s with hif := { s.hif with linkUp := true, speed, width, flit } }
  else s

def execLinkUp (t speed width : Nat) (flit : Bool) (s : State) : Host.Outcome State Fault Refusal :=
  .next ((s.advance t).linkRises speed width flit)

/-- Backlogs are discarded, each entry counted in DROPPED (R271). -/
def State.dropBacklogs (s : State) : State :=
  (List.range 64).foldl (fun s n =>
    let r := s.cqr n
    if r.backlog.isEmpty then s else (s.setCq n { r with backlog := [] }).count (cqDropped n) (r.backlog.filter fun e => !e.isEmpty).length) s

/-- What a function-level reset and a low PERST_N do (R271, R400, R411). -/
def State.resetFunction (s : State) : State :=
  let s1 := s.disableRings.dropBacklogs
  { s1 with hif := { s1.hif with msix := [], pba := [], functionMasked := false, d3hot := false, devIntEn := 0, devIntVec := [] } }

def execFunctionLevelReset (t : Nat) (s : State) : Host.Outcome State Fault Refusal :=
  .next (if (s.advance t).hif.linkUp then (s.advance t).resetFunction else s.advance t)

def State.perstFalls (s : State) : State :=
  if s.standbyUp && s.life.perstN then
    let s1 := s.linkFalls.resetFunction
    { s1 with life := { s1.life with perstN := false } }
  else { s with life := { s.life with perstN := false } }

def execPerstNLow (t : Nat) (s : State) : Host.Outcome State Fault Refusal := .next ((s.advance t).perstFalls)

/-- PERST_N rises; the link trains again (LINK_UP). -/
def State.perstRises (s : State) : State := { s with life := { s.life with perstN := true } }

def execPerstNHigh (t : Nat) (s : State) : Host.Outcome State Fault Refusal := .next ((s.advance t).perstRises)

/-- Words of the configuration space that the spec gives a value: identifiers and subsystem identifiers (R409), class code
(Table 12-2), with the places that PCIe gives them (PRESUMED, notes/assumptions/60.md). -/
def configWord (w : Nat) : Option Nat :=
  if w = 0 ∨ w = 11 then some 0x12001FD3
  else if w = 2 then some (0x120000 * 256 + stepping)
  else none

/-- A configuration request is answered with Request Retry Status until 100 ms after P (R377), and is completed from then on. A
write of the power state takes the function to D3hot or back to D0 (Table 12-2). -/
def State.configRequest (s : State) (req : ConfigReq) : State :=
  if !s.hif.linkUp then s
  else if s.now < s.life.pupAt + 100 * msCycles then s.emit .configRetry
  else
    match req with
    | .read w => s.emit (.configDone ((configWord w).map fun v => BitVec.ofNat 32 v))
    | .power d => ({ s with hif := { s.hif with d3hot := d } } : State).emit (.configDone none)
    | .other => s.emit (.configDone none)

def execConfigurationRequest (t : Nat) (s : State) (req : ConfigReq := .other) : Host.Outcome State Fault Refusal :=
  .next ((s.advance t).configRequest req)

/-! ### Device interrupts and MSI-X (R411) -/

/-- A W1C write to DEV_INT, with the causes whose events fall in the same CTRL cycle: they end set, and signal as if
they had risen. -/
def State.clearInts (s : State) (v : Reg) (event : BitVec 12) : State :=
  let w : BitVec 12 := v.setWidth 12
  let again := s.hif.devInt &&& w &&& event
  let s1 : State := { s with hif := { s.hif with devInt := s.hif.devInt &&& ~~~w } }
  let s2 := s1.raiseInts ((List.range 12).filter fun k => event.getLsbD k && !again.getLsbD k)
  let s3 : State := { s2 with hif := { s2.hif with devInt := s2.hif.devInt ||| again } }
  (((List.range 12).filter fun k => again.getLsbD k && s3.hif.devIntEn.getLsbD k).map s3.causeVector).eraseDups.foldl
    (fun s v => s.sendMsi v) s3

/-- A write to DEV_INT: the PCIe host's takes effect whether or not it owns the device, the sideband's does not. -/
def State.devIntWrite (s : State) (m : Master) (v : Reg) (event : BitVec 12) : State :=
  if s.controlUp then s.clearInts (if s.regReach m && m == .pcie then v else 0) event else s

def execDevIntClear (t : Nat) (m : Master) (v : Reg) (event : BitVec 12) (s : State) : Host.Outcome State Fault Refusal :=
  .next ((s.atCtrl t).devIntWrite m v event)

/-- A write to DEV_INT_EN sends a message for each bit that is 1 and that it enables. -/
def State.writeIntEn (s : State) (v : Reg) : State :=
  let w : BitVec 12 := v.setWidth 12
  let fresh := s.hif.devInt &&& w &&& ~~~s.hif.devIntEn
  let s1 : State := { s with hif := { s.hif with devIntEn := w } }
  s1.sendCauses (((List.range 12).filter fun k => fresh.getLsbD k).map s1.causeVector)

def State.devIntEnWrite (s : State) (m : Master) (v : Reg) : State :=
  if m == .pcie then s.writeIntEn v else s

def execDevIntEnWrite (t : Nat) (m : Master) (v : Reg) (s : State) : Host.Outcome State Fault Refusal :=
  .next (s.access t m fun s => s.devIntEnWrite m v)

/-- A pending message of vector `v` goes once neither the vector nor the function is masked. -/
def State.flushMsi (s : State) (v : Nat) : State :=
  if s.hif.pba.contains v && !s.hif.functionMasked && !(s.msixEntry v).masked then
    ({ s with hif := { s.hif with pba := s.hif.pba.filter (· != v) } } : State).sendMsi v
  else s

/-- The mask bit of a vector is cleared. -/
def State.unmask (s : State) (v : Nat) : State :=
  if v < 256 then
    ({ s with hif := { s.hif with msix := tmod {} s.hif.msix v fun e => { e with masked := false } } } : State).flushMsi v
  else s

def execMsixUnmask (t vector : Nat) (s : State) : Host.Outcome State Fault Refusal := .next (s.access t .pcie fun s => s.unmask vector)

end Sys2Proof.Machine
end

