-- ==== Sys2Proof/Machine/Power.lean ====
section
/-! DEFINITION. Power and junction limits: the set cap and the cap in force (R317), levels and the cap controller (R318, R319),
power intervals with the power model's calibration (R312, R313, R371), sensors (R321, R322), and the declaration of a stop
(R323). -/

namespace Sys2Proof.Machine

/-! ### Figures of PWR_STAT -/

/-- The cap in force (R317). -/
def Power.inForce (p : Power) : Nat := min p.capSet p.thermalCap

/-- MEASURED_W and ESTIMATE_W: the last interval's figures in whole watts. -/
def Power.measuredW (p : Power) : Nat :=
  match p.recent with
  | x :: _ => min 0xFFFF (Config.roundTo x.1 1000)
  | [] => 0
def Power.estimateW (p : Power) : Nat :=
  match p.recent with
  | x :: _ => min 0xFFFF (Config.roundTo x.2 4096000)
  | [] => 0

/-- HOTTEST_C (R321). -/
def Power.hottest (p : Power) : Nat := maxOf p.sensors

/-- The throttle flags of R326. -/
def Power.flags (p : Power) : Nat :=
  b2n (0 < p.l) + 2 * b2n (0 < p.m) + 4 * b2n (p.thermalCap < 850) + 8 * b2n p.mismatchActive + 16 * b2n (p.sinceGap < 10)

/-- While the cap in force is 850 W, L and M are 0 (R318). -/
def Power.unthrottled (p : Power) : Power := if 850 ≤ p.inForce then { p with l := 0, m := 0 } else p

/-! ### POWER_QUERY -/

def infoPowerQuery : CmdInfo := { op := 0x0401, cls := .read, inRange := true }

def effPowerQuery (i : Inflight) (s : State) : State :=
  let p := s.power
  s.finish i.id stSuccess (resultOf
    [(12, leBytes 2 p.inForce), (14, leBytes 2 p.measuredW), (16, leBytes 2 p.estimateW), (18, leBytes 1 (min 255 p.hottest))
    , (19, leBytes 1 p.flags), (20, leBytes 2 p.capSet)])

def execPowerQuery (t : Nat) (h : Hdr) (s : State) : Host.Outcome State Fault Refusal :=
  .next (s.hostCommand t h (.powerQuery t h) infoPowerQuery effPowerQuery)

/-! ### Stop (R323) -/

/-- A chunk whose run is abandoned waits again. -/
def Chunk.abandon (c : Chunk) : Chunk := { c with pos := .waiting }

/-- Every run, commit and transfer of group `g` is abandoned. -/
def State.abandonGroup (s : State) (g : Nat) : State :=
  (s.homed g).foldl (fun s n => s.modStr n fun r => { r with chunks := r.chunks.map Chunk.abandon })
    (s.modGrp g fun G =>
      { G with plan := [], cur := none, quiesce := none, wideQ := [], gap := none, lanes := [], hold := none
               almStart := none, almTest := none, awaitSlot := false, swaps := [], swapQ := [] })
def State.abandonGroups (s : State) : State := (List.range 48).foldl (fun s g => s.abandonGroup g) s

/-- A stop is declared: every run, commit and transfer ends at once, the cause is kept in the standby domain, recorded and
signalled. Control logic that is in reset has no clock to lose. -/
def State.declareStop (s : State) (cause : Nat) : State :=
  if s.isStopped || !s.standbyUp || s.life.phase == .off then s
  else
    let s1 := (s.abandonGroups.logEvent 0x0007 noUnit noUnit 0 (leBytes 1 cause)).emit (.inBand ibiStop)
    { s1 with
      safety := { s1.safety with seq := false, set := none, ownerCmd := none }
      life := { s1.life with
        phase := if s.controlUp then .stopDeclared else .stopGated
        ready := false, armed := false, stopCause := cause, stopAt := s.now, stopOpen := true } }

/-! ### Sensors -/

/-- CORE cycles between two readings. -/
def sensorCycles : Nat := 25000

/-- Some sensor read 105 °C or more both times (R322). -/
def overTemp (before now : List Nat) : Bool := (List.zip before now).any fun x => decide (105 ≤ x.1) && decide (105 ≤ x.2)

/-- The sensors are read (R321): GRP_PWR.JUNCTION_C by group, and the stop of R322. -/
def State.sensorRead (s : State) (readings : List Nat) : State :=
  let n := (s.now - s.life.pupAt) / sensorCycles
  if s.standbyUp && decide ((s.now - s.life.pupAt) % sensorCycles = 0) && decide (s.power.sensorNo < n) then
    let past := overTemp s.power.sensors readings
    let s1 : State :=
      { s with power := { s.power with sensorsBefore := s.power.sensors, sensors := readings, sensorNo := n } }
    let s2 := (List.range 48).foldl (fun s g => s.modGrp g fun G => { G with junction := readings.getD g 0 }) s1
    if past then s2.declareStop 2 else s2
  else s

def execSensorRead (t : Nat) (readings : List Nat) (s : State) : Host.Outcome State Fault Refusal :=
  .next ((s.advance t).sensorRead readings)

/-! ### Power intervals -/

def pwrMismatches : Nat := 0x2B0C10
def pwrThrottled : Nat := 0x2B0C14
def grpDroop (g : Nat) : Nat := grpPwr g + 0x0C

/-- The upper clamp of κ (R312). -/
def kappaMax : Nat := 4505

/-- A declaration of a mismatch (steps 1 and 4 of R313); 100 intervals that agree have to follow it (step 5). -/
def State.declareMismatch (s : State) (injected : Bool) : State :=
  let s1 : State := { s with power := { s.power with mismatch := true, mismatchActive := true, agree := 0 } }
  ((s1.count pwrMismatches 1).logAs injected 0x0171 noUnit noUnit 0 (leBytes 1 0)).raiseInts [intPower]

/-- κ after a recalibration over the intervals of the list, rounded up and before its clamp; unchanged where ΣP_a is 0. -/
def newKappa (kappa : Nat) (l : List (Nat × Nat)) : Nat :=
  let pa := sumOf (l.map (·.2))
  if pa = 0 then kappa else ceilDiv (4096 * kappa * sumOf (l.map (·.1))) pa

/-- Step 2 of R313; a recalibration that the upper clamp limits is a lasting fault of the power model (R371). -/
def State.recalibrate (s : State) : State :=
  let k := newKappa s.power.kappa s.power.recent
  let s1 : State := { s with power := { s.power with kappa := max 2048 (min kappaMax k) } }
  if kappaMax < k then
    ((s1.logEvent 0x0171 noUnit noUnit 0 (leBytes 1 1)).writeRecord 6 kappaMax .other).setService
  else s1

/-- The interval's comparison: P_m in mW and P_a in 1⁄4,096 mW disagree (R313). -/
def disagrees (pm pa : Nat) : Bool := decide (4096 * pm < ((pa : Int) - (4096 * pm : Nat)).natAbs * 4)

/-- Disagreeing and agreeing intervals counted, and what their runs bring about (R313). -/
def State.judgeModel (s : State) (pm pa : Nat) : State :=
  if disagrees pm pa then
    let n := s.power.disagree + 1
    if n = 11 then
      let s1 : State := { s with power := { s.power with disagree := 0, agree := 0 } }
      (s1.declareMismatch false).recalibrate
    else { s with power := { s.power with disagree := n, agree := 0 } }
  else
    let n := s.power.agree + 1
    { s with power := { s.power with
        disagree := 0, agree := n, mismatchActive := s.power.mismatchActive && decide (n < 100) } }

/-- A group's raw estimate in µW: its counts weighted with their energies, 1 nJ in an interval of 1 ms being 1 µW, and the leakage
at its junction temperature (R312). The counts are an operand (notes/assumptions/51.md). -/
def rawEstimate (counts : List Nat) (junction : Nat) : Nat :=
  sumOf (counts.mapIdx fun k n => n * Config.energy k) + Config.leakage junction

/-- A power interval of 1 ms ends, counted as 100,000 REFCLK cycles (R312). -/
def State.powerInterval (s : State) (pm : Nat) (activity : List (List Nat)) (fixed : Nat) (supply droop : List Nat) : State :=
  let n := (s.now - s.life.pupAt) / msCycles
  if s.standbyUp && s.life.refclk && s.life.phase != .off && decide ((s.now - s.life.pupAt) % msCycles = 0)
      && decide (s.power.intervalNo < n) then
    let kappa := s.power.kappa
    let raw (g : Nat) : Nat := rawEstimate (activity.getD g []) (s.grp g).junction
    let pa := Config.roundTo (kappa * sumOf ((List.range 48).map raw)) 1000 + 4096 * fixed
    let s1 : State :=
      { s with
        power := { s.power with
          recent := (pm, pa) :: s.power.recent.take 10, intervalNo := n, sinceGap := s.power.sinceGap + 1 }
        life := { s.life with supply } }
    let s2 := (List.range 48).foldl (fun s g =>
      (s.modGrp g fun G => { G with estimate := min 0xFFFF (Config.roundTo (kappa * raw g) 40960000) }).countMax (grpDroop g)
        (droop.getD g 0)) s1
    let s3 := s2.judgeModel pm pa
    let (fired, s4) := s3.fireArmed (devDetector 91)
    if fired then s4.declareMismatch true else s4
  else s

def execPowerInterval (t pm : Nat) (activity : List (List Nat)) (fixed : Nat) (supply droop : List Nat) (s : State) :
    Host.Outcome State Fault Refusal := .next ((s.advance t).powerInterval pm activity fixed supply droop)

/-! ### The cap controller -/

/-- The thermal cap after an update (R321). -/
def newThermal (cap hottest : Nat) : Nat :=
  if 95 ≤ hottest then max 300 (cap - 10) else if hottest ≤ 90 then min 850 (cap + 5) else cap

/-- LMAX of R318. -/
def lMax (q : Nat) : Nat := min 255 ((4900000 - q) / 18750)

/-- P of R318 in whole watts. -/
def Power.controlW (p : Power) : Nat :=
  let l := p.recent.take 10
  let vals := l.map fun x => if p.mismatchActive then max (4096 * x.1) x.2 else 4096 * x.1
  ceilDiv (sumOf vals) (4096000 * max 1 l.length)

/-- cap_update of R318. -/
def Power.capUpdate (p : Power) (q : Nat) : Power :=
  let top := lMax q
  let l := min p.l top
  let cap := p.inForce
  let w := p.controlW
  if 850 ≤ cap then { p with l := 0, m := 0 }
  else if cap < w then
    if l < top then { p with l := min top (l + ceilDiv (w - cap) 2) }
    else if p.m < 8 then { p with l, m := p.m + 1 } else { p with l }
  else if w + 10 ≤ cap then
    if 0 < p.m then { p with l, m := p.m - 1 } else { p with l := l - 1 }
  else { p with l }

/-- Every 10 power intervals core 3 updates the thermal cap and runs the controller (R318, R321). -/
def State.capUpdate (s : State) : State :=
  let p := s.power
  if s.firmwareUp && decide (p.intervalNo % 10 = 0) && decide (p.updateNo < p.intervalNo) then
    let cap := newThermal p.thermalCap p.hottest
    let p1 := ({ p with thermalCap := cap, updateNo := p.intervalNo } : Power).capUpdate (1000 * s.cfg.holdReserve)
    let s1 : State := { s with power := p1 }
    let s2 := if p.thermalCap = 850 ∧ cap < 850 then s1.raiseInts [intThermal] else s1
    if 0 < p1.l ∨ 0 < p1.m then s2.count pwrThrottled 1 else s2
  else s

end Sys2Proof.Machine
end

