-- ==== Sys2Proof/Machine/Regs.lean ====
section
/-! DEFINITION. The register map (Table 19-1): what a read of a word returns and brings about (R7, R273, R362, R407, R408),
what a write brings about (R7, R8, R273), and the commands and events that read and write: REG_READ, REG_WRITE,
REGISTER_WRITE, READ_CLEAR, PAIR_LO_READ. -/

namespace Sys2Proof.Machine

/-! ### Words -/

/-- What stands at an offset. -/
inductive RegWord where
  /-- a value that a read leaves as it is -/
  | plain (v : Nat)
  /-- a field that the owner's read clears; it stands in `State.ctr` -/
  | counter
  /-- the LO word of a pair with its 64-bit value -/
  | lo (v : Nat)
  /-- the HI word of the pair whose LO word lies 4 bytes below -/
  | hi
deriving DecidableEq, Repr

/-- Entry and offset in it of an array's offset. -/
def arrayAt (off base stride count : Nat) : Option (Nat × Nat) :=
  if base ≤ off ∧ off < base + stride * count then some ((off - base) / stride, (off - base) % stride) else none

/-- An offset of 4 bytes in the list names an RC field. -/
def counterIn (l : List Nat) (w : Nat) (other : RegWord) : RegWord := if l.contains w then .counter else other

/-- An offset whose field is the latest value of a counter store. -/
def State.latest (s : State) (o : Nat) : RegWord := .plain (s.ctrAt o)

/-! ### Groups -/

/-- The group is in a reset of its own, or power-gated (R362, R364). -/
def State.groupReset (s : State) (g : Nat) : Bool :=
  let G := s.grp g
  G.unit == .resetting || G.unit == .off || (s.groupsWork && !G.running)

def State.expReset (s : State) (g : Nat) : Bool :=
  let u := (s.grp g).expUnit
  s.groupReset g || u == .resetting || u == .off

/-- STATE of Table 3-7. During an overrun it stays PLAN until the run of the previous round has ended (R49); a failure
is entered from every state, a hold from RUN alone (notes/assumptions/33.md). -/
def State.seqState (s : State) (g : Nat) : Nat :=
  let G := s.grp g
  if s.groupReset g || G.unit == .disabled || G.heldBy != .none then 6
  else if G.quiesce.isSome then 5
  else if G.awaitSlot then 1
  else if G.cur.isSome then (if G.isHeld (s.clk g) then 4 else 3)
  else if G.gap.isSome then 7
  else if G.almStart.isSome then 2
  else 0

/-- The current run: the one in progress, or a failed one until its quiescing is over. -/
def Group.currentRun (G : Group) : Option Run :=
  match G.cur with
  | some r => some r.run
  | none => G.quiesce.map fun q => q.info.run

/-- IMAGE, VARIANT and RUN_CHUNKS of the current run. -/
def State.runFields (s : State) (g : Nat) : Nat :=
  match (s.grp g).currentRun with
  | some r => 2 ^ 8 * r.image + 2 ^ 16 * r.variant + 2 ^ 22 * r.chunks.length
  | none => 0

/-- The schedule counter as it reads. -/
def State.schedCount (s : State) (g : Nat) : Nat :=
  let G := s.grp g
  (if G.cur.isSome then G.sched (s.clk g) else G.schedVal) % 2 ^ 32

/-- RETIRED: what the register shows of more than 255 the spec does not say (notes/assumptions/3.md). -/
def State.retiredCount (s : State) (g : Nat) : Nat :=
  let n := sumOf (s.loaded.map fun h => ((s.img h).retired.filter fun p => p.1 == g).length)
  if n ≤ 255 then n else (Config.freeValue n) % 256

def State.wGrpSvc (s : State) (g w : Nat) : RegWord :=
  let G := s.grp g
  if w = 0x00 then .plain (s.admitNeed g % 2 ^ 32)
  else if w = 0x04 then .plain G.budget
  else if w = 0x08 then .plain (b2n G.capacityShort)
  else if w = 0x20 then .plain (s.sHomed g)
  else if w = 0x24 then .plain ((s.homed g).filter fun n => (s.str n).cls == .c).length
  else counterIn [0x0C, 0x10, 0x14, 0x18, 0x1C] w (.plain 0)

def State.wGrpSeq (s : State) (g w : Nat) : RegWord :=
  if w = 0x00 then .plain (s.seqState g + s.runFields g)
  else if w = 0x04 then .plain (s.schedCount g)
  else if w = 0x24 then .plain (s.retiredCount g)
  else if w = 0x28 then .lo (toTwos 64 (s.clk g))
  else if w = 0x2C then .hi
  else counterIn [0x08, 0x0C, 0x10, 0x14, 0x18, 0x1C, 0x20] w (.plain 0)

/-- Physical clusters that serve the group's logical ones. -/
def Group.activeClusters (G : Group) : List Nat := G.remap.filter fun p => decide (p < 26)

def State.fieldMapouts (s : State) (g : Nat) : Nat :=
  (s.repair.journal.filter fun r => r.kind == 1 && r.origin == 1 && bits r.location 0 6 == g
    && (s.grp g).activeClusters.contains (bits r.location 6 5)).length

def State.spareLeftMin (s : State) (g : Nat) : Nat :=
  64 - maxOf ((s.grp g).activeClusters.flatMap fun p =>
    (List.range 4).map fun b => (rowRecords s.repair.journal g p b).length)

def State.wGrpSpad (s : State) (g w : Nat) : RegWord :=
  if w = 0x14 then .plain (s.fieldMapouts g)
  else if w = 0x18 then .plain (s.spareLeftMin g)
  else if w = 0x1C then .plain (b2n (!(s.grp g).mapouts.isEmpty))
  else counterIn [0x00, 0x04, 0x08, 0x0C, 0x10] w (.plain 0)

def State.wGrpMtx (s : State) (g w : Nat) : RegWord :=
  if w = 0x2C then s.latest (grpMtx g + w)
  else counterIn [0x00, 0x04, 0x08, 0x0C, 0x10, 0x14, 0x18, 0x1C, 0x20, 0x24, 0x28, 0x30] w (.plain 0)

def State.wGrpVec (s : State) (g w : Nat) : RegWord :=
  if w = 0x1C then s.latest (grpVec g + w) else counterIn [0x00, 0x04, 0x08, 0x0C, 0x10, 0x14, 0x18] w (.plain 0)

def State.wGrpScl (s : State) (g w : Nat) : RegWord :=
  if w = 0x18 then s.latest (grpScl g + w) else counterIn [0x00, 0x04, 0x08, 0x0C, 0x10, 0x14] w (.plain 0)

def State.wGrpState (s : State) (g w : Nat) : RegWord :=
  let G := s.grp g
  if w = 0x18 then
    .plain ((G.slots.filter fun l => l.2.valid).length + 2 ^ 8 * (G.slots.filter fun l => l.2.pinned).length)
  else if w = 0x1C then .plain G.swaps.length
  else counterIn [0x00, 0x04, 0x08, 0x0C, 0x10, 0x14] w (.plain 0)

def State.wGrpExp (s : State) (g w : Nat) : RegWord :=
  if w = 0x28 ∨ w = 0x2C then s.latest (grpExp g + w)
  else counterIn [0x00, 0x04, 0x08, 0x0C, 0x10, 0x14, 0x18, 0x1C, 0x20, 0x24] w (.plain 0)

/-- HEALTH of Table 16-11. -/
def Group.health (G : Group) : Nat :=
  match G.heldBy with
  | .exhausted => 2
  | .latent => 3
  | .none => if G.spare = 25 then 0 else 1

def State.wGrpRepair (s : State) (g w : Nat) : RegWord :=
  let G := s.grp g
  if w = 0x00 then .plain (G.spare % 32 + 32 * G.health)
  else if w = 0x04 then .plain G.clusterOk.toNat
  else if w = 0x18 then .plain G.latent
  else counterIn [0x08, 0x0C, 0x10, 0x14] w (.plain 0)

def State.wGrpPwr (s : State) (g w : Nat) : RegWord :=
  if w = 0x00 then .plain ((s.grp g).estimate + 2 ^ 16 * min 255 (s.grp g).junction)
  else counterIn [0x04, 0x08, 0x0C] w (.plain 0)

def State.wGrpSafe (s : State) (g w : Nat) : RegWord :=
  if w = 0x14 then .plain (s.grp g).tests.length
  else if w = 0x18 then s.latest (grpSafe g + w)
  else if w = 0x1C then .plain ((s.grp g).visit % 2 ^ 32)
  else counterIn [0x00, 0x04, 0x08, 0x0C, 0x10] w (.plain 0)

/-- A block of a group in reset reads its reset values; its sequencer is DISABLED (R362, Table 3-7). -/
def resetWord (page w : Nat) : RegWord :=
  if page = 0x21 ∧ w = 0 then .plain 6 else if page = 0x22 ∧ w = 0x18 then .plain 0x40 else .plain 0

/-- The word of a group block: page number, group, offset. -/
def State.wGroup (s : State) (page g w : Nat) : RegWord :=
  if page = 0x27 ∧ s.expReset g then .plain 0
  else if (page = 0x21 ∨ page = 0x22 ∨ page = 0x23 ∨ page = 0x24 ∨ page = 0x25 ∨ page = 0x26) ∧ s.groupReset g then
    resetWord page w
  else if page = 0x21 then s.wGrpSeq g w
  else if page = 0x22 then s.wGrpSpad g w
  else if page = 0x23 then s.wGrpMtx g w
  else if page = 0x24 then s.wGrpVec g w
  else if page = 0x25 then s.wGrpScl g w
  else if page = 0x26 then s.wGrpState g w
  else if page = 0x27 then s.wGrpExp g w
  else if page = 0x2B then s.wGrpPwr g w
  else if page = 0x2C then s.wGrpSafe g w
  else s.wGrpRepair g w

/-! ### Memory channels -/

def State.wMemCh (s : State) (c w : Nat) : RegWord :=
  let ch := s.memCh c
  if w = 0x00 then .plain (ch.st + 2 ^ 8 * min 255 ch.tempC)
  else if w = 0x18 then .plain (channelRecords s.repair.journal 3 c).length
  else if w = 0x1C then .plain ch.pages.length
  else if w = 0x24 then s.latest (memChReg c + w)
  else counterIn [0x04, 0x08, 0x0C, 0x10, 0x14, 0x20] w (.plain 0)

/-! ### Ports -/

def Port.inReset (r : Port) : Bool := r.unit == .resetting || r.unit == .off

/-- PORT_STAT. -/
def State.portStat (s : State) (p : Nat) : Nat :=
  let r := s.prt p
  b2n r.rateFault + 2 * b2n (r.underrun != .none) + 4 * b2n r.cfgReject + 8 * b2n r.codeValid + 16 * r.code
    + 2 ^ 8 * (match s.eqxGroup p with
      | some e => 4 + e
      | none => 0)
    + 2 ^ 11 * b2n r.noClock

def State.wApPort (s : State) (p w : Nat) : RegWord :=
  let r := s.prt p
  if w = 0x00 then .plain r.cfg
  else if r.inReset then .plain 0
  else if w = 0x04 then .plain r.rxMask.toNat
  else if w = 0x08 then .plain r.txMask.toNat
  else if w = 0x0C then .plain r.rateThresh
  else if w = 0x10 then .plain (s.portStat p)
  else if w = 0x14 then .plain (min r.rateMhz 0xFFFFFFFF)
  else if w = 0x18 then .plain (toTwos 32 r.devPpb)
  else if w = 0x38 then .plain (toTwos 32 r.driftRx)
  else if w = 0x3C then .plain (toTwos 32 r.driftTx)
  else if w = 0x40 then .plain (toTwos 32 r.eqxRx)
  else if w = 0x44 then .plain (toTwos 32 r.eqxTx)
  else if w = 0x4C then .plain r.int.toNat
  else if w = 0x50 then .plain r.intEn.toNat
  else counterIn [0x1C, 0x20, 0x24, 0x28, 0x2C, 0x30, 0x34, 0x48] w (.plain 0)

/-- A channel's word; entry `i` is (port × 32 + slot) × 2 + direction. -/
def State.wApCh (s : State) (i w : Nat) : RegWord :=
  let c : Chan := tget {} s.chans i
  if (s.prt (i / 64)).inReset then .plain 0
  else if w = 0x00 then .plain (c.stream + 2 ^ 20 * b2n c.bound + 2 ^ 21 * b2n c.started + 2 ^ 22 * b2n c.live)
  else if w = 0x04 then .plain (c.k + 2 ^ 16 * c.m)
  else .counter

def State.wEqx (s : State) (e w : Nat) : RegWord :=
  let x := s.eqxOf e
  if w = 0x00 then .plain (x.members.toNat + 2 ^ 16 * x.st)
  else if w = 0x04 then .plain (2 ^ 8 * b2n x.reject)
  else if w = 0x08 then .lo (x.trigLo.toNat + 2 ^ 32 * x.trigHi.toNat)
  else .hi

/-- AUD_INT_SUM. -/
def State.audIntSum (s : State) : Nat := sumOf ((List.range 16).map fun p => 2 ^ p * b2n (s.prt p).summary)

/-! ### Host interface -/

def State.wRingSq (s : State) (n w : Nat) : RegWord :=
  let r := s.sqr n
  if w = 0x00 then .lo r.base
  else if w = 0x04 then .hi
  else if w = 0x08 then .plain (b2n r.en + 2 * r.log2 + 2 ^ 5 * r.cq + 2 ^ 11 * b2n r.error)
  else if w = 0x0C then .plain r.head
  else if w = 0x10 then .plain r.tail
  else counterIn [0x14, 0x18] w (.plain 0)

def State.wRingCq (s : State) (n w : Nat) : RegWord :=
  let r := s.cqr n
  if w = 0x00 then .lo r.base
  else if w = 0x04 then .hi
  else if w = 0x08 then
    .plain (b2n r.en + 2 * r.log2 + 2 ^ 5 * r.vector + 2 ^ 13 * b2n r.ien + 2 ^ 14 * b2n r.overflow + 2 ^ 15 * b2n r.error)
  else if w = 0x0C then .plain (r.tail + 2 ^ 12 * b2n r.phase)
  else if w = 0x10 then .plain r.head
  else if w = 0x14 then .plain (r.coalCount + 2 ^ 8 * r.coalUs)
  else if w = 0x18 then .plain (r.backlog.filter fun e => !e.isEmpty).length
  else .counter

/-- A word of the MSI-X table: address, data, and vector control with its mask bit. -/
def State.wMsix (s : State) (v w : Nat) : RegWord :=
  let e := s.msixEntry v
  if w = 0 then .plain (e.addr % 2 ^ 32)
  else if w = 4 then .plain (e.addr / 2 ^ 32)
  else if w = 8 then .plain e.data
  else .plain (b2n e.masked)

def State.wHif (s : State) (off : Nat) : RegWord :=
  let h := s.hif
  if off = 0x2A2000 then .plain s.ownWord
  else if off = 0x2A2004 then .plain s.leaseLeft
  else if off = 0x2A2100 then .plain (h.speed + 2 ^ 4 * h.width + 2 ^ 9 * b2n h.flit)
  else if off = 0x2A2200 then .plain h.winPage
  else counterIn [0x2A2008, 0x2A2104, 0x2A2108] off (.plain 0)

/-! ### Device words -/

def State.wDevId (_s : State) (w : Nat) : RegWord :=
  .plain <|
    if w = 0x00 then 0x464A1200
    else if w = 0x04 then 0x12001FD3
    else if w = 0x08 then stepping + 2 ^ 8 * 48 + 2 ^ 16 * 16 + 2 ^ 24 * 64
    else if w = 0x0C then 1248 + 2 ^ 16 * 20
    else if 0x10 ≤ w ∧ w < 0x20 then Config.deviceId / 2 ^ (8 * (w - 0x10)) % 2 ^ 32
    else if w = 0x20 then 1
    else 0

/-- DEV_STAT (R410). -/
def State.devStat (s : State) : Nat :=
  let pending := s.life.phase == .resetPending || s.life.phase == .abandoned
  b2n s.life.ready + 2 * b2n (s.life.phase == .recovery) + 4 * b2n (s.life.phase == .injecting) + 8 * b2n pending
    + 2 ^ 8 * (s.life.epoch % 256)

/-- The DEV_INT_VEC word of causes `k` to `k` + 3. -/
def State.intVecWord (s : State) (k : Nat) : Nat :=
  sumOf ((List.range 4).map fun i => 2 ^ (8 * i) * s.causeVector (k + i))

def State.wDevInt (s : State) (w : Nat) : RegWord :=
  .plain <|
    if w = 0x00 then s.hif.devInt.toNat
    else if w = 0x04 then s.hif.devIntEn.toNat
    else s.intVecWord (w - 0x08)

/-- DEV_TEL (Table 19-6). -/
def State.wDevTel (s : State) (w : Nat) : RegWord :=
  let v (i : Nat) := s.life.supply.getD i 0 % 2 ^ 16
  if w = 0x00 then .lo (s.ctrl % 2 ^ 64)
  else if w = 0x04 ∨ w = 0x0C then .hi
  else if w = 0x08 then .lo (s.refclk % 2 ^ 64)
  else if w = 0x10 then .plain (v 0 + 2 ^ 16 * v 2)
  else if w = 0x14 then .plain (v 1 + 2 ^ 16 * v 3)
  else if w = 0x18 then .plain s.openStreams.length
  else if w = 0x1C then .plain (s.openOf .c).length
  else if w = 0x20 then .plain (s.openOf .b).length
  else if w = 0x24 then .plain (sumOf ((List.range 48).map fun g => ((s.grp g).slots.filter fun l => l.2.valid).length))
  else .plain s.loaded.length

/-- DEV_CNT (Table 19-7): the value of a pair stands at its LO offset. -/
def State.wDevCnt (s : State) (w : Nat) : RegWord := if w % 8 = 0 then .lo (s.ctrAt (devCnt + w)) else .hi

def State.wPwrStat (s : State) (w : Nat) : RegWord :=
  let p := s.power
  if w = 0x00 then .plain (p.capSet + 2 ^ 16 * p.inForce)
  else if w = 0x04 then .plain (p.measuredW + 2 ^ 16 * p.estimateW)
  else if w = 0x08 then .plain (p.l + 2 ^ 8 * p.m + 2 ^ 16 * p.kappa)
  else if w = 0x0C then
    .plain (min 255 p.hottest + 2 ^ 8 * p.thermalCap + 2 ^ 18 * b2n p.mismatch + 2 ^ 19 * b2n p.mismatchActive)
  else if w = 0x18 then .plain s.life.stopCause
  else .counter

def State.wSafe (s : State) (w : Nat) : RegWord :=
  .plain <|
    if w = 0x00 then b2n s.cfg.autoSafe + 2 ^ 16 * s.cfg.degradeLimit
    else if w = 0x04 then s.cfg.recoverMs
    else if w = 0x10 then b2n s.safety.seq + 2 * s.safety.lastCause
    else if w = 0x14 then min s.safety.safeStates 0xFFFFFFFF
    else if w = 0x18 then
      (s.openOf .s).length + 2 ^ 16 * (s.safety.table.filter fun e => e.2.valid && e.2.degraded).length
    else if w = 0x1C then min 0xFFFF (2 * s.clusterCount * s.passCount)
    else if w = 0x20 then min 255 s.safety.notResumed
    else 0

def State.wSafeS (s : State) (n w : Nat) : RegWord :=
  let e := s.safeS n
  if w = 0 then
    .plain (e.stream + 2 ^ 20 * b2n e.valid + 2 ^ 21 * b2n e.degraded + 2 ^ 22 * b2n e.covered + 2 ^ 24 * e.causes.toNat)
  else .counter

def State.wEvlog (s : State) (w : Nat) : RegWord :=
  if w = 0x00 then .plain s.log.next
  else if w = 0x08 then .plain (b2n s.log.mirrorEn)
  else if w = 0x10 then .lo s.log.mirrorBase
  else if w = 0x14 then .hi
  else .counter

def State.wErrStat (s : State) (w : Nat) : RegWord :=
  let r := s.repair
  if w = 0x00 then .plain r.journal.length
  else if w = 0x04 then .plain (r.journal.filter fun x => x.origin == 1).length
  else if w = 0x08 then
    .plain (b2n r.profile1152 + 2 * b2n r.profilePending + 4 * b2n r.service + 8 * b2n r.startFail)
  else if w = 0x0C then .plain r.latentFaults
  else if w = 0x10 then .plain r.firstLatent
  else if w = 0x14 then .plain (min r.watchdogExpiries 0xFFFFFFFF)
  else .counter

/-- KEY_SLOTS and KEY_KINDS (report bytes 168 and 169). -/
def State.keySlotBits (s : State) : Nat := sumOf ((List.range 8).map fun i => 2 ^ i * b2n (s.keyAt i).isSome)
def State.keyKindBits (s : State) : Nat :=
  sumOf ((List.range 8).map fun i => match s.keyAt i with
    | some k => 2 ^ i * (k.kind % 2)
    | none => 0)

def State.wBoot (s : State) (w : Nat) : RegWord :=
  let b := s.boot
  .plain <|
    if w = 0x00 then
      b.running + 4 * b2n b.markedB + 8 * b2n b.trial + 16 * b2n b.enrolled + 32 * b2n b.vigilSlotB
        + 64 * b2n b.vigilPending + 2 ^ 8 * b.svnFuse + 2 ^ 16 * s.keySlotBits + 2 ^ 24 * s.keyKindBits
    else if w = 0x04 then s.fwVersion
    else min b.fwWrites 0xFFFFFFFF

/-! ### BAR0 by offset -/

/-- Blocks of which a device has one, and arrays that are not of groups. -/
def State.wOther (s : State) (off : Nat) : RegWord :=
  let one (base size : Nat) : Bool := decide (base ≤ off) && decide (off < base + size)
  if one 0x000000 0x28 then s.wDevId off
  else if off = 0x100 then .plain s.devStat
  else if one 0x010000 0x14 then s.wDevInt (off - 0x010000)
  else if one 0x020000 0x2C then s.wDevTel (off - 0x020000)
  else if one 0x020100 0x40 then s.wDevCnt (off - 0x020100)
  else if off = 0x200000 then .plain (s.cfg.headroom + 2 ^ 16 * s.cfg.holdReserve)
  else if off = 0x220C00 then .plain s.cfg.slotRows
  else if off = 0x240C00 then .plain (b2n s.cfg.dupAll)
  else if off = 0x260C00 then .plain (s.cfg.slotCap + 2 ^ 24 * s.nslots)
  else if one 0x260C10 0x0C || one 0x270C00 0x0C then
    (if s.cometUnit == .resetting || s.cometUnit == .off then .plain 0 else .counter)
  else if off = 0x280C00 then .plain s.cfg.nearSize
  else if off = 0x280C10 then .plain s.capacityMib
  else if off = 0x280C14 then .plain s.active.length
  else if off = 0x280C18 then .plain s.retiredPageCount
  else if off = 0x290C40 then .plain s.audIntSum
  else if one 0x2A2000 0x0C || one 0x2A2100 0x0C || off == 0x2A2200 then s.wHif off
  else if one 0x2A5000 0x20 then
    .plain (sumOf ((List.range 32).map fun i => 2 ^ i * b2n (s.hif.pba.contains ((off - 0x2A5000) * 8 + i))))
  else if one 0x2B0C00 0x20 then s.wPwrStat (off - 0x2B0C00)
  else if one 0x2C0C00 0x08 || one 0x2C0C10 0x14 then s.wSafe (off - 0x2C0C00)
  else if one 0x2D0C00 0x18 then s.wEvlog (off - 0x2D0C00)
  else if one 0x2D0C40 0x20 then s.wErrStat (off - 0x2D0C40)
  else if one 0x2D0D00 0x10 then .counter
  else if one 0x2E0C00 0x0C then s.wBoot (off - 0x2E0C00)
  else .plain 0

/-- Pages that hold 48 entries of 0x40 bytes for groups. -/
def groupPages : List Nat := [0x21, 0x22, 0x23, 0x24, 0x25, 0x26, 0x27, 0x2B, 0x2C, 0x2D]

def State.wArrays (s : State) (off : Nat) : RegWord :=
  match arrayAt off 0x280000 0x40 48, arrayAt off 0x290000 0x80 16, arrayAt off 0x290C00 0x10 4,
      arrayAt off 0x291000 0x10 1024, arrayAt off 0x2A0000 0x20 64, arrayAt off 0x2A1000 0x20 64,
      arrayAt off 0x2A4000 0x10 256, arrayAt off 0x2C1000 8 256 with
  | some (c, w), _, _, _, _, _, _, _ => s.wMemCh c w
  | none, some (p, w), _, _, _, _, _, _ => s.wApPort p w
  | none, none, some (e, w), _, _, _, _, _ => s.wEqx e w
  | none, none, none, some (i, w), _, _, _, _ => s.wApCh i w
  | none, none, none, none, some (n, w), _, _, _ => s.wRingSq n w
  | none, none, none, none, none, some (n, w), _, _ => s.wRingCq n w
  | none, none, none, none, none, none, some (v, w), _ => s.wMsix v w
  | none, none, none, none, none, none, none, some (n, w) => s.wSafeS n w
  | none, none, none, none, none, none, none, none => s.wOther off

/-- The word at BAR0 offset `off`, a multiple of 4; a reserved offset reads 0 (R406). -/
def State.bar0 (s : State) (off : Nat) : RegWord :=
  match arrayAt off 0x201000 0x40 48 with
  | some (g, w) => s.wGrpSvc g w
  | none =>
    let page := off / 2 ^ 16
    if groupPages.contains page ∧ off % 2 ^ 16 < 0xC00 then s.wGroup page (off % 2 ^ 16 / 0x40) (off % 0x40)
    else s.wArrays off

/-! ### Reads -/

/-- The memory window reads 0 here (R416): no address, the reserved part of the interleaved region, a retired page. -/
def State.windowHidden (s : State) (a : Nat) : Bool :=
  (decide (s.ilBase ≤ a) && decide (a < s.ilBase + reservedBytes)) ||
    match s.resolve a with
    | some (c, off) => (s.memCh c).pages.contains (off / 4096)
    | none => true

/-- The memory address of a window offset. -/
def State.windowAddr (s : State) (o : Nat) : Nat := 2 ^ 24 * s.hif.winPage + o

/-- A word of BAR2 (Table 19-8): the doorbells read 0, a slot of the log not yet written reads 0. -/
def State.bar2 (s : State) (off : Nat) : Nat :=
  if 0x100000 ≤ off ∧ off < 0x140000 then
    match tget none s.log.slots ((off - 0x100000) / 64) with
    | some e => field (logBytes e) (off % 64) 4
    | none => 0
  else if 0x1000000 ≤ off ∧ off < 0x2000000 then
    let a := s.windowAddr (off - 0x1000000)
    if s.windowHidden a then 0 else leNat (s.memRead a 4)
  else 0

/-- The latch of master `m` for the pair whose LO word lies at `lo` (R407). -/
def latchKey (m : Master) (lo : Nat) : Nat := 2 ^ 26 * Master.num m + lo

/-- Holds in progress are counted up to now. -/
def State.upToDate (s : State) : State := (List.range 48).foldl (fun s g => s.countHeld g) s

/-- A read of a word by master `m`: the value, and the state with what the read brings about. Only the owner's reads
clear (R273). -/
def State.readWord (s : State) (m : Master) (bar off : Nat) : Nat × State :=
  if !s.controlUp || off % 4 != 0 then (0, s)
  else if bar = 2 then (s.bar2 off, s)
  else if bar = 0 then
    match s.bar0 off with
    | .plain v => (v % 2 ^ 32, s)
    | .counter => (s.ctrAt off % 2 ^ 32, if s.owner.owner = Master.num m then s.setCtr off 0 else s)
    | .lo v => (v % 2 ^ 32, { s with latches := tput 0 s.latches (latchKey m off) (v / 2 ^ 32 % 2 ^ 32) })
    | .hi => (tget 0 s.latches (latchKey m (off - 4)), s)
  else (0, s)

/-- An access is one of a 32-bit word, aligned (R272). -/
def wordAccess (offset size : Nat) : Bool := size == 4 && offset % 4 == 0

/-- A read whose data leave the device; one that is not of an aligned word, or while the control domain is in reset, reads 0 and
has no other effect (R272, R408). -/
def State.readOut (s : State) (m : Master) (bar off size : Nat) : State :=
  if s.controlUp && wordAccess off size then
    let r := s.upToDate.readWord m bar off
    r.2.emit (.regData m bar off (BitVec.ofNat 32 r.1))
  else s.emit (.regData m bar off 0)

/-- READ_CLEAR: the owner's read of an RC field. -/
def State.readClear (s : State) (m : Master) (bar off size : Nat) : State := s.readOut m bar off size

def execReadClear (t : Nat) (m : Master) (bar offset : Nat) (s : State) (size : Nat := 4) :
    Host.Outcome State Fault Refusal :=
  .next (s.readAccess t m fun s => s.readClear m bar offset size)

/-- PAIR_LO_READ: a read of the LO word of a pair. -/
def State.pairLoRead (s : State) (m : Master) (bar off size : Nat) : State := s.readOut m bar off size

def execPairLoRead (t : Nat) (m : Master) (bar offset : Nat) (s : State) (size : Nat := 4) :
    Host.Outcome State Fault Refusal :=
  .next (s.readAccess t m fun s => s.pairLoRead m bar offset size)

/-! ### Writes -/

/-- Nothing is loaded and nothing open: the memory layout may change. -/
def State.layoutFree (s : State) : Bool := s.loaded.isEmpty && s.openStreams.isEmpty

/-- SVC_CTRL, each field on its own (Table 2-8). -/
def Cfg.writeSvc (c : Cfg) (v : Nat) : Cfg :=
  let h := bits v 0 7
  let q := bits v 16 9
  { c with headroom := if h ≤ 100 then h else c.headroom, holdReserve := if q ≤ 500 then q else c.holdReserve }

/-- SAFE_CFG, word 0 and word 4 (Table 15-13). -/
def Cfg.writeSafe (c : Cfg) (w v : Nat) : Cfg :=
  if w = 0 then { c with autoSafe := bit v 0, degradeLimit := if bits v 16 16 = 0 then c.degradeLimit else bits v 16 16 }
  else { c with recoverMs := if bits v 0 16 < 20 then c.recoverMs else bits v 0 16 }

/-- SAFE_CFG is written: a recovery interval that runs asks for the new number of chunks, of which those committed in it so far
count (R335, R352). -/
def State.writeSafeCfg (s : State) (w v : Nat) : State :=
  let s1 : State := { s with cfg := s.cfg.writeSafe w v }
  (s.safety.table.map (·.1)).foldl (fun a i =>
    let e := s.safeS i
    let r := s.str e.stream
    if e.recoverLeft = 0 then a
    else (a.setSafeS i { e with recoverLeft := s1.recoveryChunks r - (s.recoveryChunks r - e.recoverLeft) }).judge i 0) s1

/-- Settings of the device that its owner writes. -/
def State.writeCfg (s : State) (off v : Nat) : State :=
  let c := s.cfg
  if off = 0x200000 then { s with cfg := c.writeSvc v }
  else if off = 0x220C00 then
    let n := bits v 0 13
    if s.layoutFree && decide (n ≤ 6144) && decide (n % 4 = 0) then { s with cfg := { c with slotRows := n } } else s
  else if off = 0x240C00 then { s with cfg := { c with dupAll := bit v 0 } }
  else if off = 0x260C00 then
    let n := bits v 0 13
    if s.layoutFree && decide (256 ≤ n) && decide (n ≤ 4096) && decide (n % 64 = 0) then
      { s with cfg := { c with slotCap := n } }
    else s
  else if off = 0x280C00 then
    let n := bits v 0 6
    if s.layoutFree && decide (n ≤ 35) then { s with cfg := { c with nearSize := n } } else s
  else if off = 0x2A2200 then { s with hif := { s.hif with winPage := bits v 0 24 } }
  else if off = 0x2B0C0C then
    (if bit v 18 then { s with power := { s.power with mismatch := false } } else s)
  else if off = 0x2C0C00 ∨ off = 0x2C0C04 then s.writeSafeCfg (off - 0x2C0C00) v
  else s

/-- A write to a port's registers beside PORT_CFG and the masks. -/
def State.writePort (s : State) (p w v : Nat) : State :=
  if !(s.prt p).takesWrites then s
  else if w = 0x0C then s.modPrt p fun r => { r with rateThresh := bits v 0 16 }
  else if w = 0x10 then s.modPrt p fun r => { r with cfgReject := r.cfgReject && !bit v 2 }
  else if w = 0x4C then s.modPortInt p fun r => { r with int := r.int &&& ~~~BitVec.ofNat 4 v }
  else if w = 0x50 then s.modPortInt p fun r => { r with intEn := BitVec.ofNat 4 v }
  else s

/-- A write of word +0x04 of EQX_GRP: ARM_REJECT is cleared first, then the commands act. -/
def State.writeEqxCtl (s : State) (m : Master) (e v : Nat) : State :=
  let x := s.eqxOf e
  let s1 := if bit v 8 then s.setEqx e { x with reject := false } else s
  let s2 := if bit v 0 then s1.armEqx m e else s1
  let s3 := if bit v 1 then s2.fireEqx m e else s2
  if bit v 2 then s3.disarmEqx m e else s3

/-- A write of a word of an Equinox group. -/
def State.writeEqx (s : State) (m : Master) (e w v : Nat) : State :=
  if w = 0x00 then s.writeMembers m e (bits v 0 16)
  else if w = 0x04 then s.writeEqxCtl m e v
  else if w = 0x08 then s.setEqx e { s.eqxOf e with trigLo := BitVec.ofNat 32 v }
  else s.setEqx e { s.eqxOf e with trigHi := BitVec.ofNat 32 v }

/-- A base with its LO word written: bits 11:0 read 0 and are ignored on write. -/
def baseLo (base v : Nat) : Nat := 2 ^ 32 * (base / 2 ^ 32) + 4096 * (v / 4096)
def baseHi (base v : Nat) : Nat := base % 2 ^ 32 + 2 ^ 32 * v

/-- What only the PCIe host writes, owner or not (R273, R411): rings, doorbells, device interrupts, the MSI-X table. -/
def State.writeSqWord (s : State) (n w v : Nat) : State :=
  let r := s.sqr n
  if w = 0x00 then (if r.en then s else s.setSq n { r with base := baseLo r.base v })
  else if w = 0x04 then (if r.en then s else s.setSq n { r with base := baseHi r.base v })
  else if w = 0x08 then (if bit v 0 then s.sqEnable n (BitVec.ofNat 32 v) else s.sqDisable n (BitVec.ofNat 32 v))
  else s

def State.writeCqWord (s : State) (n w v : Nat) : State :=
  let r := s.cqr n
  if w = 0x00 then (if r.en then s else s.setCq n { r with base := baseLo r.base v })
  else if w = 0x04 then (if r.en then s else s.setCq n { r with base := baseHi r.base v })
  else if w = 0x08 then (if bit v 0 then s.cqEnable n (BitVec.ofNat 32 v) else s.cqDisable n (BitVec.ofNat 32 v))
  else if w = 0x14 then s.setCq n { r with coalCount := bits v 0 8, coalUs := bits v 8 16 }
  else s

def State.writeMsix (s : State) (n w v : Nat) : State :=
  let e := s.msixEntry n
  let put (x : MsixEntry) : State := { s with hif := { s.hif with msix := tput {} s.hif.msix n x } }
  if w = 0 then put { e with addr := 2 ^ 32 * (e.addr / 2 ^ 32) + v }
  else if w = 4 then put { e with addr := e.addr % 2 ^ 32 + 2 ^ 32 * v }
  else if w = 8 then put { e with data := v }
  else if bit v 0 then put { e with masked := true }
  else s.unmask n

def State.writeDevInt (s : State) (w v : Nat) : State :=
  if w = 0x00 then s.clearInts (BitVec.ofNat 32 v) 0
  else if w = 0x04 then s.writeIntEn (BitVec.ofNat 32 v)
  else
    let k := w - 0x08
    let t := (List.range 4).foldl (fun t i => tput 0 t (k + i) (bits v (8 * i) 8)) s.hif.devIntVec
    { s with hif := { s.hif with devIntVec := t } }

def State.writeDoorbell (s : State) (off v : Nat) : State :=
  if off % 8 = 0 then s.sqDoorbell (off / 8) v else s.cqDoorbell (off / 8) v

/-- A write that the PCIe host makes to its own registers; none for an offset that is not among them. -/
def State.writeHost (s : State) (bar off v : Nat) : Option State :=
  if bar = 2 then (if off < 0x200 then some (s.writeDoorbell off v) else some s)
  else match arrayAt off 0x2A0000 0x20 64, arrayAt off 0x2A1000 0x20 64, arrayAt off 0x2A4000 0x10 256,
      arrayAt off 0x010000 0x14 1 with
    | some (n, w), _, _, _ => some (s.writeSqWord n w v)
    | none, some (n, w), _, _ => some (s.writeCqWord n w v)
    | none, none, some (n, w), _ => some (s.writeMsix n w v)
    | none, none, none, some (_, w) => some (s.writeDevInt w v)
    | none, none, none, none => none

/-- A write of a word by master `m`. Reserved offsets, RO and RC fields ignore it, and every register outside the PCIe host's
own ignores a master that is not the owner (R273). -/
def State.writeWord (s : State) (m : Master) (bar off v : Nat) : State :=
  if !s.controlUp || off % 4 != 0 then s
  else match s.writeHost bar off v with
    | some s1 => if m = .pcie then s1 else s
    | none =>
      if bar ≠ 0 || !s.ownerWrites m then s
      else match arrayAt off 0x290000 0x80 16, arrayAt off 0x290C00 0x10 4 with
        | some (p, w), _ =>
          if w = 0x00 then s.writePortCfg m p v
          else if w = 0x04 then s.writeRxMask m p (BitVec.ofNat 32 v)
          else if w = 0x08 then s.writeTxMask m p (BitVec.ofNat 32 v)
          else s.writePort p w v
        | none, some (e, w) => s.writeEqx m e w v
        | none, none => s.writeCfg off v

/-- REGISTER_WRITE; one that is not of an aligned word is ignored (R272). -/
def State.writeAccess (s : State) (m : Master) (bar off size : Nat) (v : Reg) : State :=
  if wordAccess off size then s.writeWord m bar off v.toNat else s

def execRegisterWrite (t : Nat) (m : Master) (bar offset : Nat) (v : Reg) (s : State) (size : Nat := 4) :
    Host.Outcome State Fault Refusal :=
  .next (s.access t m fun s => s.writeAccess m bar offset size v)

/-! ### REG_READ, REG_WRITE -/

/-- The fields of both commands lie in their ranges. -/
def regArgs (bar count : Nat) : Bool := (bar == 0 || bar == 2) && decide (1 ≤ count) && decide (count ≤ 4)

def infoRegRead (bar count offset : Nat) : CmdInfo :=
  { op := 0x0700, cls := .read
    fields := [param 8 8 bar, param 9 8 count, param 12 32 offset]
    inRange := regArgs bar count }

/-- The words read one after the other, with the state that the reads leave. -/
def State.readWords (s : State) (m : Master) (bar : Nat) : List Nat → List Nat × State
  | [] => ([], s)
  | off :: rest =>
    let r := s.readWord m bar off
    let q := r.2.readWords m bar rest
    (r.1 :: q.1, q.2)

def effRegRead (bar count offset : Nat) (i : Inflight) (s : State) : State :=
  let r := s.upToDate.readWords i.hdr.master bar ((List.range count).map fun k => offset + 4 * k)
  r.2.finish i.id stSuccess (resultOf [(12, r.1.flatMap (leBytes 4))])

def execRegRead (t : Nat) (h : Hdr) (bar count offset : Nat) (s : State) : Host.Outcome State Fault Refusal :=
  .next (s.hostCommand t h (.regRead t h bar count offset) (infoRegRead bar count offset) (effRegRead bar count offset))

def infoRegWrite (bar count offset : Nat) (data : List Reg) : CmdInfo :=
  { op := 0x0701, cls := .owner
    fields := [param 8 8 bar, param 9 8 count, param 12 32 offset]
      ++ (List.range 4).map fun k => param (16 + 4 * k) 32 (data.getD k 0).toNat
    inRange := regArgs bar count }

/-- The words written one after the other from `offset` on. -/
def State.writeWords (s : State) (m : Master) (bar offset : Nat) (l : List Reg) : State :=
  (List.range l.length).foldl (fun s k => s.writeWord m bar (offset + 4 * k) (l.getD k 0).toNat) s

def effRegWrite (bar count offset : Nat) (data : List Reg) (i : Inflight) (s : State) : State :=
  (s.writeWords i.hdr.master bar offset (data.take count)).finish i.id stSuccess []

def execRegWrite (t : Nat) (h : Hdr) (bar count offset : Nat) (data : List Reg) (s : State) :
    Host.Outcome State Fault Refusal :=
  .next (s.hostCommand t h (.regWrite t h bar count offset data) (infoRegWrite bar count offset data)
    (effRegWrite bar count offset data))

end Sys2Proof.Machine
end

