-- ==== Sys2Proof/Machine/Inject.lean ====
section
/-! DEFINITION. INJECT and its timeout (R365, R368), EVENT_MIRROR (R356). -/

namespace Sys2Proof.Machine

/-! ### INJECT -/

/-- A detector number of Tables 16-6 and 16-7 (R365). -/
def detectorExists (d : Nat) : Bool := if d < 0xC00 then decide (d % 64 < 37) else decide (d - 0xC00 < 107)

/-- Detectors that INJECT may arm: not those whose reactions stop or reset the device. -/
def detectorArmable (d : Nat) : Bool :=
  detectorExists d && !(decide (0xC00 + 80 ≤ d) && decide (d ≤ 0xC00 + 95) && d != 0xC00 + 91)

def infoInject (detector count : Nat) : CmdInfo :=
  { op := 0x0702, cls := .owner
    fields := [param 8 16 detector, param 10 8 count]
    inRange := detectorArmable detector && decide (1 ≤ count) && decide (count ≤ 255) }

def effInject (detector count : Nat) (i : Inflight) (s : State) : State :=
  if (s.armedAt detector).isSome then s.failCmd i.id stInvalidParam
  else { s with armed := tput none s.armed detector (some { left := count, fired := 0, cmd := i.id, since := s.now }) }

def execInject (t : Nat) (h : Hdr) (detector count : Nat) (s : State) : Host.Outcome State Fault Refusal :=
  .next (s.hostCommand t h (.inject t h detector count) (infoInject detector count) (effInject detector count))

/-- CORE cycles after which INJECT completes with what has fired. -/
def injectLimit : Nat := 2 * secondCycles

def State.injectTimeout (s : State) (detector : Nat) : State :=
  match s.armedAt detector with
  | some a => if a.since + injectLimit ≤ s.now then s.endInject detector else s
  | none => s

def execInjectTimeout (t detector : Nat) (s : State) : Host.Outcome State Fault Refusal :=
  .next ((s.advance t).injectTimeout detector)

/-! ### EVENT_MIRROR -/

def infoEventMirror (addr : Nat) (enable : Bool) : CmdInfo :=
  { op := 0x0703, cls := .owner
    fields := [param 8 64 addr, param 16 1 (b2n enable)]
    inRange := true }

/-- Every entry that the ring holds is written first. -/
def State.startMirror (s : State) (addr : Nat) : State :=
  let s1 : State := { s with log := { s.log with mirrorEn := true, mirrorBase := addr } }
  s1.heldEntries.foldl (fun s e => s.mirrorEntry e) s1

def effEventMirror (addr : Nat) (enable : Bool) (i : Inflight) (s : State) : State :=
  if !enable then ({ s with log := { s.log with mirrorEn := false } } : State).finish i.id stSuccess []
  else if addr % 4096 = 0 then (s.startMirror addr).finish i.id stSuccess []
  else s.failCmd i.id stInvalidParam

def execEventMirror (t : Nat) (h : Hdr) (addr : Nat) (enable : Bool) (s : State) : Host.Outcome State Fault Refusal :=
  .next (s.hostCommand t h (.eventMirror t h addr enable) (infoEventMirror addr enable) (effEventMirror addr enable))

end Sys2Proof.Machine
end

