-- ==== Sys2Proof/Machine/Images.lean ====
section
/-! DEFINITION. Signed packages (R375, R376), and the image commands: IMAGE_LOAD, IMAGE_UNLOAD, IMAGE_RELOAD and
IMAGE_QUERY (R60, R75, R228, R343, R386). -/

namespace Sys2Proof.Machine

/-! ### What commands read from and write to host memory (R295) -/

/-- `n` bytes that a command reads from host memory, none where the read fails; without a link it fails. -/
def State.hostData (s : State) (d : HostData) (n : Nat) : Option (List Byte) :=
  match d with
  | some l => if s.hif.linkUp then some (pad n l) else none
  | none => none

/-- A DEST that the command may name. -/
def destOk (h : Hdr) (dest : Nat) : Bool := dest % 64 == 0 && (dest == 0 || h.master == .pcie)

/-- Bytes for DEST, where it names a place. -/
def State.writeDest (s : State) (dest : Nat) (l : List Byte) : State := if dest = 0 then s else s.hostWrite dest l

/-! ### Signed packages (R375, R376) -/

def trailerBytes : Nat := 4096

/-- The body of a package, and the fields of its trailer. -/
def pkgBody (p : List Byte) : List Byte := (p.reverse.drop trailerBytes).reverse
def pkgTrailer (p : List Byte) : List Byte := (p.reverse.take trailerBytes).reverse
def pkgDigest (p : List Byte) : List Byte := slice (pkgTrailer p) 32 32
def pkgVersion (p : List Byte) : Nat := field (pkgTrailer p) 12 4
def pkgSvn (p : List Byte) : Nat := field (pkgTrailer p) 16 2

/-- The checks of R376 in their order, for a type with its limits of BODY_BYTES, a key, and the security version that the
package must reach. -/
def packageOk (type lo hi : Nat) (key : List Byte) (svn : Nat) (p : List Byte) : Bool :=
  let t := pkgTrailer p
  let zero (i n : Nat) := (slice t i n).all (· == 0)
  let body := field t 8 4
  decide (trailerBytes ≤ p.length) && field t 0 4 == 0x31534B46 && field t 4 1 == type
    && zero 5 3 && zero 18 14 && zero 3668 428 && (if type = 0 then decide (pkgSvn p ≤ 64) else pkgSvn p == 0)
    && decide (lo ≤ body) && decide (body ≤ hi) && body + trailerBytes == p.length
    && sha256 (pkgBody p) == pkgDigest p
    && hssVerify key (slice t 64 3604) (t.take 64)
    && decide (svn ≤ pkgSvn p)

/-- A customer key is enrolled, and the stored key is the one that the fuses name (R374). -/
def State.keyEnrolled (s : State) : Bool := s.boot.enrolled && sha256 s.boot.enrolledKey == s.boot.keyHash

/-- A Tuant image verifies (TYPE 2). -/
def State.imageSigned (s : State) (p : List Byte) : Bool := packageOk 2 64 (2 ^ 32) s.boot.enrolledKey 0 p

/-! ### Allocation (R79, R228) -/

/-- Where retired pages lie: whether in the near windows, and their offset there or address (R236). -/
def State.pagePlaces (s : State) : List (Bool × Nat) :=
  let act := s.active
  let n := s.nearBytes
  let free := s.ilSize - s.retiredChs.length * n
  (List.range act.length).flatMap fun k =>
    (s.memCh (act.getD k 0)).pages.map fun pg =>
      let o := 4096 * pg
      if o < n then (true, o)
      else
        let i := 4096 * ((o - n) / 4096 * act.length + k)
        if i < free then (false, 48 * n + i) else (true, (i - free) % n)

def pageRanges (near : Bool) (l : List (Bool × Nat)) : List Range :=
  (l.filter fun p => p.1 == near).map fun p => ⟨p.2, 4096⟩

/-- Bytes of a stream's input ring (R251). -/
def ringBytes (chunkSamples : Nat) (wide : Bool) : Nat := ceilDiv (4 * chunkSamples * (if wide then 4 else 2)) 64 * 64
def Stream.ring (r : Stream) : Range := ⟨r.inBase, ringBytes r.chunkSamples (bindSfmt r.source)⟩

/-- Places of the input rings of stream `n`: in its home group, and in the group to which it is to move. -/
def State.ringPlaces (s : State) (n : Nat) : List (Nat × Range) :=
  let r := s.str n
  (r.home, r.ring) :: (match r.move with
    | some m => [(m.target, { r.ring with base := m.base })]
    | none => [])

/-- Ranges taken in the near window of group `g`, and in some near window. -/
def State.nearTaken (s : State) (g : Nat) : List Range :=
  s.nearAlloc ++ pageRanges true s.pagePlaces
    ++ ((s.openStreams.flatMap s.ringPlaces).filter fun p => p.1 == g).map (·.2)
def State.nearTakenAny (s : State) : List Range :=
  s.nearAlloc ++ pageRanges true s.pagePlaces ++ (s.openStreams.flatMap s.ringPlaces).map (·.2)

/-- Ranges taken in the interleaved region. -/
def State.farTaken (s : State) : List Range := s.farAlloc ++ pageRanges false s.pagePlaces

/-- The lowest place for `size` bytes in the interleaved region outside the reserved part (R227). -/
def State.placeFar (s : State) (size : Nat) : Option Nat :=
  (allocate s.farTaken (s.ilBase + reservedBytes) (s.ilBase + (s.ilSize - s.retiredChs.length * s.nearBytes)) size).map (·.1)
def State.placeNear (s : State) (taken : List Range) (size : Nat) : Option Nat :=
  (allocate taken 0 s.nearBytes size).map (·.1)

/-- Bytes of the near extent with the output stage after it (R79), and of the far extent. -/
def nearNeed (near out : Nat) : Nat := 64 * near + 256 * min out 16384
def Image.nearRange (m : Image) : Range := ⟨m.nearBase, nearNeed m.nearExtent m.outBytes⟩
def Image.farRange (m : Image) : Range := ⟨m.farBase, 64 * m.farExtent⟩

/-- The extents that the header at the start of `body` declares, placed (R228); nothing of the image is checked yet. -/
def State.placeImage (s : State) (body : List Byte) : Option Image :=
  let near := field body 16 4
  let far := field body 20 4
  let out := field body 12 4
  match s.placeNear s.nearTakenAny (nearNeed near out), s.placeFar (64 * far) with
  | some a, some b =>
    some { nearExtent := near, farExtent := far, nearBase := a, farBase := b, outBytes := out, bodyBytes := body.length }
  | _, _ => none

/-- The repetitions of the writes from row `n` of a transfer on, their rows counted from there. -/
def retriesFrom (l : WriteRetries) (n : Nat) : WriteRetries := (l.filter fun x => decide (n ≤ x.1)).map fun x => (x.1 - n, x.2)

/-- The body is written into both extents, the near one in every window, group by group, and then the far one; what lies beyond
the body is zero (R60, R235). -/
def State.writeImage (s : State) (m : Image) (body : List Byte) (retries : WriteRetries) : State :=
  let all := pad (64 * (m.nearExtent + m.farExtent)) body
  let s1 := (List.range 48).foldl (fun s g =>
    s.memStore (g * s.nearBytes + m.nearBase) (all.take (64 * m.nearExtent)) (retriesFrom retries (m.nearExtent * g))) s
  s1.memStore m.farBase (all.drop (64 * m.nearExtent)) (retriesFrom retries (48 * m.nearExtent))

/-! ### The Almanac table (R343) -/

/-- Size of the Almanac store (Table 1-2); the content that the device itself keeps there counts as none
(notes/assumptions/30.md). -/
def almanacStore : Nat := 4 * 2 ^ 20

/-- An entry with its segment and its input rows, as the image gives them. -/
def State.fillAlm (s : State) (m : Image) (e : AlmEntry) : AlmEntry :=
  let (off, n) := s.segmentOf 0 m e.segment
  { e with
    segBytes := s.imageSlice m 0 (64 * off) (64 * n)
    rows := (pieces 64 e.inRows (s.imageSlice m 0 (64 * e.inAddr) (64 * e.inRows))).map bytesRow }

/-- Bytes of the store that an entry takes. -/
def AlmEntry.stored (e : AlmEntry) : Nat := e.segBytes.length + 64 * e.rows.length

/-- Bytes of the store that the loaded images' entries take. -/
def State.almTaken (s : State) : Nat := sumOf (s.loaded.map fun h => sumOf ((s.img h).alm.map AlmEntry.stored))

/-- An entry's fields lie in their ranges, and its rows below the stream slot region. -/
def Image.almOk (m : Image) (slotRows : Nat) (l : List Byte) : Bool :=
  let e := parseAlm l
  decide (e.segment < m.segCount) && decide (e.entry < 1024) && decide (1 ≤ e.inRows) && decide (e.inRows ≤ 2048)
    && decide (1 ≤ e.outRows) && decide (e.outRows ≤ 2048) && decide (1 ≤ e.cost) && decide (e.cost ≤ 96000)
    && ((slice l 24 8).all (· == 0)) && m.within e.inAddr (64 * e.inRows)
    && decide (e.inFirst + e.inRows ≤ 8192 - slotRows) && decide (e.outFirst + e.outRows ≤ 8192 - slotRows)

/-- Entry `i` of image `h` joins the rotation, or is never run and recorded. -/
def State.joinAlm (s : State) (h i : Nat) (l : List Byte) : State :=
  let m := s.img h
  let e := s.fillAlm m (parseAlm l)
  let ok := m.almOk s.cfg.slotRows l && decide (s.almTaken + e.stored ≤ almanacStore)
  let s1 := s.setImg h { m with alm := m.alm ++ [if ok then e else { parseAlm l with enabled := false }] }
  if ok then s1 else s1.logEvent 0x0131 noUnit noUnit 0 (leBytes 1 h ++ leBytes 1 i)

/-- The Almanac table of image `h`, whose header is `hdr`. -/
def State.loadAlmanac (s : State) (h : Nat) (hdr : List Byte) : State :=
  let n := field hdr 60 1
  let es := pieces 32 n (s.imageSlice (s.img h) 0 (64 * field hdr 56 4) (32 * n))
  (List.range n).foldl (fun s i => s.joinAlm h i (es.getD i [])) s

/-! ### IMAGE_LOAD -/

/-- The lowest free handle. -/
def State.freeHandle (s : State) : Option Nat := ((List.range 65).drop 1).find? fun h => !(s.img h).loaded

def infoImageLoad (addr len : Nat) : CmdInfo :=
  { op := 0x0100, cls := .owner
    fields := [param 8 64 addr, param 16 64 len]
    inRange := true }

/-- An image that has been placed and whose signature holds is written on trial, and stays if every check passes. -/
def State.admitImage (s : State) (h : Nat) (m0 : Image) (p : List Byte) (retries : WriteRetries) (id : Nat) : State :=
  let body := pkgBody p
  let s1 := s.writeImage m0 body retries
  let hdr := s1.imageBytes m0 0 0 256
  let m := s1.parseImage m0 hdr
  match s1.loadChecks m hdr with
  | 0 =>
    let s2 : State := s1.setImg h { m with loaded := true, digest := pkgDigest p }
    let s3 : State := { s2 with nearAlloc := s2.nearAlloc ++ [m.nearRange], farAlloc := s2.farAlloc ++ [m.farRange] }
    (s3.loadAlmanac h hdr).finish id stSuccess (resultOf [(12, leBytes 1 h)])
  | st => s.failCmd id st

/-- The control complex makes no bulk transfer at memory level 8: the load waits for a lower one (R320). -/
def effImageLoad (len : Nat) (data : HostData) (retries : WriteRetries) (i : Inflight) (s : State) : State :=
  if s.power.m = 8 then s
  else match s.hostData data len with
  | none => s.failCmd i.id stHostError
  | some p =>
    match s.freeHandle, s.placeImage (pkgBody p) with
    | some h, some m =>
      if !s.keyEnrolled then s.failCmd i.id stKeyInvalid
      else if !s.imageSigned p then s.failCmd i.id stSignature
      else s.admitImage h m p retries i.id
    | _, _ => s.failCmd i.id stNoCapacity

def execImageLoad (t : Nat) (h : Hdr) (addr len : Nat) (data : HostData) (s : State) (retries : WriteRetries := []) :
    Host.Outcome State Fault Refusal :=
  .next (s.hostCommand t h (.imageLoad t h addr len data retries) (infoImageLoad addr len) (effImageLoad len data retries))

/-! ### IMAGE_UNLOAD -/

def infoImageUnload (handle : Nat) : CmdInfo :=
  { op := 0x0101, cls := .owner
    fields := [param 8 8 handle]
    inRange := true
    objs := [.image handle] }

/-- A test set that image `h` brought. -/
def TestSet.ofImage (h : Nat) : TestSet → Bool
  | .row _ _ => false
  | .pass n => match imagePassOf n with
    | some (k, _) => k == h
    | none => false

/-- The passes of image `h` leave the queues; an entry with nothing left to run leaves with them. -/
def State.dropPasses (s : State) (h g : Nat) : State :=
  let G := s.grp g
  let es := G.tests.map fun e => { e with sets := e.sets.filter fun x => !x.ofImage h }
  let gone := es.filter fun e => e.sets.isEmpty
  ((s.setGrp g { G with tests := es.filter fun e => !e.sets.isEmpty }).finishAll (gone.flatMap (·.cmds)) stSuccess
    (resultOf [(12, leBytes 1 0)])).judgeAll

/-- Image `h` is removed with its extents, its retirements and its Almanac passes. -/
def State.removeImage (s : State) (h : Nat) : State :=
  let m := s.img h
  let s1 : State :=
    { s with
      nearAlloc := freeRange s.nearAlloc m.nearRange.base m.nearRange.size
      farAlloc := freeRange s.farAlloc m.farRange.base m.farRange.size }
  (List.range 48).foldl (fun s g => s.dropPasses h g) (s1.setImg h {})

/-- An open stream uses the image, or an import that is being written will. -/
def State.imageBusy (s : State) (h : Nat) : Bool :=
  (s.openStreams.any fun n => (s.str n).image == h) || s.streams.any fun e => match e.2.imp with
    | some q => q.image == h
    | none => false

def effImageUnload (handle : Nat) (i : Inflight) (s : State) : State :=
  if !(s.img handle).loaded then s.failCmd i.id stNotFound
  else if s.imageBusy handle then s.failCmd i.id stImageBusy
  else (s.removeImage handle).finish i.id stSuccess []

def execImageUnload (t : Nat) (h : Hdr) (handle : Nat) (s : State) : Host.Outcome State Fault Refusal :=
  .next (s.hostCommand t h (.imageUnload t h handle) (infoImageUnload handle) (effImageUnload handle))

/-! ### IMAGE_RELOAD -/

def infoImageReload (handle addr len : Nat) : CmdInfo :=
  { op := 0x0102, cls := .owner
    fields := [param 8 8 handle, param 16 64 addr, param 24 64 len]
    inRange := true
    objs := [.image handle] }

/-- Groups in which a variant of the image is retired. -/
def Image.retiredGroups (m : Image) : List Nat := (m.retired.map (·.1)).eraseDups

def effImageReload (handle len : Nat) (data : HostData) (retries : WriteRetries) (i : Inflight) (s : State) : State :=
  let m := s.img handle
  if s.power.m = 8 then s
  else if !m.loaded then s.failCmd i.id stNotFound
  else match s.hostData data len with
    | none => s.failCmd i.id stHostError
    | some p =>
      if !s.keyEnrolled then s.failCmd i.id stKeyInvalid
      else if !s.imageSigned p then s.failCmd i.id stSignature
      else if pkgDigest p ≠ m.digest then s.failCmd i.id stImageInvalid
      else
        ((s.writeImage m (pkgBody p) retries).setImg handle { m with restore := m.retiredGroups }).finish i.id stSuccess []

def execImageReload (t : Nat) (h : Hdr) (handle addr len : Nat) (data : HostData) (s : State) (retries : WriteRetries := []) :
    Host.Outcome State Fault Refusal :=
  .next (s.hostCommand t h (.imageReload t h handle addr len data retries) (infoImageReload handle addr len)
    (effImageReload handle len data retries))

/-! ### The memory level falls: POWER_CAP_SET, CAP_UPDATE (R317, R318, R320) -/

/-- Loads that waited for a level below 8 go on, in their order. -/
def State.resumeLoads (s : State) : State :=
  if s.power.m = 8 then s
  else (s.inflight.filter fun i => i.done.isNone).foldl (fun s i =>
    match i.instr with
    | .imageLoad _ _ _ len data retries => effImageLoad len data retries i s
    | .imageReload _ _ handle _ len data retries => effImageReload handle len data retries i s
    | _ => s) s

def infoPowerCapSet (cap : Nat) : CmdInfo :=
  { op := 0x0400, cls := .rackManager
    fields := [param 8 16 cap]
    inRange := decide (300 ≤ cap) && decide (cap ≤ 850) }

def effPowerCapSet (cap : Nat) (i : Inflight) (s : State) : State :=
  (({ s with power := ({ s.power with capSet := cap } : Power).unthrottled } : State).finish i.id stSuccess []).resumeLoads

def execPowerCapSet (t : Nat) (h : Hdr) (cap : Nat) (s : State) : Host.Outcome State Fault Refusal :=
  .next (s.hostCommand t h (.powerCapSet t h cap) (infoPowerCapSet cap) (effPowerCapSet cap))

def execCapUpdate (t : Nat) (s : State) : Host.Outcome State Fault Refusal := .next ((s.advance t).capUpdate.resumeLoads)

/-! ### IMAGE_QUERY -/

def infoImageQuery (h : Hdr) (handle dest : Nat) : CmdInfo :=
  { op := 0x0103, cls := .read
    fields := [param 8 8 handle, param 16 64 dest]
    inRange := destOk h dest }

/-- The mask of the variants retired in group `g`. -/
def Image.retiredMask (m : Image) (g : Nat) : Nat := sumOf ((List.range 64).map fun v => 2 ^ v * b2n (m.isRetired g v))

def effImageQuery (handle dest : Nat) (i : Inflight) (s : State) : State :=
  let m := s.img handle
  if !m.loaded then s.failCmd i.id stNotFound
  else
    (s.writeDest dest (pad 32 m.digest ++ (List.range 48).flatMap fun g => leBytes 8 (m.retiredMask g))).finish i.id
      stSuccess
      (resultOf [(12, leBytes 1 m.variants), (13, leBytes 1 (b2n (m.profile == 1152))), (14, leBytes 2 m.recordRows),
        (16, leBytes 2 m.chunkSamples), (18, leBytes 2 m.outBytes)])

def execImageQuery (t : Nat) (h : Hdr) (handle dest : Nat) (s : State) : Host.Outcome State Fault Refusal :=
  .next (s.hostCommand t h (.imageQuery t h handle dest) (infoImageQuery h handle dest) (effImageQuery handle dest))

end Sys2Proof.Machine
end

