-- ==== Sys2Proof/Machine/Streams.lean ====
section
/-! DEFINITION. Streams opened, fed, read and closed: STREAM_OPEN (R38 to R45, R299), STREAM_CLOSE (R37), STREAM_QUERY
(R35), STREAM_MARK (R189), STREAM_INPUT (R301), and what the commands meet in each stream state (R303). -/

namespace Sys2Proof.Machine

/-! ### Parameters (R41, R248, R300) -/

/-- A class by its code. -/
def clsOf (v : Nat) : Cls := if v = 0 then .s else if v = 1 then .c else .b
def Cls.code : Cls → Nat
  | .s => 0
  | .c => 1
  | .b => 2

/-- A HOME that names a group or leaves the choice to the device. -/
def homeOk (v : Nat) : Bool := decide (v < 48) || v == 0x3F

/-- OUT_BASE goes with a SINK of KIND 0x2. -/
def outBaseOk (sink : BitVec 32) (base : Nat) : Bool := if bindKind sink = 2 then base % 4096 == 0 else base == 0

/-- A SOURCE, and a SINK, that a stream of this rate and image may have. -/
def State.sourceOk (s : State) (w : BitVec 32) (rate chunk : Nat) : Bool :=
  if bindKind w = 1 then s.bindOk w false rate chunk 0
  else bindKind w == 2 && bits w.toNat 0 18 == 0 && bits w.toNat 19 9 == 0
def State.sinkOk (s : State) (w : BitVec 32) (rate : Nat) (m : Image) : Bool :=
  if bindKind w = 0 then bits w.toNat 0 28 == 0
  else if bindKind w = 1 then s.bindOk w true rate m.chunkSamples m.audioOut
  else bindKind w == 2 && bits w.toNat 16 12 == 0 && decide (2 ≤ bindOutSlots w)

/-- The data paths of the ports that a binding names are ENABLED (Table 13-9). -/
def State.bindUp (s : State) (w : BitVec 32) : Bool := bindKind w != 1 || (s.prt (bindPort w)).unit == .enabled

/-- R41, with T_p, T_d and T_s of R40. -/
def timesOk (cls : Cls) (rate chunk deadline stale : Nat) : Bool :=
  let f := rateHz rate
  decide (0 < f) && decide (5000000 ≤ sampleCycles chunk f) && decide (10030000 ≤ sampleCycles deadline f)
    && (if cls = .b then decide (deadline ≤ stale) else stale == 0)

/-! ### Space, slots and homes (R39, R178, R179, R185) -/

/-- The group of a new stream, if one passes (R44, R45, Table 2-4). -/
def State.admitHome (s : State) (d : Demand) (home : Nat) : Option Nat :=
  if d.cls = .s ∧ 256 ≤ (s.openOf .s).length then none
  else if home = 0x3F then s.chooseGroup d fun _ => true
  else if s.passes home d then some home else none

/-- A place for a home: in LPDDR6, or for a B stream in the host spill region. -/
def State.placeHome (s : State) (cls : Cls) (size : Nat) : Option (Nat × Bool) :=
  match s.placeFar size with
  | some a => some (a, false)
  | none => match cls, s.spill with
    | .b, some r => (allocate s.spillAlloc r.base (r.base + r.size) size).map fun x => (x.1, true)
    | _, _ => none

def State.takeHome (s : State) (a size : Nat) (spilled : Bool) : State :=
  if spilled then { s with spillAlloc := s.spillAlloc ++ [⟨a, size⟩] } else { s with farAlloc := s.farAlloc ++ [⟨a, size⟩] }
def State.freeHome (s : State) (r : Stream) : State :=
  if r.spilled then { s with spillAlloc := freeRange s.spillAlloc r.recordAddr r.homeSize }
  else { s with farAlloc := freeRange s.farAlloc r.recordAddr r.homeSize }

/-- A slot of group `g` is pinned for S stream `n`, a victim giving way if none is free; the slot, 0xFF while none can
be had. -/
def State.pinSlot (s : State) (g n : Nat) : State × Nat :=
  match s.freeSlot g with
  | some l => (s.setSlot g l { stream := n, pinned := true }, l)
  | none => match s.victim g .s none with
    | some (l, step, _) =>
      if s.cometUnit == .enabled && decide ((s.grp g).swaps.length < 4) then
        ((if step = 2 then s.count (grpEvictReady g) 1 else s).evict g l (some n), l)
      else (s, 0xFF)
    | none => (s, 0xFF)

/-! ### S indices (R334, R335) -/

/-- The lowest free S index. -/
def State.freeSIndex (s : State) : Option Nat := (List.range 256).find? fun i => !(s.safeS i).valid

/-- The SOURCE of a stream is tapped by Vigil. -/
def State.isCovered (s : State) (r : Stream) : Bool :=
  r.portSource && s.vigil.imageValid && s.vigil.image.taps.contains (bindPort r.source, bindSlot r.source)

/-- S stream `n` gets its S index and starts DEGRADED, in its recovery interval. -/
def State.enterS (s : State) (n : Nat) : State :=
  match s.freeSIndex with
  | some i =>
    let r := s.str n
    let e : SafeS := { stream := n, valid := true, degraded := true, covered := s.isCovered r, recoverLeft := s.recoveryChunks r }
    ((s.setStr n { r with sIndex := some i }).setSafeS i e).judge i 0
  | none => s
def State.leaveS (s : State) (n : Nat) : State :=
  match (s.str n).sIndex with
  | some i => s.setSafeS i {}
  | none => s

/-! ### Opening -/

/-- What a stream that opens is made of. -/
structure OpenSpec where
  stream : Nat
  cls : Cls
  image : Nat
  home : Nat
  cq : Nat
  rate : Nat
  deadline : Nat
  stale : Nat
  source : BitVec 32
  sink : BitVec 32
  outBase : Nat
  nextSeq : Nat := 0
  nextSample : Nat := 0
  classWord : Nat

/-- The entry of a stream that opens, before it has a place. -/
def OpenSpec.entry (o : OpenSpec) (m : Image) : Stream :=
  let f := rateHz o.rate
  { st := .opened, cls := o.cls, image := o.image, home := o.home, nextSeq := o.nextSeq, nextSample := o.nextSample
    classWord := o.classWord, rate := o.rate, chunkSamples := m.chunkSamples, deadline := o.deadline, stale := o.stale
    source := o.source, sink := o.sink, homeSize := homeBytes m.recordRows, cq := o.cq, outBase := o.outBase
    td := sampleCycles o.deadline f, ts := sampleCycles o.stale f, tp := sampleCycles m.chunkSamples f
    inStart := o.nextSample, stampSeq := o.nextSeq, stampFirst := o.nextSample, recSeq := (o.nextSeq + 2 ^ 32 - 1) % 2 ^ 32 }

/-- A stream opens in group `o.home` with `record` in its home, if there is room: channels bound, an S stream pinned, its
record on its way into the slot. The slot pinned comes with it. -/
def State.openStream (s : State) (o : OpenSpec) (record : Nat → State → List Byte) (retries : WriteRetries) :
    Option (State × Nat) :=
  let r := o.entry (s.img o.image)
  match s.placeHome o.cls r.homeSize, s.placeNear (s.nearTaken o.home) r.ring.size with
  | some (a, spilled), some base =>
    let n := o.stream
    let s1 := (s.takeHome a r.homeSize spilled).setStr n { r with recordAddr := a, spilled, inBase := base }
    let s2 := (s1.writeHome n (record n s1) retries).bindChan o.source n false |>.bindChan o.sink n true
    let s3 := if o.cls = .s then s2.enterS n else s2
    let (s4, l) := if o.cls = .s then s3.pinSlot o.home n else (s3, 0xFF)
    some (s4.requestSwaps o.home, l)
  | _, _ => none

/-- The result of STREAM_OPEN, STREAM_IMPORT: home group, slot, SPILLED. -/
def State.openResult (s : State) (n slot : Nat) : List Byte :=
  let r := s.str n
  resultOf [(12, leBytes 1 r.home), (13, leBytes 1 slot), (14, leBytes 1 (b2n r.spilled))]

/-- The group that HOME names. -/
def homeObj (home : Nat) : List Obj := if home = 0x3F then [] else [.unit 0 home]

/-- Table 13-5. -/
def openFields (p : OpenParams) : List EntryField :=
  [param 8 20 p.stream, param 12 8 p.image, param 13 2 p.cls, param 14 6 p.home, param 15 6 p.cq, param 16 4 p.rate
  , param 18 16 p.deadline, param 20 24 p.stale, param 24 32 p.source.toNat, param 28 32 p.sink.toNat, param 32 64 p.outBase]

def infoStreamOpen (p : OpenParams) : CmdInfo :=
  { op := 0x0210, cls := .owner
    fields := openFields p
    inRange := decide (p.stream < 2 ^ 20) && decide (1 ≤ p.image) && decide (p.image ≤ 64) && decide (p.cls < 3)
      && homeOk p.home && decide (p.cq < 64) && decide (p.rate < 13) && decide (p.stale < 2 ^ 24) && outBaseOk p.sink p.outBase
    objs := [.stream p.stream, .image p.image, .ring p.cq] ++ homeObj p.home }

/-- An import of this stream number is in progress. -/
def Stream.reserved (r : Stream) : Bool := r.st != .closed || r.imp.isSome

/-- Units that an opening stream needs (Table 13-9, check 4 of R299). -/
def State.homeUp (s : State) (home : Nat) : Bool := home == 0x3F || (s.grp home).unit == .enabled
def State.openUp (s : State) (home : Nat) (source sink : BitVec 32) : Bool :=
  s.cometUnit == .enabled && s.homeUp home && s.bindUp source && s.bindUp sink

def effStreamOpen (p : OpenParams) (retries : WriteRetries) (i : Inflight) (s : State) : State :=
  let m := s.img p.image
  let cls := clsOf p.cls
  if (s.str p.stream).reserved then s.failCmd i.id stInvalidParam
  else if !m.loaded then s.failCmd i.id stNotFound
  else if !(s.sourceOk p.source p.rate m.chunkSamples && s.sinkOk p.sink p.rate m) then s.failCmd i.id stInvalidParam
  else if !s.openUp p.home p.source p.sink then s.failCmd i.id stDisabled
  else if !timesOk cls p.rate m.chunkSamples p.deadline p.stale then s.failCmd i.id stInvalidParam
  else
    match s.admitHome ⟨p.image, cls, rateHz p.rate, m.chunkSamples⟩ p.home with
    | none => s.failCmd i.id stNoCapacity
    | some g =>
      let o : OpenSpec :=
        { stream := p.stream, cls, image := p.image, home := g, cq := p.cq, rate := p.rate, deadline := p.deadline
          stale := p.stale, source := p.source, sink := p.sink, outBase := p.outBase, classWord := m.initClassWord }
      match s.openStream o (fun n s => s.initialRecord n 0xFFFFFFFF 0) retries with
      | some (s1, l) => s1.finish i.id stSuccess (s1.openResult p.stream l)
      | none => s.failCmd i.id stNoCapacity

def execStreamOpen (t : Nat) (h : Hdr) (p : OpenParams) (s : State) (retries : WriteRetries := []) :
    Host.Outcome State Fault Refusal :=
  .next (s.hostCommand t h (.streamOpen t h p retries) (infoStreamOpen p) (effStreamOpen p retries))

/-! ### Closing (R37) -/

/-- Samples that complete no chunk are discarded. DESIGN CHOICE: a chunk whose samples are complete in the input ring counts as
ready, whether or not its readiness notice has come (R37, notes/assumptions/61.md). -/
def Stream.trim (r : Stream) : Stream :=
  { r with samples := r.samples.take (r.stampFirst + r.unstamped * r.chunkSamples - r.inStart) }

/-- Stream `n` is CLOSING: a move that waits starts nothing (R303). -/
def State.startClose (s : State) (n : Nat) : State :=
  let r := s.str n
  let s1 := s.setStr n { r.trim with st := .closing, move := none }
  match r.move with
  | some m => s1.finish m.cmd stStreamBusy []
  | none => s1

/-- A transfer between a slot and the home of stream `n` is in progress, or a swap-in of it is pending: asked for, or waiting
for a slot that a victim leaves (R187). -/
def State.inTransfer (s : State) (n : Nat) : Bool :=
  let G := s.grp (s.str n).home
  G.swapQ.contains n || G.swaps.any fun w => w.out == some n || w.inFor == some n

/-- The slots that hold stream `n` or are reserved for it are free. -/
def State.releaseSlots (s : State) (g n : Nat) : State :=
  (List.range 128).foldl (fun s l =>
    let v := s.slotAt g l
    if (v.valid || v.pinned) && v.stream == n && !(s.grp g).swapOn l then s.setSlot g l {} else s) s

/-- A swap-out that frees a slot for stream `n` frees it for none. -/
def State.forgetSwaps (s : State) (g n : Nat) : State :=
  s.modGrp g fun G => { G with
    swapQ := G.swapQ.filter (· != n)
    swaps := G.swaps.map fun w => if w.inFor = some n then { w with inFor := none } else w }

/-- Stream `n` is closed: record, slot, bindings and S index are freed, and its entry has its reset values. -/
def State.freeStream (s : State) (n : Nat) : State :=
  let r := s.str n
  let s1 := ((((s.releaseSlots r.home n).forgetSwaps r.home n).freeHome r).unbind n).leaveS n
  (s1.setStr n {}).requestSwaps r.home

/-- STREAM_CLOSE commands of stream `n` that have not completed. -/
def State.closers (s : State) (n : Nat) : List Nat :=
  (s.inflight.filter fun i => i.done.isNone && (match i.instr with
    | .streamClose _ _ k => k == n
    | _ => false)).map (·.id)

/-- Nothing of a CLOSING stream is outstanding. -/
def State.closeDue (s : State) (n : Nat) : Bool :=
  let r := s.str n
  r.st == .closing && !r.outstanding && r.xport.isNone && !s.inTransfer n

def State.streamClosed (s : State) (n : Nat) : State :=
  if s.closeDue n && s.firmwareUp then
    let ids := s.closers n
    (s.freeStream n).finishAll ids stSuccess []
  else s

def execStreamClosed (t stream : Nat) (s : State) : Host.Outcome State Fault Refusal :=
  .next ((s.advance t).streamClosed stream)

def infoStreamClose (stream : Nat) : CmdInfo :=
  { op := 0x0211, cls := .owner
    fields := [param 8 20 stream]
    inRange := decide (stream < 2 ^ 20)
    objs := [.stream stream] }

/-- STREAM_CLOSE by stream state (Table 13-7); a close that has waited for a MOVE export finds the stream CLOSED. -/
def effStreamClose (stream : Nat) (i : Inflight) (s : State) : State :=
  let r := s.str stream
  match r.st with
  | .closed => if i.waiting then s.finish i.id stSuccess [] else s.failCmd i.id stNotFound
  | .opened => if r.xport.isSome then s.waitCmd i.id else s.startClose stream
  | .moving | .closing | .exporting => s.waitCmd i.id

def execStreamClose (t : Nat) (h : Hdr) (stream : Nat) (s : State) : Host.Outcome State Fault Refusal :=
  .next (s.hostCommand t h (.streamClose t h stream) (infoStreamClose stream) (effStreamClose stream))

/-! ### STREAM_QUERY (Table 2-1) -/

def StrState.code : StrState → Nat
  | .closed => 0
  | .opened => 1
  | .moving => 2
  | .closing => 3
  | .exporting => 4

/-- The entry's 64 bytes; a CLOSED one reads 0. -/
def Stream.bytes (r : Stream) : List Byte :=
  if r.st = .closed then List.replicate 64 0
  else
    leBytes 1 (r.st.code + 16 * r.cls.code) ++ leBytes 1 r.image
      ++ leBytes 2 (r.home + 64 * b2n r.slot.isSome + 128 * r.slot.getD 0) ++ leBytes 4 r.nextSeq ++ leBytes 6 r.nextSample
      ++ leBytes 1 r.classWord ++ leBytes 1 r.rate ++ leBytes 2 r.chunkSamples ++ leBytes 2 r.deadline ++ leBytes 4 r.stale
      ++ leBytes 4 r.source.toNat ++ leBytes 4 r.sink.toNat ++ leBytes 6 r.recordAddr ++ leBytes 2 (b2n r.spilled)
      ++ leBytes 4 r.done ++ leBytes 4 r.late ++ leBytes 4 r.shed ++ leBytes 4 r.maxLate ++ leBytes 4 r.pace ++ leBytes 4 0

def infoStreamQuery (h : Hdr) (stream part dest : Nat) : CmdInfo :=
  { op := 0x0212, cls := .read
    fields := [param 8 20 stream, param 12 2 part, param 16 64 dest]
    inRange := decide (stream < 2 ^ 20) && decide (part < 4) && destOk h dest }

def effStreamQuery (stream part dest : Nat) (i : Inflight) (s : State) : State :=
  let e := (s.str stream).bytes
  (s.writeDest dest e).finish i.id stSuccess (resultOf [(12, slice e (if dest = 0 then 16 * part else 0) 16)])

def execStreamQuery (t : Nat) (h : Hdr) (stream part dest : Nat) (s : State) : Host.Outcome State Fault Refusal :=
  .next (s.hostCommand t h (.streamQuery t h stream part dest) (infoStreamQuery h stream part dest)
    (effStreamQuery stream part dest))

/-! ### STREAM_MARK (R189) -/

def infoStreamMark (stream index : Nat) : CmdInfo :=
  { op := 0x0213, cls := .owner
    fields := [param 8 20 stream, param 16 48 index]
    inRange := decide (stream < 2 ^ 20) && decide (index < 2 ^ 48)
    objs := [.stream stream] }

/-- A mark that the stream cannot take: its chunk is over or running, or holds 16 other marks. -/
def Stream.markBad (r : Stream) (index : Nat) : Bool :=
  let start := index - (index - r.nextSample) % r.chunkSamples
  decide (index < r.nextSample)
    || (r.chunks.any fun c => c.first == start && (c.pos == .running || c.pos == .committing))
    || (!r.marks.contains index
        && decide (16 ≤ (r.marks.filter fun m => decide (start ≤ m) && decide (m < start + r.chunkSamples)).length))

/-- The mark is kept in ascending order. -/
def Stream.addMark (r : Stream) (index : Nat) : Stream :=
  if r.marks.contains index then r else { r with marks := insertBy (fun a b => decide (a ≤ b)) index r.marks }

def effStreamMark (stream index : Nat) (i : Inflight) (s : State) : State :=
  let r := s.str stream
  match r.st with
  | .closed => s.failCmd i.id stNotFound
  | .closing => s.failCmd i.id stStreamBusy
  | .opened | .moving | .exporting =>
    if r.markBad index then s.failCmd i.id stInvalidParam
    else (s.setStr stream (r.addMark index)).finish i.id stSuccess []

def execStreamMark (t : Nat) (h : Hdr) (stream index : Nat) (s : State) : Host.Outcome State Fault Refusal :=
  .next (s.hostCommand t h (.streamMark t h stream index) (infoStreamMark stream index) (effStreamMark stream index))

/-! ### STREAM_INPUT (R301) -/

def infoStreamInput (stream first count addr : Nat) : CmdInfo :=
  { op := 0x0216, cls := .owner
    fields := [param 8 20 stream, param 16 48 first, param 24 32 count, param 32 64 addr]
    inRange := decide (stream < 2 ^ 20) && decide (first < 2 ^ 48) && decide (1 ≤ count)
    objs := [.stream stream] }

/-- Samples of `w` bytes each. -/
def samplesOf (w count : Nat) (l : List Byte) : List Int := (pieces w count l).map fun b => sext (8 * w) (leNat b)

/-- The status that refuses the input before it is read, if any. -/
def Stream.inputRefusal (r : Stream) (first count : Nat) : Option Nat :=
  if bindKind r.source ≠ 2 ∨ 2 * r.chunkSamples < count ∨ first ≠ r.inputIndex then some stInvalidParam
  else if r.ringFree < count then some stNoCapacity
  else none

def effStreamInput (stream first count : Nat) (data : HostData) (i : Inflight) (s : State) : State :=
  let r := s.str stream
  match r.st with
  | .closed => s.failCmd i.id stNotFound
  | .closing => s.failCmd i.id stStreamBusy
  | .moving => s.waitCmd i.id
  | .opened | .exporting =>
    let w := if bindSfmt r.source then 4 else 2
    match r.inputRefusal first count, s.hostData data (w * count) with
    | some st, _ => s.failCmd i.id st
    | none, none => s.failCmd i.id stHostError
    | none, some l =>
      let r1 := r.putSamples (samplesOf w count l)
      ((s.setStr stream r1).putRing stream r.inputIndex count).finish i.id stSuccess (resultOf [(16, leBytes 6 r1.inputIndex)])

def execStreamInput (t : Nat) (h : Hdr) (stream first count addr : Nat) (data : HostData) (s : State) :
    Host.Outcome State Fault Refusal :=
  .next (s.hostCommand t h (.streamInput t h stream first count addr data) (infoStreamInput stream first count addr)
    (effStreamInput stream first count data))

/-! ### A port's DISABLE in ABORT mode (Table 13-9) -/

def Run.without (r : Run) (n : Nat) : Run := { r with chunks := r.chunks.filter fun p => p.1 != n }

/-- A gap before a planned run of the round goes on without stream `n`'s chunk. -/
def Gap.without (x : Gap) (n : Nat) : Gap :=
  match x.before with
  | some r => if r.rerun || r.wide then x else { x with before := if (r.without n).chunks.isEmpty then none else some (r.without n) }
  | none => x

/-- The planned chunk of stream `n`, whose run has not started, is withdrawn. -/
def State.unplan (s : State) (n : Nat) : State :=
  let g := (s.str n).home
  let G := s.grp g
  let plan := s.planWithout g fun p => p.1 == n
  let total := G.total - (s.runsCost G.plan - s.runsCost plan)
  (s.setGrp g { G with plan, total, gap := G.gap.map fun x => x.without n }).modStr n fun r =>
    { r with chunks := r.chunks.map fun c => if c.pos = .placed then { c with pos := .waiting } else c }

/-- A port to which the stream is bound is ABORTING. -/
def State.portAborting (s : State) (r : Stream) : Bool :=
  (r.portSource && (s.prt (bindPort r.source)).unit == .aborting) || (r.portSink && (s.prt (bindPort r.sink)).unit == .aborting)

/-- An OPEN stream of an ABORTING port is closed, its chunks that have not started ending with ST_ABORTED; one that moves
or is being exported, once that ends. -/
def State.closeForPort (s : State) (n : Nat) : State :=
  let r := s.str n
  if r.st == .opened && r.xport.isNone && s.portAborting r then
    ((s.unplan n).endChunks n stAborted fun c => c.pos == .waiting).startClose n
  else s

/-! ### The end of a wait (R303) -/

/-- Commands that waited for a move or an export of stream `n` to end take effect, in their order. -/
def State.wakeStream (s : State) (n : Nat) : State :=
  (s.inflight.filter fun i => i.waiting && i.objs.contains (.stream n)).foldl (fun s i =>
    match i.instr with
    | .streamClose _ _ k => effStreamClose k i (s.takesEffect i.id)
    | .streamInput _ _ k first count _ data => effStreamInput k first count data i (s.takesEffect i.id)
    | _ => s) (s.closeForPort n)

end Sys2Proof.Machine
end

