-- ==== Sys2Proof/Machine/Moves.lean ====
section
/-! DEFINITION. Streams that leave, come and move: STREAM_EXPORT with EXPORT_BEGIN and EXPORT_DONE (R194, R195),
STREAM_IMPORT with IMPORT_DONE (R196), STREAM_MOVE with MOVE_BEGIN and MOVE_END (R26, R187, R303), SPILL_ASSIGN (R239). -/

namespace Sys2Proof.Machine

/-! ### Export keys (R387, R389) -/

/-- KEY_CLEAR commands that wait for slot `k`. -/
def State.keyClears (s : State) (k : Nat) : List Nat :=
  (s.inflight.filter fun i => i.waiting && (match i.instr with
    | .keyClear _ _ n => n == k
    | _ => false)).map (·.id)

/-- The export key in slot `k`; one that a KEY_CLEAR waits for serves no further export or import. -/
def State.exportKey (s : State) (k : Nat) : Option (List Byte) :=
  match s.keyAt k with
  | some x => if x.kind = 1 ∧ (s.keyClears k).isEmpty then some x.key else none
  | none => none

/-- An export or import that has been taken uses key slot `k`. -/
def State.keyInUse (s : State) (k : Nat) : Bool :=
  s.streams.any fun e =>
    (match e.2.xport with
      | some x => x.keySlot == k
      | none => false)
    || (match e.2.imp with
      | some q => q.params.keySlot == k
      | none => false)

/-- Key slot `k` is empty. -/
def State.dropKey (s : State) (k : Nat) : State := { s with keys := tput none s.keys k none }

/-- A KEY_CLEAR that waited for slot `k` acts once nothing uses the slot. -/
def State.wakeKey (s : State) (k : Nat) : State :=
  let ids := s.keyClears k
  if ids.isEmpty || s.keyInUse k then s else (s.dropKey k).finishAll ids stSuccess []

/-! ### STREAM_EXPORT -/

def exportHeaderBytes : Nat := 128

/-- The least LENGTH of STREAM_EXPORT for a record of `rows` rows. -/
def exportRoom (rows : Nat) : Nat := exportHeaderBytes + 4148 * (rows / 64)

def infoStreamExport (stream keySlot : Nat) (move : Bool) (addr len : Nat) : CmdInfo :=
  { op := 0x0214, cls := .owner
    fields := [param 8 20 stream, param 12 8 keySlot, param 13 1 (b2n move), param 16 64 addr, param 24 32 len]
    inRange := decide (stream < 2 ^ 20) && decide (keySlot < 8)
    objs := [.stream stream] }

/-- A move that waits in OPEN starts nothing (R303). -/
def State.dropMove (s : State) (n : Nat) : State :=
  match (s.str n).move with
  | some m => (s.modStr n fun r => { r with move := none }).finish m.cmd stStreamBusy []
  | none => s

def effStreamExport (stream keySlot : Nat) (move : Bool) (addr len : Nat) (i : Inflight) (s : State) : State :=
  let r := s.str stream
  if r.st != .opened || r.xport.isSome then s.failCmd i.id stStreamBusy
  else if len < exportRoom (s.img r.image).recordRows then s.failCmd i.id stInvalidParam
  else if s.cometUnit != .enabled then s.failCmd i.id stDisabled
  else if (s.exportKey keySlot).isNone then s.failCmd i.id stKeyInvalid
  else (s.dropMove stream).modStr stream fun r => { r with xport := some { keySlot, move, addr, len, cmd := i.id } }

def execStreamExport (t : Nat) (h : Hdr) (stream keySlot : Nat) (move : Bool) (addr len : Nat) (s : State) :
    Host.Outcome State Fault Refusal :=
  .next (s.hostCommand t h (.streamExport t h stream keySlot move addr len) (infoStreamExport stream keySlot move addr len)
    (effStreamExport stream keySlot move addr len))

/-- The Comet engine's transfers are served (R320). -/
def State.cometServed (s : State) : Bool := s.power.m != 8

/-- The export of stream `n` starts once no chunk of it is running or awaiting commit; a chunk that is placed in a run that has not
started is taken out of the plan (R187, R194, notes/assumptions/61.md). -/
def State.exportBegin (s : State) (n : Nat) : State :=
  let r := s.str n
  match r.xport with
  | some x =>
    if r.st == .opened && !x.begun && !r.busy && !s.inTransfer n && s.cometUnit == .enabled && s.groupsWork then
      (s.unplan n).modStr n fun r => { r with st := .exporting, xport := some { x with begun := true } }
    else s
  | none => s

def execExportBegin (t stream : Nat) (s : State) : Host.Outcome State Fault Refusal := .next ((s.advance t).exportBegin stream)

def cometExports : Nat := 0x260C10
def cometImports : Nat := 0x260C14
def cometImportRejects : Nat := 0x260C18

/-- The header of Table 8-3. -/
def exportHeader (r : Stream) (n : Nat) (m : Image) (x : ExportReq) (nonce total : Nat) : List Byte :=
  let h := pad 124 (leBytes 2 1 ++ leBytes 2 exportHeaderBytes ++ leBytes 2 m.recordRows ++ leBytes 2 (m.recordRows / 64)
    ++ leBytes 1 x.keySlot ++ leBytes 1 r.cls.code ++ leBytes 1 r.rate ++ leBytes 1 (b2n x.move) ++ leBytes 2 r.chunkSamples
    ++ leBytes 2 r.deadline ++ leBytes 4 r.stale ++ leBytes 4 n ++ leBytes 4 r.nextSeq ++ leBytes 1 r.classWord ++ leBytes 3 0
    ++ leBytes 8 r.nextSample ++ leBytes 8 nonce ++ pad 32 m.digest ++ leBytes 4 total)
  h ++ leBytes 4 (crc32c h)

/-- The tweak of block `j` of a container (R195). -/
def containerTweak (nonce j : Nat) : Nat := 2 ^ 64 * nonce + j

/-- What the Comet engine reads for an export: the committed copy, or the record in its home; else the status of what is
wrong. The reads that met an error are those of the committed copy by the swap port (R96), or of the home's rows (R233). An armed
codec fails the read of a home. -/
def State.exportRead (s : State) (n : Nat) (fault : TransferFault) (copy : List (Nat × Met)) (home : MemReads) :
    Except Nat (List Byte) × State :=
  let r := s.str n
  match r.slot with
  | some l =>
    let (s1, lost) := s.copyReads r.home l (b2n (s.slotAt r.home l).committed) copy
    if fault = .none && !lost then (.ok (s1.committedCopy n l), s1)
    else (.error (if (s.slotAt r.home l).clean then stCheckFail else stStateLost), s1)
  | none =>
    match s.fireCodec with
    | (some st, s1) => (.error st, s1.asInjected fun s => s.stateBlockFailed r.home st)
    | (none, s0) =>
      let (s1, lost) := s0.homeReads n home
      match lost, fault, s1.readHome n with
      | false, .none, .ok b => (.ok b, s1)
      | _, _, _ =>
        let st := s1.readWrong n fault
        if st = 0 then (.error (if r.spilled then stHostError else stMemError), s1)
        else (.error st, s1.stateBlockFailed r.home st)

/-- The container of stream `n` is written to host memory and the export completes (steps 2 to 4 of R194). -/
def State.writeContainer (s : State) (n : Nat) (x : ExportReq) (key record : List Byte) : State :=
  let r := s.str n
  let m := s.img r.image
  let (rnd, s1) := s.drawRandom
  let nonce := rnd % 2 ^ 64
  let (body, coded, raw) := encodeRecord m.stateTable exportHeaderBytes (some key) (containerTweak nonce) record
  let total := exportHeaderBytes + body.length
  let s2 := (((s1.count cometCoded coded).count cometRaw raw).count cometExports 1).hostWriteRelaxed x.addr
    (exportHeader r n m x nonce total ++ body)
  let s3 := s2.setStr n { r with st := .opened, xport := none }
  let s4 := if x.move then
      (State.endUnstamped n stAborted r.unstamped (s3.endChunks n stAborted fun _ => true)).freeStream n
    else s3.requestSwaps r.home
  s4.finish x.cmd stSuccess (resultOf [(12, leBytes 4 total), (16, leBytes 6 r.nextSample)])

/-- An export ends without a container; the stream is OPEN again. -/
def State.failExport (s : State) (n : Nat) (x : ExportReq) (status : Nat) : State :=
  let r := s.str n
  let s1 := s.setStr n { r with st := if r.st = .exporting then .opened else r.st, xport := none }
  s1.finish x.cmd status []

/-- What waited for the export goes on. -/
def State.afterExport (s : State) (n : Nat) (x : ExportReq) : State := (s.wakeKey x.keySlot).wakeStream n

def State.exportDone (s : State) (n : Nat) (fault : TransferFault) (copy : List (Nat × Met)) (home : MemReads)
    (retries : WriteRetries) : State :=
  let r := s.str n
  match r.xport with
  | some x =>
    if r.st == .exporting && !s.inTransfer n && s.groupsWork && s.cometServed then
      match s.exportRead n fault copy home, s.keyAt x.keySlot with
      | (.ok record, s1), some k => (s1.writeContainer n x k.key record).afterExport n x
      | (.ok _, s1), none => (s1.failExport n x stKeyInvalid).afterExport n x
      | (.error st, s1), _ =>
        let s2 := s1.failExport n x st
        let s3 := match r.slot with
          | some l => s2.recordFault n (s1.slotAt r.home l).clean retries
          | none => s2.requestSwaps r.home
        s3.afterExport n x
    else s
  | none => s

def execExportDone (t stream : Nat) (fault : TransferFault) (s : State) (copyReads : List (Nat × Met) := [])
    (homeReads : MemReads := []) (retries : WriteRetries := []) : Host.Outcome State Fault Refusal :=
  .next ((s.advance t).exportDone stream fault copyReads homeReads retries)

/-! ### STREAM_IMPORT -/

/-- The parameters of STREAM_IMPORT in its entry (Table 13-4). -/
def importFields (p : ImportParams) : List EntryField :=
  [param 8 20 p.stream, param 12 8 p.cls, param 13 8 p.home, param 14 8 p.cq, param 15 8 p.keySlot, param 16 64 p.addr
  , param 24 32 p.source.toNat, param 28 32 p.sink.toNat, param 32 64 p.outBase, param 40 16 p.deadline, param 44 32 p.stale
  , param 48 1 (b2n p.ovr)]

def infoStreamImport (p : ImportParams) : CmdInfo :=
  { op := 0x0215, cls := .owner
    fields := importFields p
    inRange := decide (p.stream < 2 ^ 20) && decide (p.cls < 3) && homeOk p.home && decide (p.cq < 64)
      && decide (p.keySlot < 8) && decide (p.stale < 2 ^ 24) && outBaseOk p.sink p.outBase
    objs := [.stream p.stream, .ring p.cq] ++ homeObj p.home }

/-- Bytes of block `j` of a container, by its header. -/
def containerBlock (l : List Byte) (j : Nat) : Nat × Nat :=
  let off := field l (exportHeaderBytes + 4 * j) 4
  (off, 16 + bodyLen (parseHdr (l.drop off)).words)

/-- Check 2 of R196. -/
def containerOk (l : List Byte) : Bool :=
  let rows := field l 4 2
  let n := field l 6 2
  let total := field l 80 4
  let zero (i k : Nat) : Bool := (slice l i k).all (· == 0)
  field l 124 4 == crc32c (l.take 124) && field l 0 2 == 1 && field l 2 2 == exportHeaderBytes && n * 64 == rows
    && decide (field l 11 1 < 2) && decide (field l 19 1 = 0) && zero 29 3 && zero 38 2 && zero 84 40
    && decide (exportHeaderBytes + 4 * n ≤ total)
    && ((List.range n).all fun j =>
        let b := containerBlock l j
        decide (b.1 + b.2 ≤ total))

/-- Check 3 of R196: the loaded image that the container goes with. -/
def State.containerImage (s : State) (l : List Byte) : Option Nat :=
  s.loaded.find? fun h => (s.img h).digest == slice l 48 32 && (s.img h).recordRows == field l 4 2

/-- Check 5 of R196: the record, or the status of the block that fails, 0 for a record that does not fit the header. -/
def containerRecord (m : Image) (key l : List Byte) : Except Nat (List Byte) :=
  let nonce := field l 40 8
  match decodeRecord m.stateTable (m.recordRows / 64) exportHeaderBytes (some key) (containerTweak nonce) l with
  | .error e => .error e
  | .ok b =>
    if recordCrcOk b && (recordSeq b + 1) % 2 ^ 32 == field l 24 4 && recordNextSample b == field l 32 6 then .ok b
    else .error 0

/-- A failed block of a container is counted and recorded; no group takes part (R218). -/
def State.containerBlockFailed (s : State) (st : Nat) : State :=
  if isBlockStatus st then (s.count cometBlockFails 1).logEvent 0x0122 noUnit noUnit st (leBytes 2 0 ++ leBytes 4 0) else s

/-- An import is rejected at check 2, 3 or 5. -/
def State.rejectImport (s : State) (id st : Nat) : State := (s.count cometImportRejects 1).failCmd id st

/-- What a container asks for, with a host's own limits where OVR is set. -/
def importOf (p : ImportParams) (cmd image : Nat) (m : Image) (l : List Byte) : ImportReq :=
  { params := p, cmd, record := [], nextSeq := field l 24 4, nextSample := field l 32 6, classWord := field l 28 1, image
    rate := field l 10 1, chunkSamples := m.chunkSamples, deadline := if p.ovr then p.deadline else field l 14 2
    stale := if p.ovr then p.stale else field l 16 3 }

/-- Check 4 of R196. -/
def State.importFits (s : State) (q : ImportReq) : Bool :=
  let m := s.img q.image
  s.sourceOk q.params.source q.rate m.chunkSamples && s.sinkOk q.params.sink q.rate m
    && timesOk (clsOf q.params.cls) q.rate m.chunkSamples q.deadline q.stale

/-- Check 5, with an armed codec failing it. -/
def State.importRecord (s : State) (m : Image) (key l : List Byte) : Except Nat (List Byte) × State :=
  match s.fireCodec with
  | (some st, s1) => (.error st, s1.asInjected fun s => s.containerBlockFailed st)
  | (none, s1) =>
    match containerRecord m key l with
    | .ok b => (.ok b, s1)
    | .error st => (.error st, s1.containerBlockFailed st)

/-- Checks 2 to 5 of R196; an import that passes them goes on to write its home. -/
def State.checkImport (s : State) (p : ImportParams) (key l : List Byte) (id : Nat) : State :=
  if !containerOk l then s.rejectImport id stImportInvalid
  else match s.containerImage l with
    | none => s.rejectImport id stImportMismatch
    | some h =>
      let m := s.img h
      let q := importOf p id h m l
      if !s.importFits q then s.failCmd id stInvalidParam
      else match s.importRecord m key l with
        | (.error _, s1) => s1.rejectImport id stImportInvalid
        | (.ok b, s1) => s1.modStr p.stream fun r => { r with imp := some { q with record := (pieces 64 4096 b).map bytesRow } }

def effStreamImport (p : ImportParams) (data : HostData) (i : Inflight) (s : State) : State :=
  if (s.str p.stream).reserved then s.failCmd i.id stInvalidParam
  else if !s.openUp p.home p.source p.sink then s.failCmd i.id stDisabled
  else match s.exportKey p.keySlot, s.hostData data (max exportHeaderBytes ((data.getD []).length)) with
    | none, _ => s.failCmd i.id stKeyInvalid
    | some _, none => s.failCmd i.id stHostError
    | some k, some l => s.checkImport p k l i.id

def execStreamImport (t : Nat) (h : Hdr) (p : ImportParams) (data : HostData) (s : State) : Host.Outcome State Fault Refusal :=
  .next (s.hostCommand t h (.streamImport t h p data) (infoStreamImport p) (effStreamImport p data))

/-- The record of an import with its new stream number and its CRC formed again. -/
def ImportReq.bytes (q : ImportReq) : List Byte := sealRecord (patch (q.record.flatMap rowBytes) 4 (leBytes 4 q.params.stream))

/-- The stream of an import opens in group `g`, or there is no room (check 6 of R196). -/
def State.openImport (s : State) (n : Nat) (q : ImportReq) (g : Nat) (retries : WriteRetries) : State :=
  let p := q.params
  let o : OpenSpec :=
    { stream := n, cls := clsOf p.cls, image := q.image, home := g, cq := p.cq, rate := q.rate, deadline := q.deadline
      stale := q.stale, source := p.source, sink := p.sink, outBase := p.outBase, nextSeq := q.nextSeq
      nextSample := q.nextSample, classWord := q.classWord }
  match s.openStream o (fun _ _ => q.bytes) retries with
  | some (s1, l) => (s1.count cometImports 1).finish q.cmd stSuccess (s1.openResult n l)
  | none => s.failCmd q.cmd stNoCapacity

/-- The import ends. Once under way it does so though the Comet engine drains (Table 13-9). -/
def State.importDone (s : State) (n : Nat) (retries : WriteRetries) : State :=
  let r := s.str n
  match r.imp with
  | some q =>
    if !s.groupsWork || !s.cometServed then s
    else
      let p := q.params
      let s1 := s.setStr n { r with imp := none }
      let s2 :=
        if !(s1.homeUp p.home && s1.bindUp p.source && s1.bindUp p.sink) then s1.failCmd q.cmd stDisabled
        else if !s1.importFits q then s1.failCmd q.cmd stInvalidParam
        else match s1.admitHome ⟨q.image, clsOf p.cls, rateHz q.rate, q.chunkSamples⟩ p.home with
          | some g => s1.openImport n q g retries
          | none => s1.failCmd q.cmd stNoCapacity
      s2.wakeKey p.keySlot
  | none => s

def execImportDone (t stream : Nat) (s : State) (retries : WriteRetries := []) : Host.Outcome State Fault Refusal :=
  .next ((s.advance t).importDone stream retries)

/-! ### STREAM_MOVE -/

def infoStreamMove (stream home : Nat) : CmdInfo :=
  { op := 0x0217, cls := .owner
    fields := [param 8 20 stream, param 12 6 home]
    inRange := decide (stream < 2 ^ 20) && homeOk home
    objs := .stream stream :: homeObj home }

/-- Group `g` passes the stream that is to move there (R44, R39); its own group, with the stream counted once. -/
def State.moveFits (s : State) (n g : Nat) : Bool :=
  let r := s.str n
  if g = r.home then
    let (need, ok) := s.sumNeed (s.grp g).headroom (s.demandsOf (s.claimed g)) s.loaded 0
    r.cls == .b || (ok && decide (need ≤ (s.grp g).budget) && !(s.grp g).capacityShort
      && (r.cls == .c || (decide (s.pins g < 32) && s.canPin g)))
  else s.passes g r.demand

/-- The cases in which R39 refuses a stream of this class for want of device resources. -/
def State.deviceFull (s : State) (r : Stream) : Bool :=
  r.cls == .s && (decide (256 ≤ (s.openOf .s).length) || (s.placeFar r.homeSize).isNone)

/-- The group that the stream is to move to. -/
def State.moveTarget (s : State) (n home : Nat) : Option Nat :=
  let r := s.str n
  if s.deviceFull r then none
  else if home = 0x3F then s.chooseGroup r.demand fun g => g != r.home
  else if s.moveFits n home then some home else none

/-- A place for the input ring in the near window of group `g`. -/
def State.moveRing (s : State) (n g : Nat) : Option Nat :=
  let r := s.str n
  if g = r.home then some r.inBase else s.placeNear (s.nearTaken g) r.ring.size

def effStreamMove (stream home : Nat) (i : Inflight) (s : State) : State :=
  let r := s.str stream
  match r.st with
  | .closed => s.failCmd i.id stNotFound
  | .moving | .closing | .exporting => s.failCmd i.id stStreamBusy
  | .opened =>
    if r.move.isSome || r.xport.isSome then s.failCmd i.id stStreamBusy
    else if home ≠ 0x3F ∧ (s.grp home).unit ≠ .enabled then s.failCmd i.id stDisabled
    else match s.moveTarget stream home with
      | none => s.failCmd i.id stNoCapacity
      | some g => match s.moveRing stream g with
        | none => s.failCmd i.id stNoCapacity
        | some base => s.setStr stream { r with move := some { target := g, base, cmd := i.id } }

def execStreamMove (t : Nat) (h : Hdr) (stream home : Nat) (s : State) : Host.Outcome State Fault Refusal :=
  .next (s.hostCommand t h (.streamMove t h stream home) (infoStreamMove stream home) (effStreamMove stream home))

/-- A swap-in of stream `n` is in progress in its home group. -/
def State.comingIn (s : State) (n : Nat) : Bool :=
  (s.grp (s.str n).home).swaps.any fun w => w.out.isNone && w.inFor == some n

/-- The slot of stream `n` can be given up now: none is VALID, it needs no transfer, or a transfer can start. -/
def State.canLeave (s : State) (n : Nat) : Bool :=
  let r := s.str n
  match r.slot with
  | some l => (s.slotAt r.home l).clean || (s.cometUnit == .enabled && decide ((s.grp r.home).swaps.length < 4))
  | none => true

/-- A waiting move starts: the stream is MOVING, and its record leaves the old group (R187). -/
def State.moveBegin (s : State) (n : Nat) : State :=
  let r := s.str n
  match r.move with
  | some m =>
    if r.st == .opened && !m.begun && r.chunks.isEmpty && !s.comingIn n && s.canLeave n && s.groupsWork then
      let g := r.home
      let s1 := (s.setStr n { r with st := .moving, move := some { m with begun := true } }).forgetSwaps g n
      let s2 := match r.slot with
        | some l => s1.evict g l none
        | none => s1.releaseSlots g n
      ((s2.requestSwaps g).progressRetirement g).judgeAll
    else s
  | none => s

def execMoveBegin (t stream : Nat) (s : State) : Host.Outcome State Fault Refusal := .next ((s.advance t).moveBegin stream)

/-- The move ends: the stream is OPEN in its new group with its input ring in that group's near window, an S stream pinned there,
and held notices are delivered. -/
def State.moveEnd (s : State) (n : Nat) : State :=
  let r := s.str n
  match r.move with
  | some m =>
    if r.st == .moving && m.begun && r.slot.isNone && !s.inTransfer n && s.groupsWork then
      let g := m.target
      let s1 := (s.setStr n { r with st := .opened, home := g, inBase := m.base, move := none }).putRing n r.inStart
        r.samples.length
      let (s2, l) := if r.cls = .s then s1.pinSlot g n else (s1, 0xFF)
      let s3 := s2.requestSwaps g
      let s4 := if (s3.grp g).running then s3.deliverHeld n else s3
      ((s4.finish m.cmd stSuccess (resultOf [(12, leBytes 1 g), (13, leBytes 1 l)])).judgeAll).wakeStream n
    else s
  | none => s

def execMoveEnd (t stream : Nat) (s : State) : Host.Outcome State Fault Refusal := .next ((s.advance t).moveEnd stream)

/-! ### SPILL_ASSIGN -/

def spillUnit : Nat := 2 * 2 ^ 20
def spillMax : Nat := 256 * 2 ^ 30

def infoSpillAssign (base size : Nat) : CmdInfo :=
  { op := 0x0220, cls := .owner
    fields := [param 8 64 base, param 16 64 size]
    inRange := decide (base % spillUnit = 0) && decide (size % spillUnit = 0) && decide (size ≤ spillMax) }

def effSpillAssign (base size : Nat) (i : Inflight) (s : State) : State :=
  if !s.spillAlloc.isEmpty then s.failCmd i.id stInvalidParam
  else ({ s with spill := if size = 0 then none else some ⟨base, size⟩ } : State).finish i.id stSuccess []

def execSpillAssign (t : Nat) (h : Hdr) (base size : Nat) (s : State) : Host.Outcome State Fault Refusal :=
  .next (s.hostCommand t h (.spillAssign t h base size) (infoSpillAssign base size) (effSpillAssign base size))

end Sys2Proof.Machine
end

