-- ==== Sys2Proof/Machine/Units.lean ====
section
/-! DEFINITION. Units: DISABLE, ENABLE, UNIT_RESET and UNIT_QUERY (R304 to R307), the ends of draining and of partial resets
(R305, R362 to R364), SELF_TEST (R341), and the end of a repair record's write (R357). -/

namespace Sys2Proof.Machine

/-! ### Units -/

/-- A TYPE and INDEX that name a unit (R304). -/
def unitExists (type index : Nat) : Bool :=
  ((type == 0 || type == 3) && decide (index < 48)) || (type == 1 && decide (index < 16)) || (type == 2 && index == 0)

/-- The unit is held DISABLED until the next device reset (R360, R367). -/
def State.unitHeld (s : State) (type index : Nat) : Bool :=
  if type = 0 then (s.grp index).heldBy != .none
  else if type = 1 then (s.prt index).heldBy != .none
  else false

/-- The unit's own DISABLE of a UNIT_RESET is in progress, and its reset is to end in OFF. -/
def State.resetAfter (s : State) (type index : Nat) : Bool :=
  if type = 0 then (s.grp index).resetAfter
  else if type = 2 then s.cometResetAfter
  else if type = 3 then (s.grp index).expResetAfter
  else false
def State.resetToOff (s : State) (type index : Nat) : Bool :=
  if type = 0 then (s.grp index).resetToOff
  else if type = 1 then (s.prt index).resetToOff
  else if type = 2 then s.cometToOff
  else (s.grp index).expResetToOff

def State.setReset (s : State) (type index : Nat) (after off : Bool) : State :=
  if type = 0 then s.modGrp index fun G => { G with resetAfter := after, resetToOff := off }
  else if type = 1 then s.modPrt index fun r => { r with resetToOff := off }
  else if type = 2 then { s with cometResetAfter := after, cometToOff := off }
  else s.modGrp index fun G => { G with expResetAfter := after, expResetToOff := off }

/-- Command `id` acts and no longer waits. -/
def State.actCmd (s : State) (id : Nat) : State :=
  { s with inflight := s.inflight.map fun i => if i.id = id then { i with waiting := false } else i }

/-! ### What DISABLE begins (Table 13-9) -/

/-- A rerun or wide-range run that waits for its leading gap. -/
def Group.gapRun (G : Group) : Option Run :=
  match G.gap with
  | some { ends := _, before := some r } => if r.rerun || r.wide then some r else none
  | _ => none

/-- DISABLE in ABORT mode ends the group's runs: the one in progress fails, one that quiesces is not rerun, those that wait
fail for good (R71, R73, R77). -/
def State.abortRuns (s : State) (g : Nat) : State :=
  let clk := s.clk g
  let G := s.grp g
  let gone := (match G.gapRun with
    | some r => r.chunks
    | none => []) ++ G.wideQ.flatMap (·.chunks)
  let s1 := s.modGrp g fun G =>
    { G with
      gap := if G.gapRun.isSome then none else G.gap, wideQ := []
      quiesce := G.quiesce.map fun q => { q with aborted := true } }
  (if G.cur.isSome then s1.failRun g stAborted clk false else s1).failChunks gone stAborted clk

/-- The Almanac slot in progress stops; what a pass has used of its cluster it leaves behind. -/
def State.stopSlot (s : State) (g : Nat) : State :=
  let G := s.grp g
  match G.almTest with
  | some t =>
    let s1 := s.modGrp g fun G => { G with almStart := none, almTest := none }
    match t.set with
    | .pass _ => s1.afterTest g (G.phys t.cluster) t.set
    | .row _ _ => s1
  | none => s

/-- Swaps of group `g` are abandoned (Table 13-9): a record on its way out stays in its slot, one on its way in is asked for
again. -/
def State.abandonSwaps (s : State) (g : Nat) : State :=
  (s.grp g).swaps.foldl (fun s w =>
    let s1 := (s.dropSwap g w.slot).dropHold g (.swap w.slot) (s.clk g)
    match w.out with
    | some n => s1.modStr n fun r => { r with slot := some w.slot }
    | none =>
      let v := s1.slotAt g w.slot
      if v.pinned then s1 else s1.setSlot g w.slot {}) s

/-- Exports and imports in progress end with ST_ABORTED. -/
def State.abortTransfers (s : State) : State :=
  s.streams.foldl (fun s e =>
    match e.2.xport, e.2.imp with
    | some x, _ => (s.failExport e.1 x stAborted).afterExport e.1 x
    | none, some q => ((s.modStr e.1 fun r => { r with imp := none }).finish q.cmd stAborted []).wakeKey q.params.keySlot
    | none, none => s) s

/-- A swap port holds the run of the group. -/
def Group.onSwapPort (G : Group) : Bool :=
  match G.hold with
  | some h => h.srcs.any fun x => match x with
    | .swap _ => true
    | _ => false
  | none => false

def cometTargetResets : Nat := 0x2D0D04

/-- Runs that hold on a swap port fail, where a reset of the Comet engine is on its way (R71, Table 16-5). -/
def State.failSwapHolds (s : State) : State :=
  (List.range 48).foldl (fun s g =>
    if (s.grp g).onSwapPort then (s.count cometTargetResets 1).failRun g stTargetReset (s.clk g) false else s) s

/-- DISABLE of a working or draining unit takes effect (R305). The one that a UNIT_RESET of the Comet engine performs first
leaves the runs that hold on a swap port to fail with ST_TARGET_RESET (R307). -/
def State.startDisable (s : State) (type index : Nat) (abort : Bool) : State :=
  let old := s.unitOf type index
  let ab := abort || old == .aborting
  let fresh := ab && old != .aborting
  let s0 := s.setUnit type index (if ab then .aborting else .draining)
  if type = 0 ∨ type = 3 then
    let s1 := s0.withdrawPlan index false
    let s2 := if fresh then s1.abortRuns index else s1
    (if type = 0 then s2.stopSlot index else s2).progressRetirement index
  else if type = 1 then
    (if fresh then (s0.boundStreams index).foldl (fun s n => s.closeForPort n) s0 else s0)
  else if fresh then
    let s1 := if s.cometResetAfter then s0.failSwapHolds else s0
    ((List.range 48).foldl (fun s g => (s.abandonSwaps g).requestSwaps g) s1).abortTransfers
  else s0

/-- A run in progress has the expander decode or read ahead no more (R215). -/
def State.expandsOver (s : State) (g : Nat) (r : RunInfo) : Bool :=
  (r.expands.all fun x => decide (x.count ≤ x.next)) && (r.decoder.all fun b => decide (b.2 ≤ s.schedNow g))
    && (List.range r.entries).all fun i => decide (i < r.next) || (s.entryAt g r i).op != 0x03

/-- The decoder of group `g` and its input buffer are empty, and no run that is to finish will use them (Table 13-9). -/
def State.expanderEmpty (s : State) (g : Nat) : Bool :=
  let G := s.grp g
  G.quiesce.isNone && G.wideQ.isEmpty && G.gapRun.isNone && (match G.cur with
    | some r => s.expandsOver g r
    | none => true)

/-- The unit holds nothing (Table 13-9). -/
def State.unitEmpty (s : State) (type index : Nat) : Bool :=
  let G := s.grp index
  if type = 0 then !G.running || (G.runsOver && G.commitsOver && G.slotsFree)
  else if type = 1 then (s.boundStreams index).isEmpty
  else if type = 2 then
    ((List.range 48).all fun g => (s.grp g).swaps.isEmpty)
      && s.streams.all fun e => e.2.st != .exporting && e.2.imp.isNone
  else !G.running || s.expanderEmpty index

/-- A port's data path takes up work after DISABLED. -/
def State.takeUp (s : State) (type index : Nat) : State := if type = 1 then s.modPrt index (Port.measureAfresh · s.now) else s

/-- A unit has become ENABLED: what waited for it is asked for again. -/
def State.resumeUnit (s : State) (type index : Nat) : State :=
  if type = 2 then (List.range 48).foldl (fun s g => (s.requestSwaps g).progressRetirement g) s
  else if type = 1 then s
  else (s.requestSwaps index).judgeAll

/-! ### RESETTING -/

def grpExpResets (g : Nat) : Nat := grpRepair g + 0x0C
def grpDiscarded (g : Nat) : Nat := grpRepair g + 0x14
def cometResets : Nat := 0x2D0D00
def cometDiscarded : Nat := 0x2D0D08
def portResets : Nat := 0x2D0D0C

/-- The unit enters RESETTING (R307, Table 16-5). -/
def State.beginUnitReset (s : State) (type index : Nat) : State :=
  let s1 := s.setUnit type index .resetting
  if type = 0 then s1.beginGroupReset index
  else if type = 1 then (s1.resetPort index).count portResets 1
  else if type = 2 then s1.failSwapHolds.count cometResets 1
  else s1.count (grpExpResets index) 1

/-- A detector that the unit's partial reset injects (R363). -/
def unitDetector (type index d : Nat) : Bool :=
  if type = 0 then decide (d < 0xC00) && d / 64 == index
  else if type = 1 then portDetector d == some index
  else if type = 2 then decide (0xC00 ≤ d) && decide (d < 0xC00 + 48)
  else decide (d < 0xC00) && d / 64 == index && decide (24 ≤ d % 64) && decide (d % 64 ≤ 28)

/-- Readiness notices held for the streams of a group are delivered (R362). -/
def State.deliverAll (s : State) (g : Nat) : State :=
  (s.homed g).foldl (fun s n => if (s.str n).st = .moving then s else s.deliverHeld n) s

/-- A group's journal leaves it with fewer working clusters than the profile needs (R360). -/
def State.shortGroup (s : State) (g : Nat) : Bool := decide ((sparesOf s.allRecords g).working < s.clusterCount)

/-- The group leaves its reset (R359 step 5, R362, R363). -/
def State.leaveReset (s : State) (g : Nat) (failed : List (Nat × Nat)) : State :=
  let s1 := (s.endGroupReset g).modGrp g fun G => { G with latent := latentOf failed g, refill := true }
  let s2 := if (s1.grp g).unit = .resetting then s1.setUnit 0 g .enabled else s1
  let s3 := s2.latentFaults failed
  let s4 := if (s3.grp g).heldBy == .none && s3.shortGroup g then
      ({ s3 with repair := { s3.repair with profilePending := true } } : State).holdGroup g .exhausted
    else s3
  ((s4.deliverAll g).requestSwaps g).judgeAll

/-- The partial reset of another unit ends. -/
def State.leaveUnitReset (s : State) (type index : Nat) (failed : List (Nat × Nat)) : State :=
  let s1 := if type = 1 then s.resumePort index else s
  ((s1.setUnit type index .enabled).latentFaults failed).resumeUnit type index

/-- START_FAIL that a partial reset sets takes the device out of service (R367). -/
def State.failStart (s : State) : State :=
  if s.repair.startFail && s.life.phase == .ready then
    { s with life := { s.life with phase := .startFail, ready := false } }
  else s

/-! ### DISABLE -/

def infoDisable (type index : Nat) (abort : Bool) : CmdInfo :=
  { op := 0x0300, cls := .owner
    fields := [param 8 8 type, param 9 8 index, param 10 1 (b2n abort)]
    inRange := unitExists type index
    objs := [.unit type index] }

def effDisable (type index : Nat) (abort : Bool) (i : Inflight) (s : State) : State :=
  if (type = 0 ∨ type = 3) ∧ 0 < s.sHomed index then s.failCmd i.id stStreamBusy
  else match s.unitOf type index with
    | .disabled | .off => s.finish i.id stSuccess []
    | .resetting => s.waitCmd i.id
    | .enabled | .draining | .aborting => (s.startDisable type index abort).actCmd i.id

def execDisable (t : Nat) (h : Hdr) (type index : Nat) (abort : Bool) (s : State) : Host.Outcome State Fault Refusal :=
  .next (s.hostCommand t h (.disable t h type index abort) (infoDisable type index abort) (effDisable type index abort))

/-! ### UNIT_RESET -/

def infoUnitReset (type index : Nat) (off : Bool) : CmdInfo :=
  { op := 0x0302, cls := .owner
    fields := [param 8 8 type, param 9 8 index, param 10 1 (b2n off)]
    inRange := unitExists type index
    objs := [.unit type index] }

def effUnitReset (type index : Nat) (off : Bool) (i : Inflight) (s : State) : State :=
  let u := s.unitOf type index
  if s.unitHeld type index then s.failCmd i.id stDisabled
  else if (type = 0 ∧ (s.grp index).retiring.isSome) ∨ u = .resetting ∨ s.resetAfter type index then s.waitCmd i.id
  else if u = .disabled ∨ u = .off ∨ type = 1 then
    let s1 := s.finishAll (s.unitCmds type index fun j => j.isDisable && !j.waiting) stSuccess []
    ((s1.setReset type index false off).beginUnitReset type index).actCmd i.id
  else ((s.setReset type index true off).startDisable type index true).actCmd i.id

def execUnitReset (t : Nat) (h : Hdr) (type index : Nat) (off : Bool) (s : State) : Host.Outcome State Fault Refusal :=
  .next (s.hostCommand t h (.unitReset t h type index off) (infoUnitReset type index off) (effUnitReset type index off))

/-! ### ENABLE -/

def infoEnable (type index : Nat) : CmdInfo :=
  { op := 0x0301, cls := .owner
    fields := [param 8 8 type, param 9 8 index]
    inRange := unitExists type index
    objs := [.unit type index] }

def effEnable (type index : Nat) (i : Inflight) (s : State) : State :=
  if s.unitHeld type index then s.failCmd i.id stDisabled
  else match s.unitOf type index with
    | .enabled => s.finish i.id stSuccess []
    | .resetting => s.waitCmd i.id
    | .off => ((s.setReset type index false false).beginUnitReset type index).waitCmd i.id
    | .disabled => (((s.setUnit type index .enabled).takeUp type index).resumeUnit type index).finish i.id stSuccess []
    | .draining | .aborting =>
      if s.resetAfter type index then s.waitCmd i.id
      else
        let s1 := s.finishAll (s.unitCmds type index fun j => j.isDisable && !j.waiting) stCancelled []
        ((s1.setUnit type index .enabled).resumeUnit type index).finish i.id stSuccess []

def execEnable (t : Nat) (h : Hdr) (type index : Nat) (s : State) : Host.Outcome State Fault Refusal :=
  .next (s.hostCommand t h (.enable t h type index) (infoEnable type index) (effEnable type index))

/-! ### UNIT_QUERY -/

def infoUnitQuery (type index : Nat) : CmdInfo :=
  { op := 0x0303, cls := .read
    fields := [param 8 8 type, param 9 8 index]
    inRange := unitExists type index }

def effUnitQuery (type index : Nat) (i : Inflight) (s : State) : State :=
  s.finish i.id stSuccess (resultOf [(12, leBytes 1 (s.unitOf type index).code)])

def execUnitQuery (t : Nat) (h : Hdr) (type index : Nat) (s : State) : Host.Outcome State Fault Refusal :=
  .next (s.hostCommand t h (.unitQuery t h type index) (infoUnitQuery type index) (effUnitQuery type index))

/-! ### UNIT_DISABLED -/

/-- A unit that holds nothing becomes DISABLED; a UNIT_RESET goes on (R305, R307). -/
def State.unitDisabled (s : State) (type index : Nat) : State :=
  let u := s.unitOf type index
  if unitExists type index && (u == .draining || u == .aborting) && s.unitEmpty type index && s.groupsWork then
    let ids := s.unitCmds type index fun j => j.isDisable && !j.waiting
    let s1 := (s.setUnit type index .disabled).finishAll ids stSuccess []
    if s.resetAfter type index then
      (s1.setReset type index false (s.resetToOff type index)).beginUnitReset type index
    else s1
  else s

def execUnitDisabled (t type index : Nat) (s : State) : Host.Outcome State Fault Refusal :=
  .next ((s.advance t).unitDisabled type index)

/-! ### UNIT_RESET_END -/

/-- Commands of the unit that waited for its reset or retirement take effect, in their order (R305 to R307, R364). -/
def State.wakeUnit (s : State) (type index : Nat) : State :=
  (s.inflight.filter fun i => i.waiting && i.objs.contains (.unit type index)).foldl (fun s i =>
    match i.instr with
    | .disable _ _ _ _ abort => effDisable type index abort i (s.takesEffect i.id)
    | .enable .. => effEnable type index i (s.takesEffect i.id)
    | .unitReset _ _ _ _ off => effUnitReset type index off i (s.takesEffect i.id)
    | _ => s) s

/-- A partial reset of the unit is in progress, a retirement's of a group among them. -/
def State.inUnitReset (s : State) (type index : Nat) : Bool :=
  s.unitOf type index == .resetting || (type == 0 && !(s.grp index).running && s.unitOf type index != .off)

/-- Replies to a unit in reset are discarded and counted: for a group and its expander in DISCARDED_REPLIES, for a
Comet engine in COMET_DISCARDED. Nothing is pending for a port (R362, Table 16-5, Table 16-11, Table 16-12). -/
def State.countDiscarded (s : State) (type index n : Nat) : State :=
  if type = 1 then s
  else if type = 2 then s.count cometDiscarded n
  else s.count (grpDiscarded index) n

def State.unitResetEnd (s : State) (type index : Nat) (failed : List (Nat × Nat)) (discarded : Nat) : State :=
  if unitExists type index && s.groupsWork && s.inUnitReset type index then
    let bad := failed.filter fun f => unitDetector type index f.1
    let active := s.unitCmds type index fun j => !j.isDisable && !j.waiting
    let s0 := s.countDiscarded type index discarded
    let s1 :=
      if s.unitOf type index == .resetting && s.resetToOff type index then
        (s0.setUnit type index .off).latentFaults bad
      else if type = 0 then s0.leaveReset index bad
      else s0.leaveUnitReset type index bad
    ((s1.failStart).finishAll active stSuccess []).wakeUnit type index
  else s

def execUnitResetEnd (t type index : Nat) (failed : List (Nat × Nat)) (s : State) (discarded : Nat := 0) :
    Host.Outcome State Fault Refusal :=
  .next ((s.advance t).unitResetEnd type index failed discarded)

/-! ### SELF_TEST -/

def infoSelfTest (group cluster : Nat) : CmdInfo :=
  { op := 0x0602, cls := .owner
    fields := [param 8 8 group, param 9 8 cluster]
    inRange := decide (group < 48) }

def effSelfTest (group cluster : Nat) (i : Inflight) (s : State) : State :=
  if s.clusterCount ≤ cluster then s.failCmd i.id stInvalidParam
  else if (s.grp group).unit ≠ .enabled then s.failCmd i.id stDisabled
  else s.queueTests group ((s.grp group).phys cluster) ((List.range 8).map fun k => .pass (k + 1)) false [i.id]

def execSelfTest (t : Nat) (h : Hdr) (group cluster : Nat) (s : State) : Host.Outcome State Fault Refusal :=
  .next (s.hostCommand t h (.selfTest t h group cluster) (infoSelfTest group cluster) (effSelfTest group cluster))

/-! ### REPAIR_RECORD_WRITTEN -/

/-- What a record in flash lets happen (R100, R357, R359). -/
def State.afterRecord (s : State) : RepairNext → State
  | .row g p bank br =>
    if (s.grp g).mapWait.contains (p, bank, br) then
      s.modGrp g fun G =>
        { G with mapWait := G.mapWait.filter (· != (p, bank, br)), mapouts := G.mapouts ++ [(p, bank, br)] }
    else s
  | .cluster g => s.progressRetirement g
  | .exhausted g => s.progressRetirement g
  | .other => s

/-- Event 0x0150. -/
def State.logRecord (s : State) (r : Record) : State :=
  let unit := if r.kind = 6 then noUnit else bits r.location 0 6
  let cluster := if r.kind = 1 ∨ r.kind = 2 then bits r.location 6 5 else noUnit
  s.logEvent 0x0150 unit cluster 0 (leBytes 4 r.number ++ leBytes 1 r.kind)

/-- The oldest repair record on its way into flash is written. -/
def State.recordWritten (s : State) : State :=
  match s.repair.writing with
  | [] => s
  | (r, next) :: rest =>
    if s.firmwareUp then
      ((({ s with repair := { s.repair with journal := s.repair.journal ++ [r], writing := rest } } : State).logRecord
        r).raiseInts [intRepair]).afterRecord next
    else s

def execRepairRecordWritten (t : Nat) (s : State) : Host.Outcome State Fault Refusal := .next ((s.advance t).recordWritten)

end Sys2Proof.Machine
end

