-- ==== Sys2Proof/Machine/Keys.lean ====
section
/-! DEFINITION. Key slots, enrolment and attestation (R374, R385, R387 to R392), and the update of firmware and Vigil slots:
FW_WRITE, FW_WRITE_DONE, FW_ACTIVATE and FW_QUERY (R375, R376, R381 to R384). -/

namespace Sys2Proof.Machine

/-! ### KEY_LOAD, KEY_CLEAR -/

def infoKeyLoad (slot kind addr len : Nat) : CmdInfo :=
  { op := 0x0500, cls := .owner
    fields := [param 8 8 slot, param 9 8 kind, param 16 64 addr, param 24 32 len]
    inRange := decide (slot < 8) && decide (kind < 2) }

def keyBlobBytes : Nat := 192

/-- The 9 ASCII bytes FJ1200-KW, and the KIND byte. -/
def wrapInfo (kind : Nat) : List Byte :=
  [0x46, 0x4A, 0x31, 0x32, 0x30, 0x30, 0x2D, 0x4B, 0x57] ++ leBytes 1 kind

def deviceIdBytes : List Byte := leBytes 16 Config.deviceId
def identityKey : Nat := Config.privateKey Config.deviceSecret 0
def wrappingKey : Nat := Config.privateKey Config.deviceSecret 1

/-- The key of a blob (Table 17-6), none where R388 refuses it. -/
def blobKey (kind : Nat) (l : List Byte) : Option (List Byte) :=
  let eph := slice l 20 97
  if field l 0 2 ≠ 1 ∨ field l 2 1 ≠ kind ∨ slice l 4 16 ≠ deviceIdBytes ∨ (pointOf eph).isNone then none
  else
    let kek := hkdf384 deviceIdBytes (ecdh wrappingKey (pointOf eph)) (wrapInfo kind) 32
    match keyUnwrap kek (slice l 120 72) with
    | some k => if k.take 32 = k.drop 32 then none else some k
    | none => none

def effKeyLoad (slot kind len : Nat) (data : HostData) (i : Inflight) (s : State) : State :=
  if len ≠ keyBlobBytes ∨ (s.keyAt slot).isSome then s.failCmd i.id stInvalidParam
  else match s.hostData data keyBlobBytes with
    | none => s.failCmd i.id stHostError
    | some l => match blobKey kind l with
      | none => s.failCmd i.id stKeyInvalid
      | some key => ({ s with keys := tput none s.keys slot (some ⟨kind, key⟩) } : State).finish i.id stSuccess []

def execKeyLoad (t : Nat) (h : Hdr) (slot kind addr len : Nat) (data : HostData) (s : State) :
    Host.Outcome State Fault Refusal :=
  .next (s.hostCommand t h (.keyLoad t h slot kind addr len data) (infoKeyLoad slot kind addr len) (effKeyLoad slot kind len data))

def infoKeyClear (slot : Nat) : CmdInfo :=
  { op := 0x0501, cls := .owner
    fields := [param 8 8 slot]
    inRange := decide (slot < 8) }

/-- A loaded image has a descriptor that names key slot `k` with ENC = 1. -/
def State.keyNamed (s : State) (k : Nat) : Bool :=
  s.loaded.any fun h => (s.img h).tensors.any fun t => t.enc && t.keySlot == k

def effKeyClear (slot : Nat) (i : Inflight) (s : State) : State :=
  if (s.keyAt slot).isNone then s.finish i.id stSuccess []
  else if s.keyNamed slot then s.failCmd i.id stImageBusy
  else if s.keyInUse slot then s.waitCmd i.id
  else (s.dropKey slot).finish i.id stSuccess []

def execKeyClear (t : Nat) (h : Hdr) (slot : Nat) (s : State) : Host.Outcome State Fault Refusal :=
  .next (s.hostCommand t h (.keyClear t h slot) (infoKeyClear slot) (effKeyClear slot))

/-! ### KEY_ENROL -/

def infoKeyEnrol (addr len : Nat) : CmdInfo :=
  { op := 0x0502, cls := .owner
    fields := [param 16 64 addr, param 24 32 len]
    inRange := true }

def enrolBytes : Nat := 60

def effKeyEnrol (len : Nat) (data : HostData) (i : Inflight) (s : State) : State :=
  if s.boot.enrolled then s.failCmd i.id stKeyInvalid
  else if len ≠ enrolBytes then s.failCmd i.id stKeyInvalid
  else match s.hostData data enrolBytes with
    | none => s.failCmd i.id stHostError
    | some l =>
      if !hssKeyOk l then s.failCmd i.id stKeyInvalid
      else ({ s with boot := { s.boot with enrolledKey := l, keyHash := sha256 l, enrolled := true } } : State).finish i.id
        stSuccess []

def execKeyEnrol (t : Nat) (h : Hdr) (addr len : Nat) (data : HostData) (s : State) : Host.Outcome State Fault Refusal :=
  .next (s.hostCommand t h (.keyEnrol t h addr len data) (infoKeyEnrol addr len) (effKeyEnrol len data))

/-! ### Slots of flash (R376, R378, R383) -/

/-- The package of firmware slot A or B. -/
def Boot.fw (b : Boot) (slotB : Bool) : Option FwPkg := if slotB then b.fwB else b.fwA
def Boot.setFw (b : Boot) (slotB : Bool) (p : Option FwPkg) : Boot := if slotB then { b with fwB := p } else { b with fwA := p }
def Boot.vigil (b : Boot) (slotB : Bool) : Option VigilPkg := if slotB then b.vigilB else b.vigilA
def Boot.setVigil (b : Boot) (slotB : Bool) (p : Option VigilPkg) : Boot :=
  if slotB then { b with vigilB := p } else { b with vigilA := p }

/-- The package of the Vigil slot in use, none where no slot verified (R382). -/
def State.vigilPkg (s : State) : Option VigilPkg := if s.vigil.imageValid then s.boot.vigil s.boot.vigilSlotB else none

/-- A firmware slot verifies: its package, whose signature held when it was written, reaches the security version fuse. -/
def Boot.fwOk (b : Boot) (slotB : Bool) : Bool :=
  match b.fw slotB with
  | some p => decide (b.svnFuse ≤ p.svn)
  | none => false

/-- The running firmware package, none in recovery. -/
def Boot.runningFw (b : Boot) : Option FwPkg := if b.running = 0 then b.fwA else if b.running = 1 then b.fwB else none

/-- The running slot as FW_QUERY reports it. -/
def Boot.runningByte (b : Boot) : Nat := if b.running < 2 then b.running else 0xFF

/-! ### ATTEST -/

def infoAttest (h : Hdr) (nonce : BitVec 128) (dest len : Nat) : CmdInfo :=
  { op := 0x0503, cls := .read
    fields := [param 16 128 nonce.toNat, param 32 64 dest, param 40 32 len]
    inRange := destOk h dest }

/-- A journal record's 32 bytes (Table 16-3). -/
def recordBytes (r : Record) : List Byte :=
  let b := leBytes 1 r.kind ++ leBytes 1 r.origin ++ leBytes 2 0 ++ leBytes 8 r.location ++ leBytes 4 r.powerUps
    ++ leBytes 8 r.refclk ++ leBytes 4 r.number
  b ++ leBytes 4 (crc32c b)

/-- The report of Table 17-7. -/
def State.attestReport (s : State) (nonce : BitVec 128) : List Byte :=
  let b := s.boot
  let imgs := s.loaded
  let fw := b.runningFw
  leBytes 2 1 ++ leBytes 2 (200 + 36 * imgs.length) ++ deviceIdBytes ++ leBytes 1 stepping
    ++ leBytes 1 (b2n s.repair.profile1152) ++ leBytes 1 b.runningByte
    ++ leBytes 1 (b2n b.enrolled + 2 * b2n b.trial + 4 * b2n s.repair.startFail + 8 * b2n s.repair.service
      + 16 * b2n s.vigil.imageValid)
    ++ leBytes 4 s.fwVersion ++ leBytes 1 b.svnFuse ++ leBytes 1 ((fw.map (·.svn)).getD 0) ++ leBytes 2 0
    ++ pad 32 ((fw.map (·.digest)).getD []) ++ pad 32 ((s.vigilPkg.map (·.digest)).getD [])
    ++ pad 32 (if b.enrolled then b.keyHash else []) ++ sha256 (s.repair.journal.flatMap recordBytes)
    ++ leBytes 4 s.repair.journal.length ++ leBytes 4 (s.repair.journal.filter fun x => x.origin == 1).length
    ++ leBytes 1 s.keySlotBits ++ leBytes 1 s.keyKindBits ++ leBytes 1 imgs.length ++ leBytes 1 0
    ++ leBytes 16 nonce.toNat ++ leBytes 8 s.ctrl ++ leBytes 4 0
    ++ imgs.flatMap fun h => leBytes 1 h ++ leBytes 3 0 ++ pad 32 (s.img h).digest

def effAttest (nonce : BitVec 128) (dest len : Nat) (i : Inflight) (s : State) : State :=
  let r := s.attestReport nonce
  let chain := Config.certChain
  if dest = 0 ∨ len < r.length + 96 + chain.length then s.failCmd i.id stInvalidParam
  else
    let (k, s1) := s.drawRandom
    (s1.hostWrite dest (r ++ ecdsaSign identityKey (k % (p384n - 1) + 1) (sha384 r) ++ chain)).finish i.id stSuccess
      (resultOf [(12, leBytes 4 r.length), (16, leBytes 4 chain.length)])

def execAttest (t : Nat) (h : Hdr) (nonce : BitVec 128) (dest len : Nat) (s : State) : Host.Outcome State Fault Refusal :=
  .next (s.hostCommand t h (.attest t h nonce dest len) (infoAttest h nonce dest len) (effAttest nonce dest len))

/-! ### FW_WRITE -/

def infoFwWrite (addr len : Nat) : CmdInfo :=
  { op := 0x0800, cls := .owner
    fields := [param 8 64 addr, param 16 32 len]
    inRange := true }

/-- The Vigil image that a package's body spells (R329). -/
def vigilImageOf (body : List Byte) : VigilImage :=
  let taps := Config.vigilTaps body
  { taps, ports := (taps.map (·.1)).eraseDups.map fun p => (p, Config.vigilPortCfg body p)
    detectors := (Config.vigilDetectors body).map fun d => ⟨d.1, d.2.1, d.2.2.1, d.2.2.2⟩
    alertMap := Config.vigilAlertMap body, network := Config.vigilNetwork body, crc := Config.vigilCrc body }

/-- What a verified package is to be written as: firmware, Vigil, or neither. -/
inductive Update where
  | firmware (p : FwPkg)
  | vigil (p : VigilPkg)
  | bad
deriving DecidableEq, Repr

/-- Limits of BODY_BYTES (Table 17-2). -/
def fwBodyMax : Nat := 8384512
def vigilBodyMax : Nat := 2093056

/-- A package verified under R376 by its TYPE. -/
def State.verifyUpdate (s : State) (p : List Byte) : Update :=
  let type := field (pkgTrailer p) 4 1
  if type = 0 ∧ packageOk 0 0 fwBodyMax Config.rootKey s.boot.svnFuse p then .firmware ⟨pkgVersion p, pkgSvn p, pkgDigest p⟩
  else if type = 1 ∧ s.keyEnrolled ∧ packageOk 1 0 vigilBodyMax s.boot.enrolledKey 0 p then
    .vigil ⟨pkgVersion p, pkgDigest p, vigilImageOf (pkgBody p)⟩
  else .bad

/-- The firmware slot that is written: the one that is not running. -/
def Boot.targetFw (b : Boot) : Bool := b.running == 0

/-- A marked slot that is to be written gives its mark back to the running one. -/
def Boot.unmark (b : Boot) (slotB : Bool) : Boot :=
  if b.markedB = slotB then { b with markedB := if b.running < 2 then b.running == 1 else b.markedB, trial := false } else b

/-- The erase: the slot is invalid, and the package is on its way into it (R381). -/
def Boot.beginWrite (b : Boot) (cmd : Nat) : Update → Boot
  | .firmware p =>
    { (b.unmark b.targetFw).setFw b.targetFw none with job := some { vigil := none, firmware := some p, slotB := b.targetFw, cmd } }
  | .vigil p =>
    { b.setVigil (!b.vigilSlotB) none with job := some { vigil := some p, firmware := none, slotB := !b.vigilSlotB, cmd } }
  | .bad => b

def effFwWrite (len : Nat) (data : HostData) (i : Inflight) (s : State) : State :=
  if s.boot.job.isSome then s.failCmd i.id stInvalidParam
  else match s.hostData data len with
    | none => s.failCmd i.id stHostError
    | some p => match s.verifyUpdate p with
      | .bad => s.failCmd i.id stFwInvalid
      | u => { s with boot := s.boot.beginWrite i.id u }

def execFwWrite (t : Nat) (h : Hdr) (addr len : Nat) (data : HostData) (s : State) : Host.Outcome State Fault Refusal :=
  .next (s.hostCommand t h (.fwWrite t h addr len data) (infoFwWrite addr len) (effFwWrite len data))

/-- The written slot holds its package, and a Vigil package is pending. -/
def Boot.endWrite (b : Boot) (j : FwJob) : Boot :=
  match j.firmware, j.vigil with
  | some p, _ => b.setFw j.slotB (some p)
  | none, some p => { b.setVigil j.slotB (some p) with vigilPending := true }
  | none, none => b

/-- VERSION and SVN of what was written. -/
def FwJob.figures (j : FwJob) : Nat × Nat :=
  match j.firmware, j.vigil with
  | some p, _ => (p.version, p.svn)
  | none, some p => (p.version, 0)
  | none, none => (0, 0)

/-- Programming and the second verification end (R381). -/
def State.fwWriteDone (s : State) (verified : Bool) : State :=
  match s.boot.job with
  | some j =>
    if s.firmwareUp || s.life.phase == .recovery then
      let b : Boot := { s.boot with job := none, fwWrites := s.boot.fwWrites + 1 }
      if verified then
        let v := j.figures
        ({ s with boot := b.endWrite j } : State).finish j.cmd stSuccess (resultOf [(12, leBytes 4 v.1), (16, leBytes 2 v.2)])
      else ({ s with boot := b } : State).finish j.cmd stFwInvalid []
    else s
  | none => s

def execFwWriteDone (t : Nat) (verified : Bool) (s : State) : Host.Outcome State Fault Refusal :=
  .next ((s.advance t).fwWriteDone verified)

/-! ### FW_ACTIVATE, FW_QUERY -/

def infoFwActivate (slot : Nat) : CmdInfo :=
  { op := 0x0801, cls := .owner
    fields := [param 8 8 slot]
    inRange := decide (slot < 2) }

def effFwActivate (slot : Nat) (i : Inflight) (s : State) : State :=
  if s.boot.running = slot ∧ !s.boot.trial then s.finish i.id stSuccess []
  else if !s.boot.fwOk (slot == 1) then s.failCmd i.id stFwInvalid
  else ({ s with boot := { s.boot with markedB := slot == 1, trial := true } } : State).finish i.id stSuccess []

def execFwActivate (t : Nat) (h : Hdr) (slot : Nat) (s : State) : Host.Outcome State Fault Refusal :=
  .next (s.hostCommand t h (.fwActivate t h slot) (infoFwActivate slot) (effFwActivate slot))

def infoFwQuery : CmdInfo := { op := 0x0803, cls := .read, inRange := true }

/-- VERSION of a firmware slot, 0 if it is invalid. -/
def Boot.fwVersionOf (b : Boot) (slotB : Bool) : Nat := if b.fwOk slotB then ((b.fw slotB).map (·.version)).getD 0 else 0

def effFwQuery (i : Inflight) (s : State) : State :=
  let b := s.boot
  s.finish i.id stSuccess (resultOf
    [(12, leBytes 1 b.runningByte)
    , (13, leBytes 1 (b2n b.markedB + 2 * b2n b.trial + 4 * b2n (b.fwOk false) + 8 * b2n (b.fwOk true)
        + 16 * b2n b.vigilSlotB + 32 * b2n b.vigilPending))
    , (14, leBytes 1 b.svnFuse), (15, leBytes 1 ((b.runningFw.map (·.svn)).getD 0)), (16, leBytes 4 (b.fwVersionOf false))
    , (20, leBytes 4 (b.fwVersionOf true)), (24, leBytes 4 ((s.vigilPkg.map (·.version)).getD 0))])

def execFwQuery (t : Nat) (h : Hdr) (s : State) : Host.Outcome State Fault Refusal :=
  .next (s.hostCommand t h (.fwQuery t h) infoFwQuery effFwQuery)

end Sys2Proof.Machine
end

