-- ==== Sys2Proof/Machine/Life.lean ====
section
/-! DEFINITION. The life of the device: power-up (R377), boot (R378, R382, R383), device reset (R379, R380), the safe-state
sequence (R336, R344 to R348, R369), stops and their end (R19, R20, R323, R324), and the loss of a supply (R398). -/

namespace Sys2Proof.Machine

/-! ### What a reset of the main domains leaves (Table 1-4, R266, R317, R321, R340, R354, R380, R411) -/

/-- A port at a device reset: the port edge keeps PORT_CFG and its clocks, the data path and the masks are reset. -/
def Port.afterReset (r : Port) : Port :=
  { r.resetPath with
    rxMask := 0, txMask := 0, clockHeld := false, unit := .enabled, heldBy := .none, resetToOff := false }

/-- The power block: the set cap and the calibration factor stay, and the sensors go on being read. -/
def Power.afterReset (p : Power) : Power :=
  { capSet := p.capSet, kappa := p.kappa, sensors := p.sensors, sensorsBefore := p.sensorsBefore
    intervalNo := p.intervalNo, updateNo := p.updateNo, sensorNo := p.sensorNo }

/-- The host interface: link, configuration space, MSI-X table and DEV_INT enables and vectors stay. -/
def Hif.afterReset (h : Hif) : Hif :=
  { linkUp := h.linkUp, speed := h.speed, width := h.width, flit := h.flit, functionMasked := h.functionMasked, d3hot := h.d3hot
    msix := h.msix, pba := h.pba, devIntEn := h.devIntEn, devIntVec := h.devIntVec }

/-- What the standby domain keeps of the safety state. -/
def Safety.afterReset (x : Safety) : Safety :=
  { seq := x.seq, cause := x.cause, lastCause := x.lastCause, safeStates := x.safeStates, notResumed := x.notResumed
    set := x.set, stamps := x.stamps }

/-- Records on their way into flash arrive there; nothing waits for them any more. -/
def Repair.afterReset (r : Repair) : Repair :=
  { r with writing := r.writing.map fun w => (w.1, .other), service := false, startFail := false }

/-- Counters that lie in the standby domain (R354). -/
def keptCounter (o : Nat) : Bool := o == evlogLost || o == evlogGaps

/-- The control, group, memory, Comet and audio data path domains are reset; LPDDR6 keeps its contents only in
self-refresh (R346, R380). -/
def State.resetDomains (s : State) (keepMem : Bool) : State :=
  { State.reset with
    pending := s.pending, now := s.now, free := s.free, outs := s.outs, nextCmd := s.nextCmd, hostMem := s.hostMem
    life := s.life, hif := s.hif.afterReset, safePort := { s.safePort with executing := none }
    ctr := s.ctr.filter fun e => keptCounter e.1
    mem := if keepMem then s.mem else []
    channels := (List.range 48).foldl (fun t c => tput {} t c { st := (s.memCh c).st }) []
    ports := (List.range 16).foldl (fun t p => tput {} t p (s.prt p).afterReset) []
    power := s.power.afterReset, safety := s.safety.afterReset, vigil := s.vigil, log := s.log
    repair := s.repair.afterReset, boot := { s.boot with job := none }, keys := s.keys, spillKey := s.spillKey }

/-! ### Power-up -/

/-- A trial start that is not ready when another start begins, or that fails, gives the mark to the other slot (R383). -/
def Boot.dropTrial (b : Boot) : Boot :=
  if b.trialStart then { b with markedB := !b.markedB, trial := false, trialStart := false } else b

/-- A start begins: the first one after FW_ACTIVATE is the trial start. -/
def Boot.newStart (b : Boot) : Boot := if b.trialStart then b.dropTrial else { b with trialStart := b.trial }

/-- KIND 6 records keep κ at the clamp (R371). -/
def startKappa (l : List Record) : Nat := if l.any fun r => r.kind == 6 then kappaMax else 4096

/-- The sequence of Table 17-3 begins: everything but flash, fuses, host memory and the levels of input pins takes its
reset values. The root loop locks and the spill key is drawn (notes/assumptions/32.md). -/
def State.beginPowerUp (s : State) : State :=
  let (k, s1) := s.drawRandom
  { State.reset with
    pending := s1.pending, now := s1.now, free := s1.free, outs := s1.outs, nextCmd := s1.nextCmd, hostMem := s1.hostMem
    life :=
      { phase := .powerUp, kind := .powerUp, pupAt := s1.now, seqAt := s1.now, vin48 := true, vstby := true, refclk := true
        rootLocked := true, coolantOk := s1.life.coolantOk, coolantSince := s1.life.coolantSince, perstN := s1.life.perstN }
    power := { kappa := startKappa s1.repair.journal }
    repair := { journal := s1.repair.journal, powerUps := s1.repair.powerUps + 1, profile1152 := s1.repair.profile1152 }
    boot := { s1.boot.newStart with job := none }
    spillKey := leBytes 64 k }

/-- Coolant has flowed for 100 ms, and every sensor reads below 85 °C (R324). -/
def State.cool (s : State) : Bool :=
  s.life.coolantOk && decide (s.life.coolantSince + 100 * msCycles ≤ s.now) && s.power.sensors.all fun c => decide (c < 85)

/-- A power-up begins. After a stop it does so only where R324 lets the device restart; the root loop relocks in it. -/
def State.powerUp (s : State) : State :=
  if s.life.phase = .off ∧ (!s.life.stopOpen || s.cool) then s.beginPowerUp else s

def execPowerUp (t : Nat) (s : State) : Host.Outcome State Fault Refusal := .next ((s.advance t).powerUp)

/-! ### The Vigil slots (R382) -/

/-- The image keeps to the list of R329: up to 64 taps of ports and slots that exist, rates of 16,000 Hz or 48,000 Hz, a
network of at most 384 KiB, up to 8 tone detectors a tap, and an alert map into lines 0 to 2. -/
def VigilImage.keeps (m : VigilImage) : Bool :=
  decide (m.taps.length ≤ 64) && (m.taps.all fun t => decide (t.1 < 16) && decide (t.2 < 32))
    && (m.ports.all fun p => let hz := (({} : Port).withCfg p.2.toNat).hz; hz == 16000 || hz == 48000)
    && decide (m.network.length ≤ 384 * 1024) && (m.detectors.all fun d => decide (d.tap < m.taps.length))
    && ((List.range m.taps.length).all fun i => decide ((m.detectors.filter fun d => d.tone && d.tap == i).length ≤ 8))
    && m.alertMap.all fun a => decide (a.2 < 3)

/-- A Vigil slot verifies; a package whose body is no image of R329 does not (DESIGN CHOICE, notes/assumptions/31.md). -/
def State.vigilOk (s : State) (slotB read : Bool) : Bool :=
  s.keyEnrolled && read && (s.boot.vigil slotB).any fun p => p.image.keeps

/-- Vigil starts with the image of a slot: the ports that it taps are configured, and their settings are read-only
(R247, R329). -/
def State.startVigil (s : State) (slotB : Bool) : State :=
  match s.boot.vigil slotB with
  | some p =>
    let s1 : State :=
      { s with
        boot := { s.boot with vigilSlotB := slotB, vigilPending := false }
        vigil := { running := true, imageValid := true, image := p.image
                   lastFrame := p.image.taps.foldl (fun t x => tput 0 t x.1 s.now) [] } }
    p.image.ports.foldl (fun s x => s.modPrt x.1 fun r => { r.withCfg x.2.toNat with tapped := true }) s1
  | none => s

/-- The pending slot is tried first, then the other; without a pending one, the slot last in use is. -/
def State.vigilVerify (s : State) (readA readB : Bool) : State :=
  if s.life.phase = .powerUp ∧ !s.vigil.imageValid then
    let first := if s.boot.vigilPending then !s.boot.vigilSlotB else s.boot.vigilSlotB
    let read (b : Bool) := if b then readB else readA
    if s.vigilOk first (read first) then s.startVigil first
    else if s.vigilOk (!first) (read (!first)) then s.startVigil (!first)
    else s
  else s

def execVigilImageVerify (t : Nat) (readA readB : Bool) (s : State) : Host.Outcome State Fault Refusal :=
  .next ((s.advance t).vigilVerify readA readB)

/-! ### The firmware slots (R378, R383) -/

/-- The slot that the boot ROM runs: the marked one, else the other, else none. -/
def Boot.choose (b : Boot) (readA readB : Bool) : Option Bool :=
  let ok (x : Bool) := (if x then readB else readA) && b.fwOk x
  if ok b.markedB then some b.markedB else if ok (!b.markedB) then some (!b.markedB) else none

/-- The ROM has chosen. -/
def Boot.run (b : Boot) : Option Bool → Boot
  | some x =>
    if x = b.markedB then { b with running := b2n x, trialStart := b.trial }
    else { b with running := b2n x, markedB := x, trial := false, trialStart := false }
  | none => { b with running := 3, trial := false, trialStart := false }

/-- The slot run as an event names it. -/
def slotByte : Option Bool → Nat
  | some x => b2n x
  | none => 0xFF

/-- The control domain leaves reset: its counter starts, verified firmware arms the watchdogs, and the chains of enabled
ports start (R23, R250, R369). Recovery ends a safe-state sequence without a resumption. -/
def State.leaveControlReset (s : State) (slot : Option Bool) : State :=
  let s1 : State :=
    { s with
      boot := s.boot.run slot
      life := { s.life with
        phase := if slot.isSome then .booted else .recovery, ctrlBase := s.now, armed := slot.isSome }
      safety := if slot.isSome then s.safety else { s.safety with seq := false, set := none } }
  (List.range 16).foldl (fun s p => s.modPrt p fun r => if r.en then r.atEn s.now 0 else r) s1

/-- The boot ROM verifies and runs a firmware slot, or enters recovery. -/
def State.bootFirmware (s : State) (readA readB : Bool) : State :=
  if s.life.phase = .powerUp ∨ s.life.phase = .inReset then
    let slot := s.boot.choose readA readB
    let marked := s.boot.markedB
    let s1 := s.leaveControlReset slot
    let s2 := if s.life.phase = .powerUp then
        s1.logEvent 0x0001 noUnit noUnit 0 (leBytes 1 (slotByte slot) ++ leBytes 4 s1.fwVersion)
      else s1
    if slot = some marked then s2
    else s2.logEvent 0x0009 noUnit noUnit 0 (leBytes 1 (b2n marked) ++ leBytes 1 (slotByte slot))
  else s

def execFirmwareBoot (t : Nat) (readA readB : Bool) (s : State) : Host.Outcome State Fault Refusal :=
  .next ((s.advance t).bootFirmware readA readB)

/-! ### Groups leave reset -/

/-- A channel as the journal leaves it: retired with a KIND 5 record, its rows repaired, its pages retired by KIND 4
records (R236, R240, R358). -/
def State.startChannel (s : State) (c : Nat) : State :=
  let l := s.allRecords
  let retired := !(channelRecords l 5 c).isEmpty
  let was := (s.memCh c).st
  let s1 := s.setMemCh c
    { st := if retired then 2 else 0, pages := ((channelRecords l 4 c).map fun r => bits r.location 6 22).eraseDups
      calAt := s.now }
  if retired && was != 2 then s1.logEvent 0x0140 c noUnit 0 (leBytes 1 3 ++ leBytes 8 0) else s1

/-- The journal asks for service (R371). -/
def serviceRecord (r : Record) : Bool := r.kind == 5 || r.kind == 6 || (r.kind == 2 && bits r.location 11 5 == 0x1F)

/-- A channel retired at this start moves the extents of every image, which the sequence then does not restore (R346). -/
def SafetySet.dropMoved (x : SafetySet) (moved : Bool) : SafetySet := if moved then { x with images := [] } else x

/-- The group leaves its reset, or is held for want of clusters (R361). -/
def State.startGroup (s : State) (g : Nat) : State :=
  let s1 := s.endGroupReset g
  if s1.shortGroup g then s1.holdGroup g .exhausted else s1

/-- The controllers are initialised, the journal is applied, the profile is decided, and the groups leave reset (R240,
R357, R361, Tables 17-3 and 17-4). -/
def State.startGroups (s : State) : State :=
  if s.life.phase = .booted then
    let before := s.retiredChs
    let s1 := (List.range 48).foldl (fun s c => s.startChannel c) s
    let moved := s1.retiredChs != before
    let s2 : State :=
      { s1 with
        repair := { s1.repair with
          profile1152 := s1.repair.profile1152 || s1.narrowDue, profilePending := false }
        safety := { s1.safety with set := s1.safety.set.map fun x => x.dropMoved moved }
        life := { s1.life with phase := .injecting } }
    let s3 := if s2.repair.journal.any serviceRecord then s2.setService else s2
    (List.range 48).foldl (fun s g => s.startGroup g) s3
  else s

def execGroupsLeaveReset (t : Nat) (s : State) : Host.Outcome State Fault Refusal := .next ((s.advance t).startGroups)

/-! ### The end of start-up injection, and ready -/

/-- Detectors of the device (R365). -/
def detectorCount : Nat := 48 * 37 + 107

/-- A trial start that reaches ready clears TRIAL and advances the fuse (R383). -/
def Boot.endTrial (b : Boot) : Boot :=
  if b.trialStart then
    { b with trial := false, trialStart := false, svnFuse := max b.svnFuse ((b.runningFw.map (·.svn)).getD 0) }
  else b

/-- The device becomes ready; after a reset the cause RESTARTED sets (R410 to R412). -/
def State.becomeReady (s : State) : State :=
  let s1 : State := { s with life := { s.life with phase := .ready, ready := true }, boot := s.boot.endTrial }
  if s.life.kind = .powerUp then s1 else s1.raiseInts [intRestarted]

/-- The start failed (R367, R383): a safe-state sequence goes on but resumes no stream. -/
def State.startFailed (s : State) : State :=
  let s1 : State := { s with boot := s.boot.dropTrial }
  if s.life.kind = .safeState then
    { s1 with
      life := { s1.life with phase := .hashing }
      safety := { s1.safety with set := s1.safety.set.map fun x => x.dropMoved true } }
  else { s1 with life := { s1.life with phase := .startFail } }

/-- The verdict of the start-up injection: event 0x0003, the figures of ERR_STAT and GRP_REPAIR, and each latent fault
(R366, R367). -/
def State.injectionVerdict (s : State) (failed : List (Nat × Nat)) : State :=
  let ds := (failed.map (·.1)).eraseDups
  let first := ds.foldl (fun m d => min m d) (ds.headD 0)
  let s1 := s.logEvent 0x0003 noUnit noUnit 0
    (leBytes 2 (detectorCount - ds.length) ++ leBytes 2 ds.length ++ leBytes 2 first)
  let s2 : State := { s1 with repair := { s1.repair with latentFaults := ds.length, firstLatent := first } }
  let s3 := (List.range 48).foldl (fun s g => s.modGrp g fun G => { G with latent := latentOf failed g }) s2
  s3.latentFaults failed

def State.injectionEnd (s : State) (failed : List (Nat × Nat)) : State :=
  if s.life.phase = .injecting then
    let s1 := s.injectionVerdict (failed.filter fun f => detectorExists f.1)
    if s1.repair.startFail then s1.startFailed
    else if s1.life.kind = .safeState then { s1 with life := { s1.life with phase := .hashing } }
    else s1.becomeReady
  else s

def execStartupInjectionEnd (t : Nat) (failed : List (Nat × Nat)) (s : State) : Host.Outcome State Fault Refusal :=
  .next ((s.advance t).injectionEnd failed)

/-! ### A reset begins -/

/-- The cycle in which DEVICE_RESET takes effect or a safe-state sequence starts: event 0x0002, READY 0, DEV_INT cleared,
watchdogs disarmed (R369, R379, R410, R411). -/
def State.beginReset (s : State) (kind : StartKind) (cause : Nat) : State :=
  let s1 := s.logEvent 0x0002 noUnit noUnit 0 (leBytes 1 cause)
  { s1 with
    hif := { s1.hif with devInt := 0 }, boot := s1.boot.newStart
    life := { s1.life with phase := .resetPending, ready := false, kind, seqAt := s1.now, armed := false } }

def infoDeviceReset : CmdInfo := { op := 0x0802, cls := .owner, inRange := true }

/-- The completion is posted before the reset begins. -/
def effDeviceReset (i : Inflight) (s : State) : State := (s.finish i.id stSuccess []).beginReset .deviceReset 0xFF

/-- What a restart after a stop asks for (R324): the stop is complete, the device is cool, and the root loop has relocked. -/
def State.restartable (s : State) : Bool :=
  s.life.phase == .stopped && s.cool && s.life.refclk && s.life.rootLocked

/-- The main domains are in reset: EPOCH rises, and an earlier safety set is of no more use outside a safe-state
sequence. -/
def State.enterReset (s : State) : State :=
  let safe := s.life.kind == .safeState
  let s1 := s.resetDomains safe
  { s1 with
    life := { s1.life with phase := .inReset, ready := false, stopOpen := false, epoch := (s1.life.epoch + 1) % 256 }
    safety := if safe then s1.safety else { s1.safety with set := none } }

/-- DEVICE_RESET over the sideband during a stop: the standby logic answers it, and a restart goes on from the 2 ms entry of
Table 17-4. Every other command goes unanswered. -/
def State.restart (s : State) (h : Hdr) (instr : Instr) : State :=
  if !spells h 0x0802 [] then s
  else if !s.restartable then s.answer h instr stNotReady
  else if reservedSet h [] then s.answer h instr stInvalidParam
  else
    let s1 := (s.answer h instr stSuccess).beginReset .deviceReset 0xFF
    s1.enterReset

def execDeviceReset (t : Nat) (h : Hdr) (s : State) : Host.Outcome State Fault Refusal :=
  .next (if h.master = .sideband ∧ (s.advance t).isStopped then (s.advance t).restart h (.deviceReset t h)
    else s.hostCommand t h (.deviceReset t h) infoDeviceReset effDeviceReset)

/-! ### The safety set (R345, R347) -/

/-- Open S streams with their entries, and images that one of them runs. -/
def State.openS (s : State) : List (Nat × Stream) := (s.openOf .s).map fun n => (n, s.str n)

/-- The safety set as of now, with the input indices `x0` that it has at the start. -/
def State.safetySet (s : State) (x0 : List (Nat × Nat)) : SafetySet :=
  let l := s.openS
  { streams := l, x0, safeS := s.safety.table
    entries := (s.safety.table.map (·.1)).foldl (fun t i => tput 0 t i (s.ctrAt (safeSEntries i))) []
    images := (s.loaded.filter fun h => l.any fun e => e.2.image == h).map fun h => (h, s.img h)
    cfg := s.cfg
    ports := (List.range 16).map fun p =>
      let r := s.prt p
      (p, r.rxMask, r.txMask, r.rateThresh, r.intEn) }

/-- Input indices of the open S streams. -/
def State.inputIndices (s : State) : List (Nat × Nat) := s.openS.map fun e => (e.1, e.2.inputIndex)

/-! ### Causes of a safe state (R344, R348) -/

/-- Event 0x0008: cause, 0 begin or 1 end or 0xFF for a request that starts nothing, NOT_RESUMED, and the REASON of a
SAFE_STATE_REQUEST. -/
def State.logSafe (s : State) (cause what notResumed reason : Nat) : State :=
  s.logEvent 0x0008 noUnit noUnit 0 (leBytes 1 cause ++ leBytes 1 what ++ leBytes 1 notResumed ++ leBytes 1 reason)

/-- SEQ = 1, the cause, the event, and the sideband's interrupt (Table 15-8). -/
def State.beginSeq (s : State) (cause reason : Nat) : State :=
  let s1 : State := { s with safety := { s.safety with seq := true, cause, set := some (s.safetySet s.inputIndices) } }
  ((s1.logSafe cause 0 0 reason).emit (.inBand ibiSafeState))

/-- No start since power-up has reached ready. -/
def State.firstStart (s : State) : Bool :=
  match s.life.phase with
  | .off | .powerUp => true
  | .booted | .injecting | .recovery | .startFail => s.life.kind == .powerUp
  | _ => false

/-- A device reset is in progress that is no safe-state sequence; its phases run on as those of one. -/
def State.resetBecomes (s : State) : Bool :=
  match s.life.phase with
  | .resetPending | .abandoned | .inReset | .booted | .injecting => s.life.kind == .deviceReset
  | _ => false

/-- A cause of Table 15-7 arises. -/
def State.safeCause (s : State) (cause reason : Nat) : State :=
  if s.isStopped || s.safety.seq then s
  else if s.firstStart && (cause != 3 || s.life.phase == .recovery) then s.logSafe cause 0xFF 0 reason
  else if s.firstStart && s.life.phase != .startFail then
    ({ s with life := { s.life with kind := .safeState, seqAt := s.now } } : State).beginSeq cause reason
  else if s.resetBecomes then
    let s1 : State := { s with life := { s.life with kind := .safeState, seqAt := s.now } }
    s1.beginSeq cause reason
  else (s.beginReset .safeState cause).beginSeq cause reason

/-! ### Runs are abandoned, domains are reset -/

/-- The owner's SAFE_STATE_REQUEST completes, and the safety set is frozen. -/
def State.freezeSet (s : State) : State :=
  let done := match s.safety.ownerCmd with
    | some id => s.finish id stSuccess []
    | none => s
  { done with
    safety := { done.safety with ownerCmd := none, set := done.safety.set.map fun x => done.safetySet x.x0 } }

/-- Commands that have taken effect and not completed do so with ST_ABORTED, and those that wait for them with ST_NOT_READY:
every command has one completion (R294), and what they wait for does not come about (DESIGN CHOICE,
notes/assumptions/46.md). -/
def State.endCommands (s : State) : State :=
  let s1 := s.finishAll ((s.inflight.filter fun i => i.done.isNone).map (·.id)) stAborted []
  s1.fenced.foldl (fun s f =>
    s.deliver { id := f.id, hdr := f.hdr, sqHead := f.sqHead, instr := f.instr, cq := f.cq, objs := [] } stNotReady [])
    { s1 with fenced := [] }

/-- The 1 ms entry of Tables 15-8 and 17-4. -/
def State.abandonRuns (s : State) : State :=
  if s.life.phase = .resetPending then
    let s1 := s.abandonGroups
    let s2 : State := { s1 with life := { s1.life with phase := .abandoned } }
    (if s2.life.kind = .safeState then s2.freezeSet else s2).endCommands
  else s

def execAbandonRuns (t : Nat) (s : State) : Host.Outcome State Fault Refusal := .next ((s.advance t).abandonRuns)

/-- The 2 ms entry. -/
def State.domainReset (s : State) : State := if s.life.phase = .abandoned then s.enterReset else s

def execDomainReset (t : Nat) (s : State) : Host.Outcome State Fault Refusal := .next ((s.advance t).domainReset)

/-! ### The restore of a safe state (Table 15-8, R346) -/

/-- The settings of the safety set are written back. -/
def State.writeBackSettings (s : State) (x : SafetySet) : State :=
  let s1 : State := { s with cfg := x.cfg }
  x.ports.foldl (fun s e => s.modPrt e.1 fun r =>
    { r with rxMask := e.2.1, txMask := e.2.2.1, rateThresh := e.2.2.2.1, intEn := e.2.2.2.2 }) s1

/-- The image as it lies in memory, its near extent read in the window of group `g`, has the retained digest. -/
def State.hashOk (s : State) (m : Image) (g : Nat) : Bool := sha256 (s.imageBytes m g 0 m.bodyBytes) == m.digest

/-- An image of the safety set verifies in place, in every near window, and suits the profile in force. -/
def State.restorable (s : State) (decayed : List Nat) (h : Nat) (m : Image) : Bool :=
  !decayed.contains h && (!s.repair.profile1152 || m.profile == 1152) && (List.range 48).all fun g => s.hashOk m g

/-- An image is restored in its former place, with no variant retired; its Almanac table is examined as at a load (R343). -/
def State.restoreImage (s : State) (h : Nat) (m : Image) : State :=
  let s1 := s.setImg h { m with retired := [], restore := [], alm := [] }
  let s2 : State := { s1 with nearAlloc := s1.nearAlloc ++ [m.nearRange], farAlloc := s1.farAlloc ++ [m.farRange] }
  s2.loadAlmanac h (s2.imageBytes m 0 0 256)

/-- The 320 ms entry. -/
def State.hashImages (s : State) (decayed : List Nat) : State :=
  if s.life.phase = .hashing then
    let s1 : State := { s with life := { s.life with phase := .reopening } }
    match s1.safety.set with
    | some x =>
      x.images.foldl (fun s e => if s.restorable decayed e.1 e.2 then s.restoreImage e.1 e.2 else s) (s1.writeBackSettings x)
    | none => s1
  else s

def execImageHashCheck (t : Nat) (decayed : List Nat) (s : State) : Host.Outcome State Fault Refusal :=
  .next ((s.advance t).hashImages decayed)

/-! ### S streams reopen (R346, R347) -/

/-- Chunks, counted from the stream's next one, that the time away uses up: the numbers n0 to n1 − 1 of R347, where sampling
stood at `x0` and `refs` REFCLK cycles have passed. -/
def Stream.skipped (r : Stream) (x0 refs : Nat) : Nat :=
  ceilDiv (x0 + ceilDiv (refs * rateHz r.rate) 100000000) r.chunkSamples - r.nextSample / r.chunkSamples

/-- Chunk `i` of those ends with ST_ABORTED; its service fields are 0 (Table 2-12). -/
def State.abortSkipped (s : State) (n : Nat) (r : Stream) (i : Nat) : State :=
  ((s.countChunk stAborted 0).postChunk r.cq
    { stream := n, image := r.image, home := r.home, seq := (r.nextSeq + i) % 2 ^ 32, status := stAborted, scaleOut := false
      outcome := 0, latenessUs := 0, hold := 0, swapUs := 0, deferUs := 0, classWord := r.classWord }).safetyEvent n 1

/-- The stream keeps its S index. -/
def State.keepIndex (s : State) (n j : Nat) : State :=
  match (s.str n).sIndex with
  | some i =>
    if i = j then s
    else ((s.setSafeS j (s.safeS i)).setSafeS i {}).modStr n fun r => { r with sIndex := some j }
  | none => s

/-- What reopens stream `n` from its entry `r`, `k` chunks later, at a multiple of its chunk length. -/
def reopenSpec (n : Nat) (r : Stream) (k : Nat) (m : Image) : OpenSpec :=
  { stream := n, cls := .s, image := r.image, home := r.home, cq := r.cq, rate := r.rate, deadline := r.deadline
    stale := r.stale, source := r.source, sink := r.sink, outBase := r.outBase, nextSeq := (r.nextSeq + k) % 2 ^ 32
    nextSample := (r.nextSample / r.chunkSamples + k) * r.chunkSamples, classWord := m.initClassWord }

/-- S stream `n` with the entry `r` reopens in its former home group, if a slot can be pinned there; none where it does
not. -/
def State.reopenOne (s : State) (n : Nat) (r : Stream) (x0 : Nat) (entries : Table Nat) : Option State :=
  let m := s.img r.image
  let G := s.grp r.home
  if !m.loaded || G.unit != .enabled || !s.canPin r.home then none
  else
    let k := r.skipped x0 ((s.now - s.life.seqAt) / 25)
    let o := reopenSpec n r k m
    match s.openStream o (fun n s => s.initialRecord n ((o.nextSeq + 2 ^ 32 - 1) % 2 ^ 32) o.nextSample) [] with
    | some (s1, _) =>
      let s2 := match r.sIndex with
        | some j => (s1.keepIndex n j).setCtr (safeSEntries j) (tget 0 entries j)
        | none => s1
      let s3 := s2.modStr n fun q =>
        { q with done := satAdd r.done k, late := r.late, shed := r.shed, maxLate := r.maxLate, pace := r.pace }
      some ((List.range k).foldl (fun s i => s.abortSkipped n r i) s3)
    | none => none

/-- The streams of the safety set by S index, and how many did not reopen. -/
def State.reopenAll (s : State) (x : SafetySet) : State × Nat :=
  (sortBy (fun (a b : Nat × Stream) => decide (a.2.sIndex.getD 256 ≤ b.2.sIndex.getD 256)) x.streams).foldl
    (fun (a : State × Nat) e =>
      let x0 := ((x.x0.find? fun y => y.1 == e.1).map (·.2)).getD e.2.inputIndex
      match a.1.reopenOne e.1 e.2 x0 x.entries with
      | some s1 => (s1, a.2)
      | none => (a.1, a.2 + 1)) (s, 0)

/-- The 380 ms entry. -/
def State.reopenStreams (s : State) : State :=
  if s.life.phase = .reopening then
    let s1 : State := { s with life := { s.life with phase := .resuming } }
    match s1.safety.set with
    | some x =>
      let (s2, lost) := s1.reopenAll x
      { s2 with safety := { s2.safety with notResumed := lost, set := none } }
    | none => s1
  else s

def execSStreamReopen (t : Nat) (s : State) : Host.Outcome State Fault Refusal := .next ((s.advance t).reopenStreams)

/-- The 400 ms entry: the sequence ends. -/
def State.resume (s : State) : State :=
  if s.life.phase = .resuming then
    let f := s.safety
    let s1 : State := { s with safety := { f with seq := false, safeStates := min 0xFFFFFFFF (f.safeStates + 1), lastCause := f.cause } }
    let s2 := s1.logSafe f.cause 1 (min 255 f.notResumed) 0
    if s2.repair.startFail then { s2 with life := { s2.life with phase := .startFail } } else s2.becomeReady
  else s

def execResumption (t : Nat) (s : State) : Host.Outcome State Fault Refusal := .next ((s.advance t).resume)

/-! ### WATCHDOG_EXPIRY, AUTO_DEGRADE -/

/-- The watchdog of a control core expires (R369). -/
def State.watchdog (s : State) (core : Nat) : State :=
  if s.life.armed then
    let s1 : State := { s with repair := { s.repair with watchdogExpiries := s.repair.watchdogExpiries + 1 } }
    (s1.logEvent 0x0005 noUnit noUnit 0 (leBytes 1 core)).safeCause 3 0
  else s

def execWatchdogExpiry (t core : Nat) (s : State) : Host.Outcome State Fault Refusal := .next ((s.advance t).watchdog core)

/-- Some S stream has held a condition cause for DEGRADE_LIMIT_MS (R336). -/
def State.degradeDue (s : State) : Bool :=
  s.cfg.autoSafe && s.safety.table.any fun e => e.2.valid && (match e.2.condSince with
    | some t => decide (t + msCycles * s.cfg.degradeLimit ≤ s.now)
    | none => false)

def State.autoDegrade (s : State) : State := if s.isReady && s.degradeDue then s.safeCause 4 0 else s

def execAutoDegrade (t : Nat) (s : State) : Host.Outcome State Fault Refusal := .next ((s.advance t).autoDegrade)

/-! ### Clocks (R19, R20) -/

/-- Event 0x0006, and the clock fault raised to the safety port and the sideband. -/
def State.clockFault (s : State) (source : Nat) : State :=
  ((s.logEvent 0x0006 noUnit noUnit 0 (leBytes 1 source)).emit (.clockFault source)).emit (.inBand ibiClock)

/-- The root loop has lost lock. -/
def State.loseRoot (s : State) : State :=
  if s.life.phase != .off && s.life.rootLocked then
    let s1 : State := { s with life := { s.life with rootLocked := false, onRefclk := true } }
    (s1.declareStop 3).clockFault 0
  else s

def execRootLockLoss (t : Nat) (s : State) : Host.Outcome State Fault Refusal := .next ((s.advance t).loseRoot)

/-- The loop has relocked. -/
def State.relockRoot (s : State) : State :=
  if s.life.phase != .off && s.life.refclk then { s with life := { s.life with rootLocked := true } } else s

def execRootRelock (t : Nat) (s : State) : Host.Outcome State Fault Refusal := .next ((s.advance t).relockRoot)

/-- REFCLK is lost: the root loop and Vigil stop, and with the root loop every clock that it feeds. -/
def State.loseRefclk (s : State) : State :=
  if s.life.phase != .off && s.life.refclk then
    let s1 := s.declareStop 3
    let s2 : State :=
      { s1 with
        vigil := { s1.vigil with running := false, heartbeatOn := false }
        life := { s1.life with
          phase := if s1.life.phase = .stopDeclared then .stopGated else s1.life.phase
          refclk := false, refclkAt := s1.now, rootLocked := false, onRefclk := true } }
    s2.clockFault 1
  else s

def execRefclkLoss (t : Nat) (s : State) : Host.Outcome State Fault Refusal := .next ((s.advance t).loseRefclk)

/-- REFCLK is back: its count goes on where it stood, and Vigil runs on it. -/
def State.returnRefclk (s : State) : State :=
  if s.life.phase != .off && !s.life.refclk then
    { s with
      vigil := { s.vigil with running := s.vigil.imageValid }
      life := { s.life with refclk := true, pupAt := s.life.pupAt + (s.now - s.life.refclkAt) } }
  else s

def execRefclkReturn (t : Nat) (s : State) : Host.Outcome State Fault Refusal := .next ((s.advance t).returnRefclk)

/-! ### Coolant (R323, R324) -/

def coolantGlitches : Nat := 0x2B0C1C

/-- REFCLK cycles of low COOLANT_OK that stop the device. -/
def coolantFilter : Nat := 5000

/-- COOLANT_OK has been low for 5,000 REFCLK cycles; where it was low before power-up, since P. -/
def State.loseCoolant (s : State) : State :=
  if s.life.coolantOk then
    ({ s with life := { s.life with coolantOk := false, coolantSince := s.now } } : State).declareStop 1
  else if s.life.pupAt + 25 * coolantFilter ≤ s.now then s.declareStop 1
  else s

def execCoolantLoss (t : Nat) (s : State) : Host.Outcome State Fault Refusal := .next ((s.advance t).loseCoolant)

/-- A shorter low pulse is counted; the line has been high only since its end. -/
def State.glitchCoolant (s : State) : State :=
  if s.life.coolantOk then
    let s1 : State := { s with life := { s.life with coolantSince := s.now } }
    if s1.controlUp then s1.count coolantGlitches 1 else s1
  else s

def execCoolantGlitch (t : Nat) (s : State) : Host.Outcome State Fault Refusal := .next ((s.advance t).glitchCoolant)

def State.restoreCoolant (s : State) : State :=
  if s.life.coolantOk then s else { s with life := { s.life with coolantOk := true, coolantSince := s.now } }

def execCoolantRestored (t : Nat) (s : State) : Host.Outcome State Fault Refusal := .next ((s.advance t).restoreCoolant)

/-! ### The stop goes on (Table 14-5) -/

/-- REFCLK cycles since the stop was declared have reached `n`. -/
def State.stopReached (s : State) (n : Nat) : Bool := decide (s.life.stopAt + 25 * n ≤ s.now)

def State.gateStop (s : State) : State :=
  if s.life.phase == .stopDeclared && s.stopReached 10 then { s with life := { s.life with phase := .stopGated } } else s

def execStopClockGate (t : Nat) (s : State) : Host.Outcome State Fault Refusal := .next ((s.advance t).gateStop)

/-- The rails are down, and with them what the main domains and LPDDR6 held. -/
def State.completeStop (s : State) : State :=
  if s.life.phase == .stopGated && s.stopReached 90000 then
    let s1 := s.resetDomains false
    { s1 with life := { s1.life with phase := .stopped } }
  else s

def execStopComplete (t : Nat) (s : State) : Host.Outcome State Fault Refusal := .next ((s.advance t).completeStop)

/-! ### Supplies (R398) -/

/-- Nothing that VIN_48 feeds works any more; records and packages on their way into flash are cut short. -/
def State.allOff (s : State) : State :=
  let s1 := s.resetDomains false
  { s1 with
    hif := {}, vigil := {}, chans := [], ports := []
    safety := { s1.safety with seq := false, set := none }, repair := { s1.repair with writing := [] }
    life := { s1.life with phase := .off, ready := false, armed := false, rootLocked := false } }

def State.loseVin (s : State) : State :=
  if s.life.vin48 then
    let s1 := s.allOff
    { s1 with life := { s1.life with vin48 := false } }
  else s

def execVin48Loss (t : Nat) (s : State) : Host.Outcome State Fault Refusal := .next ((s.advance t).loseVin)

/-- The standby domain stops too: event log, key slots and what its ports held are lost. -/
def State.loseVstby (s : State) : State :=
  if s.life.vstby then
    let s1 := s.allOff
    { s1 with
      log := {}, keys := [], spillKey := [], safePort := {}, safety := {}, ctr := []
      life := { s1.life with vstby := false, stopCause := 0, stopOpen := false } }
  else s

def execVstbyLoss (t : Nat) (s : State) : Host.Outcome State Fault Refusal := .next ((s.advance t).loseVstby)

end Sys2Proof.Machine
end

