-- ==== Sys2Proof/Machine/Vigil.lean ====
section
/-! DEFINITION. The Vigil island (R329 to R333): hop ends, alert lines, heartbeat, self-checks, lost taps; and the safety port's
own requests: VIGIL_STATUS, SAFE_STATE_REQUEST, responses and rejected commands (R282, R283). -/

namespace Sys2Proof.Machine

/-! ### Alert lines and heartbeat (R330, R331) -/

/-- A line stays high for at least this long. -/
def alertCycles : Nat := 250 * msCycles

/-- Line `k` at a hop end at time `now`: it rises on a positive decision, stays while decisions are positive and its 250 ms
run, and then falls. -/
def Vigil.line (v : Vigil) (now : Nat) (positive : BitVec 3) (k : Nat) : Vigil :=
  let bit : BitVec 3 := BitVec.ofNat 3 (2 ^ k)
  let high := v.level.getLsbD k
  let pos := positive.getLsbD k
  let v1 : Vigil := { v with positive := if pos then v.positive ||| bit else v.positive &&& ~~~bit }
  if pos && !high then
    { v1 with
      level := v1.level ||| bit, holdUntil := tput 0 v1.holdUntil k (now + alertCycles), alerts := min 0xFFFF (v1.alerts + 1) }
  else if high && !pos && decide (tget 0 v.holdUntil k ≤ now) then { v1 with level := v1.level &&& ~~~bit }
  else v1

/-- Vigil processes taps. -/
def Vigil.works (v : Vigil) : Bool := v.running && !v.selfCheckFail

/-- Hops of tap `i` that are complete: 160 samples at 16 kHz each, from the tap's first frame; a port of 48 kHz gives three
frames a sample (R330). -/
def State.tapHops (s : State) (i : Nat) : Nat :=
  let p := (s.vigil.image.taps.getD i (16, 0)).1
  tget 0 s.vigil.frames p / (if (s.prt p).hz = 48000 then 480 else 160)

/-- Detector `k` at this hop end with its score: whether the score exceeds the threshold, and whether the detector decides
positive, which it does where the score exceeds it at two consecutive hop ends. Without a new hop of its tap it is not
scored and decides nothing (R330). -/
def State.detect (s : State) (score : Nat) (k : Nat) (d : VigilDetector) : Bool × Bool :=
  let was := s.vigil.above.getD k false
  if tget 0 s.vigil.scored d.tap < s.tapHops d.tap then
    let is := decide (d.threshold < score)
    (is, is && was)
  else (was, false)

/-- The lines to which the alert map assigns the classes of the detectors that decide positive (R329, R331). -/
def VigilImage.lines (m : VigilImage) (positive : List Bool) : BitVec 3 :=
  (m.detectors.zip positive).foldl (fun l d =>
    if d.2 then l ||| (m.alertMap.filter fun a => a.1 == d.1.cls).foldl (fun l a => l ||| BitVec.ofNat 3 (2 ^ a.2)) 0 else l) 0

/-- A hop ends: the lines take its decisions, and the heartbeat inverts where every tap was processed. -/
def Vigil.hop (v : Vigil) (now : Nat) (positive : BitVec 3) (processed : Bool) : Vigil :=
  let v1 := (List.range 3).foldl (fun v k => v.line now positive k) v
  { v1 with heartbeat := if processed then !v1.heartbeat else v1.heartbeat, heartbeatOn := processed }

/-- Every detector of every tap is scored (R330). The scores are operands: the spec gives neither the networks, nor the
detectors, nor the filter that form them (notes/assumptions/31.md). -/
def State.hopEnd (s : State) (scores : List Nat) (processed : Bool) : State :=
  if s.vigil.works then
    let m := s.vigil.image
    let ds := m.detectors.mapIdx fun k d => s.detect (scores.getD k 0) k d
    let v : Vigil :=
      { s.vigil with
        above := ds.map (·.1)
        scored := (List.range m.taps.length).foldl (fun t i => tput 0 t i (s.tapHops i)) s.vigil.scored }
    { s with vigil := v.hop s.now (m.lines (ds.map (·.2))) processed }
  else s

def execHopEnd (t : Nat) (scores : List Nat) (processed : Bool) (s : State) : Host.Outcome State Fault Refusal :=
  .next ((s.advance t).hopEnd scores processed)

/-- The 250 ms of a line end: it falls unless the last hop end decided positive. -/
def State.alertHoldEnd (s : State) (k : Nat) : State :=
  let v := s.vigil
  if v.works && decide (k < 3) && v.level.getLsbD k && !v.positive.getLsbD k && decide (tget 0 v.holdUntil k ≤ s.now) then
    { s with vigil := { v with level := v.level &&& ~~~BitVec.ofNat 3 (2 ^ k) } }
  else s

def execAlertHoldEnd (t line : Nat) (s : State) : Host.Outcome State Fault Refusal := .next ((s.advance t).alertHoldEnd line)

/-! ### Self-checks and taps (R332) -/

/-- A failed check stops the heartbeat and drives the lines low until power-up. -/
def State.vigilCheck (s : State) (passed : Bool) : State :=
  if s.vigil.works && !passed then
    { s with vigil := { s.vigil with selfCheckFail := true, heartbeatOn := false, level := 0, positive := 0 } }
  else s

def execVigilSelfCheck (t : Nat) (passed : Bool) (s : State) : Host.Outcome State Fault Refusal :=
  .next ((s.advance t).vigilCheck passed)

/-- Tap `i` has received no frame for 4 nominal frame periods of its port. -/
def State.loseTap (s : State) (i : Nat) : State :=
  let v := s.vigil
  match v.image.taps[i]? with
  | some (p, _) =>
    if v.works && decide (i < 64) && decide (4 * 2500000000 ≤ (s.now - tget 0 v.lastFrame p) * (s.prt p).hz) then
      { s with vigil := { v with tapLost := v.tapLost ||| BitVec.ofNat 64 (2 ^ i) } }
    else s
  | none => s

def execTapLost (t tap : Nat) (s : State) : Host.Outcome State Fault Refusal := .next ((s.advance t).loseTap tap)

/-! ### Requests that the standby logic serves over the safety port (R283) -/

/-- A request comes over the safety port and is served whatever the control complex does, unless its CRC check is armed or
the port is busy (R282). -/
def State.portServe (s : State) (h : Hdr) (instr : Instr) (fs : List EntryField) (eff : Inflight → State → State) : State :=
  if !s.standbyUp then s
  else if (s.fireArmed safetyCrcDetector).1 then
    let s1 := (s.fireArmed safetyCrcDetector).2
    { s1 with safePort := { s1.safePort with crcError := true } }
  else if s.safePort.executing.isSome || s.safePort.response.isSome then
    { s with safePort := { s.safePort with refused := true, crcError := false } }
  else
    let s1 : State :=
      { s with safePort := { s.safePort with executing := some s.nextCmd, crcError := false, refused := false } }
    let i : Inflight := { id := s1.nextCmd, hdr := h, sqHead := 0, instr, cq := 0, objs := [] }
    if reservedSet h fs then s1.deliver i stInvalidParam [] else eff i s1

/-! ### VIGIL_STATUS (R333, Table 15-2) -/

/-- DEVICE_STATE. -/
def State.deviceState (s : State) : Nat :=
  if s.isStopped then 3 else if s.safety.seq then 2 else if s.life.phase = .ready then 0 else 1

/-- Open S streams, those DEGRADED, those not covered; 0 before boot and while the control domain is in reset. -/
def State.sCounts (s : State) : List Nat :=
  if s.firmwareUp then
    [(s.openOf .s).length, (s.safety.table.filter fun e => e.2.valid && e.2.degraded).length
    , (s.safety.table.filter fun e => e.2.valid && !e.2.covered).length]
  else [0, 0, 0]

def State.vigilFlags (s : State) : Nat :=
  let v := s.vigil
  b2n v.heartbeatOn + 2 * b2n v.imageValid + 4 * b2n v.selfCheckFail + 8 * b2n s.life.onRefclk + 16 * v.level.toNat

def State.vigilResult (s : State) : List Byte :=
  resultOf
    [(12, leBytes 1 s.vigilFlags), (13, leBytes 1 s.deviceState), (14, s.sCounts.flatMap (leBytes 2))
    , (20, leBytes 8 s.vigil.tapLost.toNat), (28, leBytes 2 s.vigil.alerts), (30, leBytes 1 s.safety.lastCause)
    , (31, leBytes 1 (min 255 s.safety.notResumed))]

def infoVigilStatus : CmdInfo := { op := 0x0601, cls := .read, inRange := true }

def effVigilStatus (i : Inflight) (s : State) : State := s.finish i.id stSuccess s.vigilResult

def execVigilStatus (t : Nat) (h : Hdr) (s : State) : Host.Outcome State Fault Refusal :=
  .next (if h.master = .safety ∧ spells h 0x0601 [] then
      (s.advance t).portServe h (.vigilStatus t h) [] fun i s => s.deliver i stSuccess s.vigilResult
    else s.hostCommand t h (.vigilStatus t h) infoVigilStatus effVigilStatus)

/-! ### SAFE_STATE_REQUEST (R283, R344, R348) -/

def infoSafeStateRequest (reason : Nat) : CmdInfo :=
  { op := 0x0600, cls := .owner
    fields := [param 8 8 reason]
    inRange := true }

/-- The owner's request completes at the 1 ms entry of the sequence that it starts, else at once. -/
def effSafeStateRequest (reason : Nat) (i : Inflight) (s : State) : State :=
  let s1 := s.safeCause 2 reason
  if !s.safety.seq && s1.safety.seq && s1.life.phase == .resetPending then
    { s1 with safety := { s1.safety with ownerCmd := some i.id } }
  else s1.finish i.id stSuccess []

def execSafeStateRequest (t : Nat) (h : Hdr) (reason : Nat) (s : State) : Host.Outcome State Fault Refusal :=
  .next (if h.master = .safety ∧ spells h 0x0600 (infoSafeStateRequest reason).fields then
      (s.advance t).portServe h (.safeStateRequest t h reason) (infoSafeStateRequest reason).fields fun i s =>
        (s.safeCause 1 reason).deliver i stSuccess []
    else s.hostCommand t h (.safeStateRequest t h reason) (infoSafeStateRequest reason) (effSafeStateRequest reason))

/-! ### SAFETY_PORT_RESPONSE, SAFETY_PORT_COMMAND_REJECTED (R282, Table 12-4) -/

/-- Byte 1 of a response transaction. -/
def SafetyPort.code (p : SafetyPort) : Nat :=
  if p.response.isSome then (if p.refused then 3 else 1)
  else if p.executing.isSome then 4
  else if p.crcError then 2
  else 0

/-- Bytes 1 to 37 of a response transaction. -/
def SafetyPort.bytes (p : SafetyPort) : List Byte :=
  let b := leBytes 1 p.code ++ pad 32 (p.response.getD [])
  b ++ leBytes 4 (crc32c b)

/-- A response that has been returned waits no longer. -/
def State.portResponse (s : State) : State :=
  if s.standbyUp then
    let p := s.safePort
    (if p.response.isSome then { s with safePort := { p with response := none, refused := false } } else s).emit
      (.safetyPort p.bytes)
  else s

def execSafetyPortResponse (t : Nat) (s : State) : Host.Outcome State Fault Refusal := .next ((s.advance t).portResponse)

/-- A command transaction that is not executed is recorded for the response code. -/
def State.portRejects (s : State) (crcBad : Bool) : State :=
  if !s.standbyUp then s
  else if crcBad then { s with safePort := { s.safePort with crcError := true } }
  else if s.safePort.executing.isSome || s.safePort.response.isSome then
    { s with safePort := { s.safePort with refused := true, crcError := false } }
  else s

def execSafetyPortCommandRejected (t : Nat) (crcBad : Bool) (s : State) : Host.Outcome State Fault Refusal :=
  .next ((s.advance t).portRejects crcBad)

end Sys2Proof.Machine
end

