-- ==== Sys2Proof/Machine/Memory.lean ====
section
/-! DEFINITION. The memory channels' own events: refresh (R237), calibration (R238, R240), patrol scrub
(R233, R236, R370), and the host's memory window (R416). -/

namespace Sys2Proof.Machine

/-- The memory domain serves channel `c`: it is out of reset, and the channel is not retired. -/
def State.channelUp (s : State) (c : Nat) : Bool :=
  decide (c < 48) && (s.memCh c).st != 2 && (match s.life.phase with
    | .injecting | .hashing | .reopening | .resuming | .ready | .resetPending | .startFail => true
    | _ => false)

/-! ### REFRESH -/

/-- Refresh is issued at the rate of the die's temperature, which TEMP_C reports. -/
def State.refresh (s : State) (c tempC : Nat) : State :=
  if s.channelUp c then s.setMemCh c { s.memCh c with tempC } else s

def execRefresh (t channel tempC : Nat) (s : State) : Host.Outcome State Fault Refusal := .next ((s.advance t).refresh channel tempC)

/-! ### CHANNEL_CALIBRATION -/

/-- Group `g` runs no Almanac slot. -/
def Group.noSlots (G : Group) : Bool := G.unit == .disabled || G.unit == .off || G.heldBy != .none

/-- CORE cycles of a periodic calibration. -/
def calibrationCycles : Nat := 2000

/-- A calibration of channel `c` is complete: every 16th Almanac slot of group `c` since its reset starts with one, and while the
group runs no slots one falls due every 32 ms (R238). -/
def State.calibrationDue (s : State) (c : Nat) : Bool :=
  let G := s.grp c
  if G.noSlots then decide ((s.memCh c).calAt + 32 * msCycles ≤ s.now)
  else s.groupUp c && G.almSlots % 16 == 0 && decide ((s.memCh c).calAt < s.now)
    && G.almStart.any fun a => decide (s.clk c = a + calibrationCycles)

/-- A calibration of channel `c` with its outcome; the second failure in succession marks the channel FAILING (R240). -/
def State.calibrate (s : State) (c : Nat) (ok : Bool) : State :=
  let ch := s.memCh c
  if s.channelUp c && s.calibrationDue c then
    if ok then (s.setMemCh c { ch with calAt := s.now, calFails := 0 }).count (chCalibrations c) 1
    else
      let s1 := s.setMemCh c { ch with calAt := s.now, calFails := ch.calFails + 1 }
      if 2 ≤ ch.calFails + 1 then s1.markFailing c else s1
  else s

def execChannelCalibration (t channel : Nat) (ok : Bool) (s : State) : Host.Outcome State Fault Refusal :=
  .next ((s.advance t).calibrate channel ok)

/-! ### PATROL_SCRUB -/

def chScrubPasses (c : Nat) : Nat := memChReg c + 0x24
def ctrlMemErrors : Nat := 0x2D0C5C

/-- Bytes of the stream table, of the other firmware data, and of the second copy of each. Their places in the reserved part are
the model's: the stream table, its second copy, the other data, their second copy, then the backlogs (notes/assumptions/39.md). -/
def copyBytes : Nat := 64 * 2 ^ 20

/-- The interleaved index of the second copy of what lies at index `i`, if it has one. -/
def otherCopy (i : Nat) : Option Nat :=
  if i < 4 * copyBytes then some (if i / copyBytes % 2 = 0 then i + copyBytes else i - copyBytes) else none

/-- Stream `n` is closed because its entry is lost: its ready chunks complete with ST_STATE_LOST (R370), and so do its export and
move; a close is answered. -/
def State.loseStream (s : State) (n : Nat) : State :=
  let r := s.str n
  if r.st = .closed then s
  else
    let ids := s.closers n
    let asked := (r.xport.map (·.cmd)).toList ++ (r.move.map (·.cmd)).toList
    let s1 := ((s.unplan n).endChunks n stStateLost fun _ => true).freeStream n
    let s2 := (s1.finishAll ids stSuccess []).finishAll asked stStateLost []
    (match r.xport with
      | some x => s2.wakeKey x.keySlot
      | none => s2).wakeStream n

/-- The row at interleaved index `i` is a stored error under data that the control complex holds twice: the other copy serves,
and the row is rewritten; an error in both copies of a row of the stream table closes its stream (R370). -/
def State.ctrlMemError (s : State) (i : Nat) (first again : RowRead) : State :=
  match otherCopy i with
  | none => s
  | some j =>
    let (s1, both) := match s.rowPlace (s.ilBase + j) with
      | some (c, o) => s.meetRow c o first again
      | none => (s, false)
    let s2 := ((s1.rowWritten (s.ilBase + i) 0).count ctrlMemErrors 1).logEvent 0x0190 noUnit noUnit 0
      (leBytes 1 (b2n both) ++ leBytes 8 (s.ilBase + i))
    if both && decide (i < 2 * copyBytes) then s2.loseStream (i % copyBytes / 64) else s2

/-- A backlog's room in the backlog region, and where that region starts (R278). -/
def backlogRoom : Nat := 2 * 2 ^ 20
def backlogBase : Nat := 4 * copyBytes

/-- The entries that a ring's backlog holds in the row at byte `o` of its room: a dropped one leaves its place empty. -/
def CqRing.heldIn (r : CqRing) (o : Nat) : List Nat :=
  (List.range r.backlog.length).filter fun k =>
    decide ((r.heldFrom + k) % backlogMax * 32 / 64 = o / 64) && !(r.backlog.getD k []).isEmpty

/-- A stored error under held entries drops them as an overflow does (R278). -/
def State.dropHeld (s : State) (i : Nat) : State :=
  if i < backlogBase ∨ reservedBytes ≤ i then s
  else
    let n := (i - backlogBase) / backlogRoom
    ((s.cqr n).heldIn ((i - backlogBase) % backlogRoom)).foldl (fun s k =>
      (s.setCq n { s.cqr n with backlog := (s.cqr n).backlog.set k [] }).dropEntry n) s

/-- The patrol scrub reads the row at channel offset `off`; of data that are held twice `other` is a read of the second copy, and
`otherAgain` its repetition. -/
def State.patrol (s : State) (c off : Nat) (read reread other otherAgain : RowRead) (last : Bool) : State :=
  if s.channelUp c && decide (off < chanBytes) then
    let row := off / 64 * 64
    let (s1, bad) := s.meetRow c row read reread
    let i := s.ilIndex c row
    let s2 := if bad && decide (s.nearBytes ≤ row) then (s1.ctrlMemError i other otherAgain).dropHeld i else s1
    if last then s2.count (chScrubPasses c) 1 else s2
  else s

def execPatrolScrub (t channel offset : Nat) (read : RowRead) (last : Bool) (s : State)
    (reread other otherAgain : RowRead := {}) :
    Host.Outcome State Fault Refusal :=
  .next ((s.advance t).patrol channel offset read reread other otherAgain last)

/-! ### MEMORY_WINDOW_READ -/

/-- A PCIe read of the memory window: the word as stored, 0 where the window hides the address or the control domain is in
reset, or a poisoned completion on a stored error (R272, R408, R416). -/
def State.windowRead (s : State) (o : Nat) (read reread : RowRead) : State :=
  let a := s.windowAddr o
  if !s.controlUp ∨ o % 4 ≠ 0 ∨ s.windowHidden a then s.emit (.window o (some 0))
  else match s.rowPlace a with
    | none => s.emit (.window o (some 0))
    | some (c, off) =>
      let (s1, bad) := s.meetRow c off read reread
      s1.emit (.window o (if bad then none else some (BitVec.ofNat 32 (leNat (s.memRead a 4)))))

def execMemoryWindowRead (t offset : Nat) (read : RowRead) (s : State) (reread : RowRead := {}) : Host.Outcome State Fault Refusal :=
  .next (s.readAccess t .pcie fun s => s.windowRead offset read reread)

end Sys2Proof.Machine
end

