-- ==== Sys2Proof/Machine/Fence.lean ====
section
/-! DEFINITION. The end of a FENCE command's wait (R297). -/

namespace Sys2Proof.Machine

/-- What the arbiter needs to know of a command, and its effect. An event of the device is no command. -/
def commandOf (i : Instr) : Option (CmdInfo × (Inflight → State → State)) :=
  match i with
  | .nop _ _ => some (infoNop, effNop)
  | .deviceQuery _ _ => some (infoDeviceQuery, effDeviceQuery)
  | .claim _ h role brk => some (infoClaim h role brk, effClaim role)
  | .release _ _ => some (infoRelease, effRelease)
  | .grant _ h target role => some (infoGrant h target role, effGrant target role)
  | .ownerQuery _ _ => some (infoOwnerQuery, effOwnerQuery)
  | .imageLoad _ _ addr len data retries => some (infoImageLoad addr len, effImageLoad len data retries)
  | .imageUnload _ _ handle => some (infoImageUnload handle, effImageUnload handle)
  | .imageReload _ _ handle addr len data retries =>
    some (infoImageReload handle addr len, effImageReload handle len data retries)
  | .imageQuery _ h handle dest => some (infoImageQuery h handle dest, effImageQuery handle dest)
  | .streamOpen _ _ p retries => some (infoStreamOpen p, effStreamOpen p retries)
  | .streamClose _ _ stream => some (infoStreamClose stream, effStreamClose stream)
  | .streamQuery _ h stream part dest => some (infoStreamQuery h stream part dest, effStreamQuery stream part dest)
  | .streamMark _ _ stream index => some (infoStreamMark stream index, effStreamMark stream index)
  | .streamExport _ _ stream keySlot move addr len =>
    some (infoStreamExport stream keySlot move addr len, effStreamExport stream keySlot move addr len)
  | .streamImport _ _ p data => some (infoStreamImport p, effStreamImport p data)
  | .streamInput _ _ stream first count addr data =>
    some (infoStreamInput stream first count addr, effStreamInput stream first count data)
  | .streamMove _ _ stream home => some (infoStreamMove stream home, effStreamMove stream home)
  | .spillAssign _ _ base size => some (infoSpillAssign base size, effSpillAssign base size)
  | .disable _ _ type index abort => some (infoDisable type index abort, effDisable type index abort)
  | .enable _ _ type index => some (infoEnable type index, effEnable type index)
  | .unitReset _ _ type index off => some (infoUnitReset type index off, effUnitReset type index off)
  | .unitQuery _ _ type index => some (infoUnitQuery type index, effUnitQuery type index)
  | .powerCapSet _ _ cap => some (infoPowerCapSet cap, effPowerCapSet cap)
  | .powerQuery _ _ => some (infoPowerQuery, effPowerQuery)
  | .keyLoad _ _ slot kind addr len data => some (infoKeyLoad slot kind addr len, effKeyLoad slot kind len data)
  | .keyClear _ _ slot => some (infoKeyClear slot, effKeyClear slot)
  | .keyEnrol _ _ addr len data => some (infoKeyEnrol addr len, effKeyEnrol len data)
  | .attest _ h nonce dest len => some (infoAttest h nonce dest len, effAttest nonce dest len)
  | .safeStateRequest _ _ reason => some (infoSafeStateRequest reason, effSafeStateRequest reason)
  | .vigilStatus _ _ => some (infoVigilStatus, effVigilStatus)
  | .selfTest _ _ group cluster => some (infoSelfTest group cluster, effSelfTest group cluster)
  | .regRead _ _ bar count offset => some (infoRegRead bar count offset, effRegRead bar count offset)
  | .regWrite _ _ bar count offset data => some (infoRegWrite bar count offset data, effRegWrite bar count offset data)
  | .inject _ _ detector count => some (infoInject detector count, effInject detector count)
  | .eventMirror _ _ addr enable => some (infoEventMirror addr enable, effEventMirror addr enable)
  | .fwWrite _ _ addr len data => some (infoFwWrite addr len, effFwWrite len data)
  | .fwActivate _ _ slot => some (infoFwActivate slot, effFwActivate slot)
  | .deviceReset _ _ => some (infoDeviceReset, effDeviceReset)
  | .fwQuery _ _ => some (infoFwQuery, effFwQuery)
  | _ => none

/-- The oldest waiting command of a master's ring, or of the sideband. -/
def State.oldestFenced (s : State) (m : Master) (ring : Nat) : Option Fenced :=
  s.fenced.find? fun f => f.hdr.master == m && (m != .pcie || f.hdr.ring == ring)

/-- The wait ends once every earlier command of the ring, or of the sideband, has completed; the arbiter then takes
the command. -/
def State.fenceEnd (s : State) (m : Master) (ring : Nat) : State :=
  match s.oldestFenced m ring with
  | none => s
  | some f =>
    if s.served m && !s.fenceHolds m f.hdr.ring f.id then
      match commandOf f.instr with
      | none => s
      | some (c, eff) =>
        { s with fenced := s.fenced.filter fun x => x.id != f.id }.takeCmd
          { id := f.id, hdr := f.hdr, sqHead := f.sqHead, instr := f.instr, cq := f.cq, objs := [] } c eff
    else s

def execFenceWaitEnd (t : Nat) (master : Master) (ring : Nat) (s : State) : Host.Outcome State Fault Refusal :=
  .next ((s.atCtrl t).fenceEnd master ring)

end Sys2Proof.Machine
end

