-- ==== Sys2Proof/Machine/Dispatch.lean ====
section
/-! DEFINITION. What each command does: one arm for each constructor of `Instr`. -/

namespace Sys2Proof.Machine

/-- The effect of a command or event on the device. -/
def exec (i : Instr) (s : State) : Host.Outcome State Fault Refusal :=
  match i with
  | .nop t h => Sys2Proof.Machine.execNop t h s
  | .deviceQuery t h => Sys2Proof.Machine.execDeviceQuery t h s
  | .claim t h role brk => Sys2Proof.Machine.execClaim t h role brk s
  | .release t h => Sys2Proof.Machine.execRelease t h s
  | .grant t h target role => Sys2Proof.Machine.execGrant t h target role s
  | .ownerQuery t h => Sys2Proof.Machine.execOwnerQuery t h s
  | .imageLoad t h addr len data retries => Sys2Proof.Machine.execImageLoad t h addr len data s retries
  | .imageUnload t h handle => Sys2Proof.Machine.execImageUnload t h handle s
  | .imageReload t h handle addr len data retries => Sys2Proof.Machine.execImageReload t h handle addr len data s retries
  | .imageQuery t h handle dest => Sys2Proof.Machine.execImageQuery t h handle dest s
  | .streamOpen t h p retries => Sys2Proof.Machine.execStreamOpen t h p s retries
  | .streamClose t h stream => Sys2Proof.Machine.execStreamClose t h stream s
  | .streamQuery t h stream part dest => Sys2Proof.Machine.execStreamQuery t h stream part dest s
  | .streamMark t h stream index => Sys2Proof.Machine.execStreamMark t h stream index s
  | .streamExport t h stream keySlot move addr len => Sys2Proof.Machine.execStreamExport t h stream keySlot move addr len s
  | .streamImport t h p data => Sys2Proof.Machine.execStreamImport t h p data s
  | .streamInput t h stream first count addr data => Sys2Proof.Machine.execStreamInput t h stream first count addr data s
  | .streamMove t h stream home => Sys2Proof.Machine.execStreamMove t h stream home s
  | .spillAssign t h base size => Sys2Proof.Machine.execSpillAssign t h base size s
  | .disable t h type index abort => Sys2Proof.Machine.execDisable t h type index abort s
  | .enable t h type index => Sys2Proof.Machine.execEnable t h type index s
  | .unitReset t h type index off => Sys2Proof.Machine.execUnitReset t h type index off s
  | .unitQuery t h type index => Sys2Proof.Machine.execUnitQuery t h type index s
  | .powerCapSet t h cap => Sys2Proof.Machine.execPowerCapSet t h cap s
  | .powerQuery t h => Sys2Proof.Machine.execPowerQuery t h s
  | .keyLoad t h slot kind addr len data => Sys2Proof.Machine.execKeyLoad t h slot kind addr len data s
  | .keyClear t h slot => Sys2Proof.Machine.execKeyClear t h slot s
  | .keyEnrol t h addr len data => Sys2Proof.Machine.execKeyEnrol t h addr len data s
  | .attest t h nonce dest len => Sys2Proof.Machine.execAttest t h nonce dest len s
  | .safeStateRequest t h reason => Sys2Proof.Machine.execSafeStateRequest t h reason s
  | .vigilStatus t h => Sys2Proof.Machine.execVigilStatus t h s
  | .selfTest t h group cluster => Sys2Proof.Machine.execSelfTest t h group cluster s
  | .regRead t h bar count offset => Sys2Proof.Machine.execRegRead t h bar count offset s
  | .regWrite t h bar count offset data => Sys2Proof.Machine.execRegWrite t h bar count offset data s
  | .inject t h detector count => Sys2Proof.Machine.execInject t h detector count s
  | .eventMirror t h addr enable => Sys2Proof.Machine.execEventMirror t h addr enable s
  | .fwWrite t h addr len data => Sys2Proof.Machine.execFwWrite t h addr len data s
  | .fwActivate t h slot => Sys2Proof.Machine.execFwActivate t h slot s
  | .deviceReset t h => Sys2Proof.Machine.execDeviceReset t h s
  | .fwQuery t h => Sys2Proof.Machine.execFwQuery t h s
  | .fenceWaitEnd t master ring => Sys2Proof.Machine.execFenceWaitEnd t master ring s
  | .sqTail t ring tail => Sys2Proof.Machine.execSqTail t ring tail s
  | .cqHead t ring head => Sys2Proof.Machine.execCqHead t ring head s
  | .ringSqEnable t ring v => Sys2Proof.Machine.execRingSqEnable t ring v s
  | .ringSqDisable t ring v => Sys2Proof.Machine.execRingSqDisable t ring v s
  | .ringCqEnable t ring v => Sys2Proof.Machine.execRingCqEnable t ring v s
  | .ringCqDisable t ring v => Sys2Proof.Machine.execRingCqDisable t ring v s
  | .coalesceTimeout t ring => Sys2Proof.Machine.execCoalesceTimeout t ring s
  | .portCfgWrite t m port v => Sys2Proof.Machine.execPortCfgWrite t m port v s
  | .rxMaskWrite t m port v => Sys2Proof.Machine.execRxMaskWrite t m port v s
  | .txMaskWrite t m port v => Sys2Proof.Machine.execTxMaskWrite t m port v s
  | .membersWrite t m eqx v => Sys2Proof.Machine.execMembersWrite t m eqx v s
  | .arm t m eqx => Sys2Proof.Machine.execArm t m eqx s
  | .fire t m eqx => Sys2Proof.Machine.execFire t m eqx s
  | .disarm t m eqx => Sys2Proof.Machine.execDisarm t m eqx s
  | .devIntClear t m v event => Sys2Proof.Machine.execDevIntClear t m v event s
  | .devIntEnWrite t m v => Sys2Proof.Machine.execDevIntEnWrite t m v s
  | .msixUnmask t vector => Sys2Proof.Machine.execMsixUnmask t vector s
  | .registerWrite t m bar offset v size => Sys2Proof.Machine.execRegisterWrite t m bar offset v s size
  | .readClear t m bar offset size => Sys2Proof.Machine.execReadClear t m bar offset s size
  | .pairLoRead t m bar offset size => Sys2Proof.Machine.execPairLoRead t m bar offset s size
  | .safetyPortResponse t => Sys2Proof.Machine.execSafetyPortResponse t s
  | .leaseExpiry t => Sys2Proof.Machine.execLeaseExpiry t s
  | .linkDown t => Sys2Proof.Machine.execLinkDown t s
  | .linkUp t speed width flit => Sys2Proof.Machine.execLinkUp t speed width flit s
  | .functionLevelReset t => Sys2Proof.Machine.execFunctionLevelReset t s
  | .perstNLow t => Sys2Proof.Machine.execPerstNLow t s
  | .perstNHigh t => Sys2Proof.Machine.execPerstNHigh t s
  | .powerUp t => Sys2Proof.Machine.execPowerUp t s
  | .vigilImageVerify t readA readB => Sys2Proof.Machine.execVigilImageVerify t readA readB s
  | .firmwareBoot t readA readB => Sys2Proof.Machine.execFirmwareBoot t readA readB s
  | .groupsLeaveReset t => Sys2Proof.Machine.execGroupsLeaveReset t s
  | .startupInjectionEnd t failed => Sys2Proof.Machine.execStartupInjectionEnd t failed s
  | .abandonRuns t => Sys2Proof.Machine.execAbandonRuns t s
  | .domainReset t => Sys2Proof.Machine.execDomainReset t s
  | .imageHashCheck t decayed => Sys2Proof.Machine.execImageHashCheck t decayed s
  | .sStreamReopen t => Sys2Proof.Machine.execSStreamReopen t s
  | .resumption t => Sys2Proof.Machine.execResumption t s
  | .watchdogExpiry t core => Sys2Proof.Machine.execWatchdogExpiry t core s
  | .autoDegrade t => Sys2Proof.Machine.execAutoDegrade t s
  | .rootLockLoss t => Sys2Proof.Machine.execRootLockLoss t s
  | .rootRelock t => Sys2Proof.Machine.execRootRelock t s
  | .refclkLoss t => Sys2Proof.Machine.execRefclkLoss t s
  | .coolantLoss t => Sys2Proof.Machine.execCoolantLoss t s
  | .coolantGlitch t => Sys2Proof.Machine.execCoolantGlitch t s
  | .stopClockGate t => Sys2Proof.Machine.execStopClockGate t s
  | .stopComplete t => Sys2Proof.Machine.execStopComplete t s
  | .vin48Loss t => Sys2Proof.Machine.execVin48Loss t s
  | .vstbyLoss t => Sys2Proof.Machine.execVstbyLoss t s
  | .sensorRead t readings => Sys2Proof.Machine.execSensorRead t readings s
  | .powerInterval t pm activity fixed supply droop => Sys2Proof.Machine.execPowerInterval t pm activity fixed supply droop s
  | .capUpdate t => Sys2Proof.Machine.execCapUpdate t s
  | .roundStart t g => Sys2Proof.Machine.execRoundStart t g s
  | .almanacSlotEnd t g result held mapReads => Sys2Proof.Machine.execAlmanacSlotEnd t g result held s mapReads
  | .readinessNotice t stream => Sys2Proof.Machine.execReadinessNotice t stream s
  | .swapInDone t g slot fault reads retries => Sys2Proof.Machine.execSwapInDone t g slot fault s reads retries
  | .swapOutDone t g slot reads acked retries => Sys2Proof.Machine.execSwapOutDone t g slot reads acked s retries
  | .exportBegin t stream => Sys2Proof.Machine.execExportBegin t stream s
  | .exportDone t stream fault copyReads homeReads retries => Sys2Proof.Machine.execExportDone t stream fault s copyReads homeReads retries
  | .moveBegin t stream => Sys2Proof.Machine.execMoveBegin t stream s
  | .moveEnd t stream => Sys2Proof.Machine.execMoveEnd t stream s
  | .streamClosed t stream => Sys2Proof.Machine.execStreamClosed t stream s
  | .unitDisabled t type index => Sys2Proof.Machine.execUnitDisabled t type index s
  | .unitResetEnd t type index failed discarded => Sys2Proof.Machine.execUnitResetEnd t type index failed s discarded
  | .loadSeg t g => Sys2Proof.Machine.execLoadSeg t g s
  | .segmentArrival t g damaged => Sys2Proof.Machine.execSegmentArrival t g damaged s
  | .start t g => Sys2Proof.Machine.execStart t g s
  | .expand t g => Sys2Proof.Machine.execExpand t g s
  | .blockDecode t g late reads => Sys2Proof.Machine.execBlockDecode t g late reads s
  | .expanderBlockArrival t g => Sys2Proof.Machine.execExpanderBlockArrival t g s
  | .fetch t g => Sys2Proof.Machine.execFetch t g s
  | .store t g ecc writeRetries => Sys2Proof.Machine.execStore t g ecc writeRetries s
  | .xfer t g ecc => Sys2Proof.Machine.execXfer t g ecc s
  | .stateIn t g ecc => Sys2Proof.Machine.execStateIn t g ecc s
  | .stateOut t g ecc => Sys2Proof.Machine.execStateOut t g ecc s
  | .input t g => Sys2Proof.Machine.execInput t g s
  | .output t g ecc => Sys2Proof.Machine.execOutput t g ecc s
  | .barrier t g => Sys2Proof.Machine.execBarrier t g s
  | .endRun t g => Sys2Proof.Machine.execEndRun t g s
  | .gapEnd t g => Sys2Proof.Machine.execGapEnd t g s
  | .rowDue t g => Sys2Proof.Machine.execRowDue t g s
  | .memoryRowArrival t g idx read => Sys2Proof.Machine.execMemoryRowArrival t g idx read s
  | .rereadArrival t g read => Sys2Proof.Machine.execRereadArrival t g read s
  | .storeBufferDrain t g => Sys2Proof.Machine.execStoreBufferDrain t g s
  | .scrubHoldEnd t g => Sys2Proof.Machine.execScrubHoldEnd t g s
  | .holdTimeout t g => Sys2Proof.Machine.execHoldTimeout t g s
  | .quiesceEnd t g retries => Sys2Proof.Machine.execQuiesceEnd t g s retries
  | .commitState t g lane p => Sys2Proof.Machine.execCommitState t g lane p s
  | .commitOutput t g lane p => Sys2Proof.Machine.execCommitOutput t g lane p s
  | .completionStamp t g lane p => Sys2Proof.Machine.execCompletionStamp t g lane p s
  | .controlNop t g c => Sys2Proof.Machine.execControlNop t g c s
  | .wait t g c => Sys2Proof.Machine.execWait t g c s
  | .loop t g c => Sys2Proof.Machine.execLoop t g c s
  | .halt t g c => Sys2Proof.Machine.execHalt t g c s
  | .mma t g c ecc => Sys2Proof.Machine.execMma t g c ecc s
  | .mepi t g c ecc => Sys2Proof.Machine.execMepi t g c ecc s
  | .mfac t g c => Sys2Proof.Machine.execMfac t g c s
  | .epilogueEnd t g c acc upset => Sys2Proof.Machine.execEpilogueEnd t g c acc upset s
  | .factorFormationEnd t g c upset => Sys2Proof.Machine.execFactorFormationEnd t g c upset s
  | .seta t g c => Sys2Proof.Machine.execSeta t g c s
  | .setb t g c => Sys2Proof.Machine.execSetb t g c s
  | .ew t g c ecc upset => Sys2Proof.Machine.execEw t g c ecc upset s
  | .cvt t g c ecc upset => Sys2Proof.Machine.execCvt t g c ecc upset s
  | .red t g c ecc upset => Sys2Proof.Machine.execRed t g c ecc upset s
  | .ldlut t g c ecc => Sys2Proof.Machine.execLdlut t g c ecc s
  | .scan t g c ecc upset => Sys2Proof.Machine.execScan t g c ecc upset s
  | .vectorOperationEnd t g c => Sys2Proof.Machine.execVectorOperationEnd t g c s
  | .receiveFrame t port start slots => Sys2Proof.Machine.execReceiveFrame t port start slots s
  | .transmitFrameStart t port => Sys2Proof.Machine.execTransmitFrameStart t port s
  | .paceTick t port => Sys2Proof.Machine.execPaceTick t port s
  | .rateWindowEnd t port => Sys2Proof.Machine.execRateWindowEnd t port s
  | .subWindowEnd t port => Sys2Proof.Machine.execSubWindowEnd t port s
  | .noClock t port => Sys2Proof.Machine.execNoClock t port s
  | .equinoxMasterRestart t eqx => Sys2Proof.Machine.execEquinoxMasterRestart t eqx s
  | .equinoxTrigger t eqx => Sys2Proof.Machine.execEquinoxTrigger t eqx s
  | .eqxOffsetWindow t eqx => Sys2Proof.Machine.execEqxOffsetWindow t eqx s
  | .hopEnd t scores processed => Sys2Proof.Machine.execHopEnd t scores processed s
  | .alertHoldEnd t line => Sys2Proof.Machine.execAlertHoldEnd t line s
  | .vigilSelfCheck t passed => Sys2Proof.Machine.execVigilSelfCheck t passed s
  | .tapLost t tap => Sys2Proof.Machine.execTapLost t tap s
  | .refresh t channel tempC => Sys2Proof.Machine.execRefresh t channel tempC s
  | .channelCalibration t channel ok => Sys2Proof.Machine.execChannelCalibration t channel ok s
  | .patrolScrub t channel offset read last reread other otherAgain => Sys2Proof.Machine.execPatrolScrub t channel offset read last s reread other otherAgain
  | .injectTimeout t detector => Sys2Proof.Machine.execInjectTimeout t detector s
  | .importDone t stream retries => Sys2Proof.Machine.execImportDone t stream s retries
  | .fwWriteDone t verified => Sys2Proof.Machine.execFwWriteDone t verified s
  | .repairRecordWritten t => Sys2Proof.Machine.execRepairRecordWritten t s
  | .safetyPortCommandRejected t crcBad => Sys2Proof.Machine.execSafetyPortCommandRejected t crcBad s
  | .memoryWindowRead t offset read reread => Sys2Proof.Machine.execMemoryWindowRead t offset read s reread
  | .configurationRequest t req => Sys2Proof.Machine.execConfigurationRequest t s req
  | .coolantRestored t => Sys2Proof.Machine.execCoolantRestored t s
  | .refclkReturn t => Sys2Proof.Machine.execRefclkReturn t s

end Sys2Proof.Machine
end

