-- ==== Sys2Proof/Machine/Step.lean ====
section
/-! DEFINITION. One step of the device: the command at the front of the queue, or, on an empty queue, one CORE
cycle in which nothing comes from outside (notes/assumptions/1.md). -/

namespace Sys2Proof.Machine

/-- A CORE cycle passes in which nothing comes: the clocks advance, and what falls due takes place. -/
def State.idle (s : State) : State := s.advance (s.now + 1)

/-- The command at the front of the queue takes its effect on the state with the rest of the queue. -/
def step (s : State) : Host.Outcome State Fault Refusal :=
  match s.pending with
  | [] => .next s.idle
  | c :: rest => exec c { s with pending := rest }

/-- The state with the command that the word spells at the front of its queue. -/
def State.withFetchWord (s : State) (nbits w : Nat) : State :=
  match decodeTableWord nbits w with
  | some c => { s with pending := c :: s.pending }
  | none => s

end Sys2Proof.Machine
end

