-- ==== Sys2Proof/Safety.lean ====
section
/-! DEFINITION. What counts as a sound state, and what part of a state a command may change, in the terms that statements
use. -/

namespace Sys2Proof.Safety

open Sys2Proof.Machine

/-- LPDDR6 and host memory are listed in canonical form. -/
def memoriesWf (s : State) : Prop := Memory.wf s.mem = true ∧ Memory.wf s.hostMem = true

/-- What every step keeps: memories in canonical form, an OWNER of Table 12-1 or none, an EPOCH that fits its byte. -/
def Sound (s : State) : Prop := memoriesWf s ∧ s.owner.owner ≤ 3 ∧ s.life.epoch < 256

/-- The parts of a state that a frame speaks of: every field but the queue, the clock and what leaves the device in
the step. -/
inductive Part where
  | free | life | owner | sq | cq | hif | inflight | nextCmd | fenced | safePort | latches | hostMem
  | streams | images | nearAlloc | farAlloc | spillAlloc | spill | groups | clusters | ctr | mem | channels
  | ports | chans | eqx | comet | cfg | power | safety | vigil | log | repair | armed | boot | keys
  | spillKey
deriving DecidableEq, Repr

/-- The part is the same in both states. -/
def Part.same (p : Part) (s s' : State) : Prop :=
  match p with
  | .free => s'.free = s.free
  | .life => s'.life = s.life
  | .owner => s'.owner = s.owner
  | .sq => s'.sq = s.sq
  | .cq => s'.cq = s.cq
  | .hif => s'.hif = s.hif
  | .inflight => s'.inflight = s.inflight
  | .nextCmd => s'.nextCmd = s.nextCmd
  | .fenced => s'.fenced = s.fenced
  | .safePort => s'.safePort = s.safePort
  | .latches => s'.latches = s.latches
  | .hostMem => s'.hostMem = s.hostMem
  | .streams => s'.streams = s.streams
  | .images => s'.images = s.images
  | .nearAlloc => s'.nearAlloc = s.nearAlloc
  | .farAlloc => s'.farAlloc = s.farAlloc
  | .spillAlloc => s'.spillAlloc = s.spillAlloc
  | .spill => s'.spill = s.spill
  | .groups => s'.groups = s.groups
  | .clusters => s'.clusters = s.clusters
  | .ctr => s'.ctr = s.ctr
  | .mem => s'.mem = s.mem
  | .channels => s'.channels = s.channels
  | .ports => s'.ports = s.ports
  | .chans => s'.chans = s.chans
  | .eqx => s'.eqx = s.eqx
  | .comet => s'.cometUnit = s.cometUnit ∧ s'.cometToOff = s.cometToOff ∧ s'.cometResetAfter = s.cometResetAfter
  | .cfg => s'.cfg = s.cfg
  | .power => s'.power = s.power
  | .safety => s'.safety = s.safety
  | .vigil => s'.vigil = s.vigil
  | .log => s'.log = s.log
  | .repair => s'.repair = s.repair
  | .armed => s'.armed = s.armed
  | .boot => s'.boot = s.boot
  | .keys => s'.keys = s.keys
  | .spillKey => s'.spillKey = s.spillKey

/-- What a completion touches: its ring or port, the command's place, the interrupts and the event log. -/
def completing : List Part := [.cq, .hif, .inflight, .safePort, .hostMem, .ctr, .log, .armed]

/-- What the arrival of a command touches besides. -/
def commanded : List Part := [.owner, .sq, .nextCmd, .fenced] ++ completing

/-- What an event in a run may touch, the failure of the run included. -/
def runEvent : List Part := [.groups, .clusters, .safety] ++ completing

/-- What the groups' runs and the event log change by themselves as time passes. -/
def advanceParts : List Part := runEvent ++ [.streams, .mem, .channels, .repair]

/-- What an interrupt touches. -/
def signalling : List Part := [.hif, .hostMem, .ctr]

/-- Every part. -/
def allParts : List Part :=
  [.free, .life, .owner, .sq, .cq, .hif, .inflight, .nextCmd, .fenced, .safePort, .latches, .hostMem, .streams,
   .images, .nearAlloc, .farAlloc, .spillAlloc, .spill, .groups, .clusters, .ctr, .mem, .channels, .ports,
   .chans, .eqx, .comet, .cfg, .power, .safety, .vigil, .log, .repair, .armed, .boot, .keys, .spillKey]

/-- Every part but those listed. -/
def allBut (l : List Part) : List Part := allParts.filter fun p => !l.contains p

/-- The parts of the state that a command or event may change, beside what the groups and the log do by themselves up to
its time (`advanceParts`). -/
def footprint (c : Instr) : List Part :=
  match c with
  | .nop _ _ | .deviceQuery _ _ | .claim _ _ _ _ | .release _ _ | .grant _ _ _ _ | .ownerQuery _ _ |
    .imageQuery _ _ _ _ | .streamQuery _ _ _ _ _ | .unitQuery _ _ _ _ | .powerQuery _ _ | .vigilStatus _ _ |
    .inject _ _ _ _ | .eventMirror _ _ _ _ | .fwQuery _ _ =>
    commanded
  | .imageLoad _ _ _ _ _ _ => commanded ++ [.images, .nearAlloc, .farAlloc, .mem, .channels, .repair]
  | .imageUnload _ _ _ => commanded ++ [.images, .nearAlloc, .farAlloc, .groups, .safety]
  | .imageReload _ _ _ _ _ _ _ => commanded ++ [.images, .mem, .channels, .repair]
  | .streamOpen _ _ _ _ =>
    commanded ++ [.streams, .farAlloc, .spillAlloc, .groups, .mem, .channels, .chans, .safety, .repair]
  | .streamClose _ _ _ | .streamMark _ _ _ _ | .streamExport _ _ _ _ _ _ _ | .streamImport _ _ _ _ |
    .streamMove _ _ _ _ =>
    commanded ++ [.streams]
  | .streamInput _ _ _ _ _ _ _ => commanded ++ [.streams, .mem, .channels, .repair]
  | .spillAssign _ _ _ _ => commanded ++ [.spill]
  | .disable _ _ _ _ _ | .unitReset _ _ _ _ _ =>
    runEvent ++ [.free, .owner, .sq, .nextCmd, .fenced, .streams, .mem, .channels, .ports, .comet, .repair, .keys]
  | .enable _ _ _ _ => runEvent ++ [.owner, .sq, .nextCmd, .fenced, .streams, .ports, .comet, .repair]
  | .powerCapSet _ _ _ => commanded ++ [.images, .nearAlloc, .farAlloc, .mem, .channels, .power, .repair]
  | .keyLoad _ _ _ _ _ _ _ | .keyClear _ _ _ => commanded ++ [.keys]
  | .keyEnrol _ _ _ _ _ | .fwWrite _ _ _ _ _ | .fwActivate _ _ _ => commanded ++ [.boot]
  | .attest _ _ _ _ _ => commanded ++ [.free]
  | .safeStateRequest _ _ _ => commanded ++ [.life, .safety, .boot]
  | .selfTest _ _ _ _ => commanded ++ [.groups, .safety]
  | .regRead _ _ _ _ _ => commanded ++ [.latches, .groups]
  | .regWrite _ _ _ _ _ _ => commanded ++ [.ports, .chans, .eqx, .cfg, .power, .safety]
  | .deviceReset _ _ => allBut [.free, .vigil, .keys, .spillKey]
  | .fenceWaitEnd _ _ _ => allBut [.nextCmd, .vigil, .spillKey]
  | .sqTail _ _ _ => completing ++ [.sq]
  | .cqHead _ _ _ | .injectTimeout _ _ => completing
  | .ringSqEnable _ _ _ | .ringSqDisable _ _ _ => [.sq]
  | .ringCqEnable _ _ _ | .coalesceTimeout _ _ => [.cq, .hif, .hostMem]
  | .ringCqDisable _ _ _ => [.cq]
  | .portCfgWrite _ _ _ _ => signalling ++ [.ports, .chans, .safety]
  | .rxMaskWrite _ _ _ _ | .txMaskWrite _ _ _ _ | .equinoxMasterRestart _ _ | .eqxOffsetWindow _ _ => [.ports]
  | .membersWrite _ _ _ _ => [.eqx]
  | .arm _ _ _ | .fire _ _ _ | .disarm _ _ _ | .equinoxTrigger _ _ => [.ports, .eqx]
  | .devIntClear _ _ _ _ | .devIntEnWrite _ _ _ | .msixUnmask _ _ => [.hif, .hostMem]
  | .registerWrite _ _ _ _ _ _ => completing ++ [.sq, .ports, .chans, .eqx, .cfg, .power, .safety]
  | .readClear _ _ _ _ _ | .pairLoRead _ _ _ _ _ => [.latches, .groups, .ctr]
  | .safetyPortResponse _ | .safetyPortCommandRejected _ _ => [.safePort]
  | .leaseExpiry _ => [.owner, .hif, .hostMem, .log]
  | .linkDown _ | .functionLevelReset _ => [.sq, .cq, .hif, .ctr]
  | .linkUp _ _ _ _ | .configurationRequest _ _ => [.hif]
  | .perstNLow _ => [.life, .sq, .cq, .hif, .ctr]
  | .perstNHigh _ | .rootRelock _ | .stopClockGate _ | .coolantRestored _ => [.life]
  | .powerUp _ => allBut [.nextCmd, .hostMem]
  | .vigilImageVerify _ _ _ => [.ports, .vigil, .boot]
  | .firmwareBoot _ _ _ => [.life, .ports, .safety, .log, .boot]
  | .groupsLeaveReset _ =>
    signalling ++ [.life, .cq, .inflight, .safePort, .streams, .groups, .clusters, .channels, .ports, .comet,
      .safety, .log, .repair]
  | .startupInjectionEnd _ _ =>
    signalling ++ [.life, .cq, .inflight, .safePort, .streams, .groups, .channels, .ports, .comet, .safety,
      .log, .repair, .boot]
  | .abandonRuns _ => signalling ++ [.life, .cq, .inflight, .fenced, .safePort, .streams, .groups, .safety, .log]
  | .domainReset _ | .stopComplete _ =>
    [.life, .owner, .sq, .cq, .hif, .inflight, .fenced, .safePort, .latches, .streams, .images, .nearAlloc,
      .farAlloc, .spillAlloc, .spill, .groups, .clusters, .ctr, .mem, .channels, .ports, .chans, .eqx, .comet,
      .cfg, .power, .safety, .repair, .armed, .boot]
  | .imageHashCheck _ _ => [.life, .images, .nearAlloc, .farAlloc, .ports, .cfg, .log]
  | .sStreamReopen _ =>
    signalling ++ [.life, .cq, .streams, .farAlloc, .spillAlloc, .groups, .mem, .channels, .chans, .safety,
      .log, .repair]
  | .resumption _ => [.life, .hif, .hostMem, .safety, .log, .boot]
  | .watchdogExpiry _ _ => [.life, .hif, .safety, .log, .repair, .boot]
  | .autoDegrade _ => [.life, .hif, .safety, .log, .boot]
  | .rootLockLoss _ | .coolantLoss _ => [.life, .streams, .groups, .safety, .log]
  | .refclkLoss _ => [.life, .streams, .groups, .safety, .vigil, .log]
  | .coolantGlitch _ => [.life, .ctr]
  | .vin48Loss _ => allBut [.free, .nextCmd, .hostMem, .log, .keys, .spillKey]
  | .vstbyLoss _ => allBut [.free, .nextCmd, .hostMem]
  | .sensorRead _ _ => [.life, .streams, .groups, .power, .safety, .log]
  | .powerInterval _ _ _ _ _ _ => completing ++ [.life, .groups, .power, .repair]
  | .capUpdate _ =>
    signalling ++ [.cq, .inflight, .safePort, .images, .nearAlloc, .farAlloc, .mem, .channels, .power, .log,
      .repair]
  | .roundStart _ _ =>
    signalling ++ [.cq, .inflight, .safePort, .streams, .images, .groups, .clusters, .ports, .comet, .safety,
      .log, .repair]
  | .almanacSlotEnd _ _ _ _ _ =>
    signalling ++ [.free, .cq, .inflight, .safePort, .streams, .images, .groups, .clusters, .ports, .comet,
      .power, .safety, .log, .repair]
  | .readinessNotice _ _ => signalling ++ [.cq, .streams, .groups, .safety, .log]
  | .swapInDone _ _ _ _ _ _ => runEvent ++ [.streams, .mem, .channels, .ports, .comet, .repair]
  | .swapOutDone _ _ _ _ _ _ =>
    signalling ++ [.cq, .inflight, .safePort, .streams, .groups, .clusters, .mem, .channels, .ports, .comet,
      .safety, .log, .repair]
  | .exportBegin _ _ | .commitState _ _ _ _ => [.streams, .groups]
  | .exportDone _ _ _ _ _ _ =>
    runEvent ++ [.free, .streams, .farAlloc, .spillAlloc, .mem, .channels, .chans, .repair, .keys]
  | .moveBegin _ _ | .unitDisabled _ _ _ | .completionStamp _ _ _ _ | .repairRecordWritten _ =>
    signalling ++ [.cq, .inflight, .safePort, .streams, .groups, .clusters, .ports, .comet, .safety, .log,
      .repair]
  | .moveEnd _ _ =>
    signalling ++ [.cq, .inflight, .safePort, .streams, .groups, .mem, .channels, .safety, .log, .repair]
  | .streamClosed _ _ =>
    signalling ++ [.cq, .inflight, .safePort, .streams, .farAlloc, .spillAlloc, .groups, .chans, .safety, .log]
  | .unitResetEnd _ _ _ _ _ =>
    signalling ++ [.free, .life, .cq, .inflight, .safePort, .streams, .groups, .clusters, .mem, .channels,
      .ports, .chans, .comet, .safety, .log, .repair, .keys]
  | .loadSeg _ _ | .fetch _ _ | .store _ _ _ _ | .xfer _ _ _ | .stateIn _ _ _ | .stateOut _ _ _ | .input _ _ |
    .output _ _ _ | .barrier _ _ | .rowDue _ _ =>
    completing ++ [.groups]
  | .segmentArrival _ _ _ | .start _ _ | .mma _ _ _ _ | .mepi _ _ _ _ | .seta _ _ _ | .setb _ _ _ |
    .ew _ _ _ _ _ | .cvt _ _ _ _ _ | .red _ _ _ _ _ | .ldlut _ _ _ _ | .scan _ _ _ _ _ =>
    completing ++ [.groups, .clusters]
  | .expand _ _ => [.groups]
  | .blockDecode _ _ _ _ | .memoryRowArrival _ _ _ _ => completing ++ [.groups, .channels, .repair]
  | .expanderBlockArrival _ _ | .storeBufferDrain _ _ => [.groups, .ctr]
  | .endRun _ _ => runEvent ++ [.streams, .mem, .channels, .ports, .comet, .power, .repair]
  | .gapEnd _ _ =>
    signalling ++ [.cq, .inflight, .safePort, .streams, .groups, .clusters, .ports, .comet, .power, .safety,
      .log, .repair]
  | .rereadArrival _ _ _ =>
    signalling ++ [.cq, .inflight, .safePort, .streams, .groups, .channels, .safety, .log, .repair]
  | .scrubHoldEnd _ _ => signalling ++ [.cq, .inflight, .safePort, .streams, .groups, .safety, .log, .repair]
  | .holdTimeout _ _ => runEvent ++ [.streams, .mem, .channels, .repair]
  | .quiesceEnd _ _ _ =>
    signalling ++ [.cq, .inflight, .safePort, .streams, .images, .groups, .clusters, .mem, .channels, .ports,
      .comet, .power, .safety, .log, .repair]
  | .commitOutput _ _ _ _ => [.hostMem, .streams, .groups, .ctr, .chans]
  | .controlNop _ _ _ | .wait _ _ _ | .loop _ _ _ | .halt _ _ _ => [.clusters]
  | .mfac _ _ _ | .epilogueEnd _ _ _ _ _ | .factorFormationEnd _ _ _ _ => runEvent ++ [.streams, .repair]
  | .vectorOperationEnd _ _ _ => [.clusters, .ctr]
  | .receiveFrame _ _ _ _ => signalling ++ [.streams, .ports, .chans, .safety, .vigil]
  | .transmitFrameStart _ _ => signalling ++ [.streams, .ports, .chans, .safety]
  | .paceTick _ _ => signalling ++ [.streams, .mem, .channels, .ports, .chans, .safety, .log, .repair]
  | .rateWindowEnd _ _ => signalling ++ [.ports, .chans, .safety, .log]
  | .subWindowEnd _ _ => completing ++ [.ports, .chans, .safety]
  | .noClock _ _ => completing ++ [.ports, .safety]
  | .hopEnd _ _ _ | .alertHoldEnd _ _ | .vigilSelfCheck _ _ | .tapLost _ _ => [.vigil]
  | .refresh _ _ _ => [.channels]
  | .channelCalibration _ _ _ | .memoryWindowRead _ _ _ _ => signalling ++ [.channels, .log, .repair]
  | .patrolScrub _ _ _ _ _ _ _ _ | .importDone _ _ _ =>
    signalling ++ [.cq, .inflight, .safePort, .streams, .farAlloc, .spillAlloc, .groups, .mem, .channels,
      .chans, .safety, .log, .repair, .keys]
  | .fwWriteDone _ _ => signalling ++ [.cq, .inflight, .safePort, .log, .boot]
  | .refclkReturn _ => [.life, .vigil]

/-! ### What statements about single commands speak of -/

/-- The state in the CTRL cycle in which a command of `h` that comes at time `t` reaches the arbiter (R7, R284). -/
def atArbiter (s : State) (t : Nat) (h : Hdr) : State := (s.atCtrl t).noteReach (s.reachCycle t) h.master

/-- The state in which a command of `h` has come over its transport at time `t`: fetched from its submission ring (R277), or
taken in by the safety port (R282). -/
def arrived (s : State) (t : Nat) (h : Hdr) : State :=
  let x := atArbiter s t h
  match h.master with
  | .pcie => x.fetchEntry h.ring
  | .sideband => x
  | .safety => { x with safePort := { x.safePort with executing := some x.nextCmd, crcError := false, refused := false } }

/-- The same command as the arbiter takes it: numbered, an expiry that is due recorded, the owner's lease renewed (R286). -/
def judged (s : State) (t : Nat) (h : Hdr) : State :=
  let x := arrived s t h
  (({ x with nextCmd := x.nextCmd + 1 } : State).expireLease).renewLease h.master

/-- What the device keeps of the command until it completes. -/
def entryOf (s : State) (t : Nat) (h : Hdr) (i : Instr) (objs : List Obj) : Inflight :=
  let x := arrived s t h
  match h.master with
  | .pcie => { id := x.nextCmd, hdr := h, sqHead := (x.sqr h.ring).head, instr := i, cq := (x.sqr h.ring).cq, objs }
  | _ => { id := x.nextCmd, hdr := h, sqHead := 0, instr := i, cq := 0, objs }

/-- The state in which the command takes its own effect. -/
def begun (s : State) (t : Nat) (h : Hdr) (i : Instr) (c : CmdInfo) : State :=
  let x := judged s t h
  { x with inflight := x.inflight ++ [entryOf s t h i (if c.cls == .read then [] else c.objs)] }

/-- The transport brings the command to the command processor at time `t` (R271, R277, R280, R282, R284): no command of a
higher master has come in the same CTRL cycle, and the ring, the sideband or the port takes it. -/
def comes (s : State) (t : Nat) (h : Hdr) : Bool :=
  let x := atArbiter s t h
  s.inTurn t h.master && (match h.master with
  | .pcie => x.canFetch h.ring
  | .sideband => x.standbyUp && !x.isStopped && decide (x.sidebandOutstanding < 8) && x.served .sideband
  | .safety =>
    x.standbyUp && (x.armedAt safetyCrcDetector).isNone && x.safePort.executing.isNone && x.safePort.response.isNone
      && x.served .safety)

/-- An earlier command of its ring, or of the sideband, for which a command with FENCE waits (R297). -/
def mustWait (s : State) (t : Nat) (h : Hdr) : Bool :=
  let x := arrived s t h
  h.fence && ({ x with nextCmd := x.nextCmd + 1 } : State).fenceHolds h.master h.ring x.nextCmd

/-- The arbiter takes the command at once. -/
def reaches (s : State) (t : Nat) (h : Hdr) : Bool := comes s t h && !mustWait s t h

/-- The entry spells the command, the command reaches the arbiter, and none of the checks 1 to 4 of R291 refuses it. -/
def executes (s : State) (t : Nat) (h : Hdr) (c : CmdInfo) : Bool :=
  spells h c.op c.fields && reaches s t h && ((judged s t h).refusal h c).isNone

/-- The header of a row that a master sends. -/
def headerOf (c : Instr) : Option (Nat × Hdr) :=
  match c with
  | .nop t h | .deviceQuery t h | .claim t h _ _ | .release t h | .grant t h _ _ | .ownerQuery t h |
    .imageLoad t h _ _ _ _ | .imageUnload t h _ | .imageReload t h _ _ _ _ _ | .imageQuery t h _ _ | .streamOpen t h _ _ |
    .streamClose t h _ | .streamQuery t h _ _ _ | .streamMark t h _ _ | .streamExport t h _ _ _ _ _ |
    .streamImport t h _ _ | .streamInput t h _ _ _ _ _ | .streamMove t h _ _ | .spillAssign t h _ _ |
    .disable t h _ _ _ | .enable t h _ _ | .unitReset t h _ _ _ | .unitQuery t h _ _ | .powerCapSet t h _ |
    .powerQuery t h | .keyLoad t h _ _ _ _ _ | .keyClear t h _ | .keyEnrol t h _ _ _ | .attest t h _ _ _ |
    .safeStateRequest t h _ | .vigilStatus t h | .selfTest t h _ _ | .regRead t h _ _ _ | .regWrite t h _ _ _ _ |
    .inject t h _ _ | .eventMirror t h _ _ | .fwWrite t h _ _ _ | .fwActivate t h _ | .deviceReset t h |
    .fwQuery t h => some (t, h)
  | _ => none

/-- The standby logic serves the request itself (R283): SAFE_STATE_REQUEST and VIGIL_STATUS from the safety port. -/
def standbyServes (c : Instr) (h : Hdr) : Bool :=
  match c with
  | .safeStateRequest _ _ _ | .vigilStatus _ _ => h.master == .safety
  | _ => false

/-- The standby logic takes in a request of the safety port at time `t` (R282, R283). -/
def portTakes (s : State) (t : Nat) : Bool :=
  let x := s.advance t
  x.standbyUp && (x.armedAt safetyCrcDetector).isNone && x.safePort.executing.isNone && x.safePort.response.isNone

/-- No armed detector of group `g` with one of these indices (Table 16-6). -/
def unarmed (s : State) (g : Nat) (l : List Nat) : Bool := l.all fun k => (s.armedAt (grpDetector g k)).isNone

end Sys2Proof.Safety
end

