-- ==== Sys2Proof/Certificates/Slice0/Obligations.lean ====
section
/-! DEFINITION. The statements for the provers. In each, `s` is the state before the command, and the command's time is
`t`: an event takes place in `s.advance t`. What a command of a master comes to is said with `begun` and `executes`
(Sys2Proof/Safety.lean). -/

open Sys2Proof Sys2Proof.Machine Sys2Proof.Safety

/-- step of a state whose queue starts with c is exec of c on the state with the rest of the queue.
(95_what_each_step_holds.md) -/
def Obligations.StepTakesFront : Prop :=
  ∀ (s : State) (c : Instr) (rest : List Instr), s.pending = c :: rest → step s = exec c { s with pending := rest }

/-- On an empty queue step answers the state one CORE cycle later, with what falls due in the groups' runs and in the
event log taken place; nothing outside the parts that time changes by itself is other than it was, and the queue stays
empty. That an empty queue means a cycle is the model's choice (notes/assumptions/1.md). (01_device_organisation.md)
-/
def Obligations.EmptyQueueTicks : Prop :=
  ∀ s : State, s.pending = [] → step s = .next (s.advance (s.now + 1))
    ∧ (s.advance (s.now + 1)).now = s.now + 1 ∧ (s.advance (s.now + 1)).pending = []
    ∧ ∀ p, p ∉ advanceParts → p.same s (s.advance (s.now + 1))

/-- At reset no command waits; there is no owner (OWNER = 3), no stream is OPEN and no image loaded, READY is 0, EPOCH
is 0, the event log is empty, both power caps are 850 W, κ is 4,096, the headroom and the hold reserve are 25 and 100,
and the state is sound. That the model starts before the power-up sequence, with flash as delivered, is its own choice
(notes/assumptions/6.md, 7.md). (02_streams_and_service.md, 12_host_interface_and_owners.md, 14_power_and_thermal.md,
16_errors_injection_and_repair.md) -/
def Obligations.ResetContent : Prop :=
  State.reset.pending = [] ∧ State.reset.owner.owner = 3 ∧ (∀ n, (State.reset.str n).st = .closed)
    ∧ (∀ h, (State.reset.img h).loaded = false) ∧ State.reset.life.ready = false ∧ State.reset.life.epoch = 0
    ∧ State.reset.log.next = 0 ∧ State.reset.power.inForce = 850 ∧ State.reset.power.kappa = 4096
    ∧ State.reset.cfg.headroom = 25 ∧ State.reset.cfg.holdReserve = 100 ∧ Sound State.reset

/-- Sound says: LPDDR6 and host memory are listed in canonical form (addresses strictly rising, no byte listed that an
unlisted one equals), OWNER names a master of Table 12-1 or none, and EPOCH fits its byte. From every sound state,
whatever stands at the front of the queue, and on an empty queue, step answers a sound state. The canonical form is
the model's (notes/assumptions/2.md). (R23, R226, R268, R354) -/
def Obligations.StepKeepsSound : Prop :=
  ∀ s s' : State, Sound s → step s = .next s' → Sound s'

/-- exec of any command on any state answers a next state; its clock is not before the clock of the state it started
from, and its queue is the same. (95_what_each_step_holds.md) -/
def Obligations.EveryCommandAnswers : Prop :=
  ∀ (c : Instr) (s : State), ∃ s', exec c s = .next s' ∧ s.now ≤ s'.now ∧ s'.pending = s.pending

/-- Up to the time of a command the groups' runs and the event log go on by themselves, which changes parts of
advanceParts alone. For every row of the opcode table, footprint lists the parts of the state that the row may change;
every other part (registers, rings, streams, images, groups, clusters, every byte of LPDDR6 and of host memory,
channels, ports, power, safety, Vigil, log, repair journal, boot and fuses, keys) is after the command as the device
had it when it had come to the command's time. The queue is in no footprint; clock and outputs are in all.
(95_what_each_step_holds.md, R79, R226, R250, R277, R285, R303, R317, R346, R354, R357, R374) -/
def Obligations.FrameOfEveryCommand : Prop :=
  (∀ (s : State) (t : Nat) (p : Part), p ∉ advanceParts → p.same s (s.advance t))
  ∧ ∀ (c : Instr) (s s' : State) (p : Part), exec c s = .next s' → p ∉ footprint c →
    p.same (s.advance s'.now) s' ∧ (p ∉ advanceParts → p.same s s')

/-- Over any step, the security version fuse is at least what it was, and where a customer key is enrolled it stays
enrolled with the same hash. (R374, R383) -/
def Obligations.RollbackFloorAndEnrolment : Prop :=
  ∀ s s' : State, step s = .next s' →
    s.boot.svnFuse ≤ s'.boot.svnFuse
      ∧ (s.boot.enrolled = true → s'.boot.enrolled = true ∧ s'.boot.keyHash = s.boot.keyHash)

/-- Over any step, the repair journal begins with the journal as it was: records are only appended. (R357) -/
def Obligations.JournalOnlyGrows : Prop :=
  ∀ s s' : State, step s = .next s' → s.repair.journal <+: s'.repair.journal

/-- For each of the 40 commands of Table 13-4, but for those that the standby logic serves: where its entry spells it,
its transport brings it, no FENCE makes it wait, and checks 1 to 4 of R291 pass, exec is the command's own effect on
the state in which it has been fetched and numbered, an expiry that was due recorded, the owner's lease renewed, and
the command entered among those taken. (R277, R284, R286, R291) -/
def Obligations.CommandsTakeEffect : Prop :=
  ∀ (c : Instr) (s : State) (t : Nat) (h : Hdr) (info : CmdInfo) (eff : Inflight → State → State),
    headerOf c = some (t, h) → commandOf c = some (info, eff) → standbyServes c h = false →
    executes s t h info = true →
    exec c s = .next (eff (entryOf s t h c (if info.cls == .read then [] else info.objs)) (begun s t h c info))

/-- For each of the 40 commands, but for those that the standby logic serves: where its entry spells it, or holds an
opcode that Table 13-4 does not list, it reaches the arbiter, and checks 1 to 4 of R291 in their order (opcode, owner,
readiness, reserved bits and ranges) give a status, the command completes with that status and no RESULT, on the state
in which the arbiter took it, and has no other effect. That an unlisted opcode may come under any row's name is the
model's choice (notes/assumptions/12.md). (R284, R287, R291) -/
def Obligations.RefusedCommandsDoNothing : Prop :=
  ∀ (c : Instr) (s : State) (t : Nat) (h : Hdr) (info : CmdInfo) (eff : Inflight → State → State) (st : Nat),
    headerOf c = some (t, h) → commandOf c = some (info, eff) →
    ((standbyServes c h = false ∧ spells h info.op info.fields = true) ∨ opcodeListed h = false) →
    reaches s t h = true → (judged s t h).refusal h info = some st →
    exec c s = .next ((judged s t h).deliver (entryOf s t h c []) st [])

/-- An opcode that Table 13-4 does not list gets ST_BAD_OPCODE, whatever else is wrong with the command. Of the listed
ones, a command that is not read-class, CLAIM, RELEASE or GRANT gets ST_NOT_OWNER from a master that is not the owner,
whatever else is wrong with it; from the owner it gets ST_NOT_ROLE where it needs the rack-manager role and the owner
lacks it; then ST_NOT_READY where the device is not ready for its opcode; then ST_INVALID_PARAM for a reserved bit or
a field out of range; else nothing refuses it. CLAIM by a second master gets ST_OWNED, with BREAK from the sideband
ST_LEASE_LIVE while the lease is in force; RELEASE and GRANT by a non-owner get ST_NOT_OWNER. (R285, R287, R291) -/
def Obligations.ChecksInOrder : Prop :=
  ∀ (s : State) (h : Hdr) (c : CmdInfo),
    (opcodeListed h = false → s.refusal h c = some 0x0001)
    ∧ (opcodeListed h = true →
    ((c.cls = .owner ∨ c.cls = .rackManager) → s.owner.owner ≠ Master.num h.master → s.refusal h c = some 0x0070)
    ∧ (c.cls = .rackManager → s.owner.owner = Master.num h.master → s.owner.role = false → s.refusal h c = some 0x0075)
    ∧ ((c.cls = .read ∨ (c.cls = .owner ∧ s.owner.owner = Master.num h.master)
          ∨ (c.cls = .rackManager ∧ s.owner.owner = Master.num h.master ∧ s.owner.role = true)) →
        s.refusal h c =
          if s.readyFor c.op c.cls = false then some 0x0073
          else if reservedSet h c.fields = true ∨ c.inRange = false then some 0x0002
          else none)
    ∧ (c.cls = .election → c.op = 0x0010 → h.master ≠ .safety → s.owner.owner ≠ 3 → s.owner.owner ≠ Master.num h.master →
        (¬ (c.brk = true ∧ h.master = .sideband) → s.refusal h c = some 0x0071)
        ∧ (c.brk = true → h.master = .sideband → s.owner.expired = false → s.refusal h c = some 0x0072))
    ∧ (c.cls = .election → c.op ≠ 0x0010 → s.owner.owner ≠ Master.num h.master → s.refusal h c = some 0x0070))

/-- The opcodes and classes (read-class, owner, rack manager, or decided by Table 12-5) by which the 40 commands are
checked are those of Table 13-4. Each command's parameters lie side by side in its 64-byte entry: the entry made of
its opcode, TAG, FENCE and parameters that fit their fields spells that command, has a listed opcode, gives back TAG
and FENCE, and has no reserved bit set; and it spells no command of another opcode. (R290, R298) -/
def Obligations.OpcodesClassesAndEntries : Prop :=
  (∀ (c : Instr) (info : CmdInfo) (eff : Inflight → State → State), commandOf c = some (info, eff) →
    (info.op, info.cls) = match c with
      | .nop .. => (0x0001, CmdClass.read) | .deviceQuery .. => (0x0002, .read) | .claim .. => (0x0010, .election)
      | .release .. => (0x0011, .election) | .grant .. => (0x0012, .election) | .ownerQuery .. => (0x0013, .read)
      | .imageLoad .. => (0x0100, .owner) | .imageUnload .. => (0x0101, .owner) | .imageReload .. => (0x0102, .owner)
      | .imageQuery .. => (0x0103, .read) | .streamOpen .. => (0x0210, .owner) | .streamClose .. => (0x0211, .owner)
      | .streamQuery .. => (0x0212, .read) | .streamMark .. => (0x0213, .owner) | .streamExport .. => (0x0214, .owner)
      | .streamImport .. => (0x0215, .owner) | .streamInput .. => (0x0216, .owner) | .streamMove .. => (0x0217, .owner)
      | .spillAssign .. => (0x0220, .owner) | .disable .. => (0x0300, .owner) | .enable .. => (0x0301, .owner)
      | .unitReset .. => (0x0302, .owner) | .unitQuery .. => (0x0303, .read) | .powerCapSet .. => (0x0400, .rackManager)
      | .powerQuery .. => (0x0401, .read) | .keyLoad .. => (0x0500, .owner) | .keyClear .. => (0x0501, .owner)
      | .keyEnrol .. => (0x0502, .owner) | .attest .. => (0x0503, .read) | .safeStateRequest .. => (0x0600, .owner)
      | .vigilStatus .. => (0x0601, .read) | .selfTest .. => (0x0602, .owner) | .regRead .. => (0x0700, .read)
      | .regWrite .. => (0x0701, .owner) | .inject .. => (0x0702, .owner) | .eventMirror .. => (0x0703, .owner)
      | .fwWrite .. => (0x0800, .owner) | .fwActivate .. => (0x0801, .owner) | .deviceReset .. => (0x0802, .owner)
      | .fwQuery .. => (0x0803, .read) | _ => (info.op, info.cls))
  ∧ (∀ c : Instr, (commandOf c).isSome = (headerOf c).isSome)
  ∧ ∀ (c : Instr) (info : CmdInfo) (eff : Inflight → State → State) (h : Hdr) (tag : BitVec 32) (fence : Bool),
    commandOf c = some (info, eff) → (∀ f ∈ info.fields, f.value < 2 ^ f.width) →
    h.entry = encodeEntry info.op tag.toNat fence info.fields →
    spells h info.op info.fields = true ∧ opcodeListed h = true ∧ h.tag = tag ∧ h.fence = fence
      ∧ reservedSet h info.fields = false ∧ ∀ op fs, op ≠ info.op → spells h op fs = false

/-- A command of the 40 that its entry spells, its transport brings and that has an earlier command of its ring (or of
the sideband) to wait for is kept as waiting, numbered, and nothing else happens to it. FENCE_WAIT_END takes the
oldest waiting command of a ring once nothing earlier is left and the master is served: it is no longer waiting, and
the arbiter takes it; while something earlier is left, only time passes. (R297) -/
def Obligations.FenceWaits : Prop :=
  (∀ (c : Instr) (s : State) (t : Nat) (h : Hdr) (info : CmdInfo) (eff : Inflight → State → State),
    headerOf c = some (t, h) → commandOf c = some (info, eff) → standbyServes c h = false →
    spells h info.op info.fields = true → comes s t h = true → mustWait s t h = true →
    let x := arrived s t h
    let e := entryOf s t h c []
    exec c s = .next { x with
      nextCmd := s.nextCmd + 1
      fenced := x.fenced ++ [{ instr := c, hdr := h, id := s.nextCmd, sqHead := e.sqHead, cq := e.cq }] })
  ∧ (∀ (s : State) (t ring : Nat) (m : Master) (f : Fenced) (info : CmdInfo) (eff : Inflight → State → State),
    let x := s.atCtrl t
    x.oldestFenced m ring = some f → commandOf f.instr = some (info, eff) → x.served m = true →
      exec (.fenceWaitEnd t m ring) s = .next
        (if x.fenceHolds m f.hdr.ring f.id = true then x
         else ({ x with fenced := x.fenced.filter fun y => y.id != f.id } : State).takeCmd
           { id := f.id, hdr := f.hdr, sqHead := f.sqHead, instr := f.instr, cq := f.cq, objs := [] } info eff))

/-- Where they execute, NOP completes with no RESULT; DEVICE_QUERY, OWNER_QUERY, UNIT_QUERY and POWER_QUERY with the
stepping, profile, slot, version, capacity and number of images, the words of OWN_STAT, the unit's state, and the
power figures; VIGIL_STATUS from PCIe or sideband with Table 15-2; STREAM_QUERY with 16 bytes of the stream table
entry, all 64 going to DEST where one is given; IMAGE_QUERY of a loaded image with its header figures, digest and
retired variants going to DEST; REG_READ with the words read. A register read acts on the state in which what has
fallen due in the groups has taken place, and clears or latches; nothing else changes. (R24, R35, R285, R298, R304,
R317, R333, Table 13-4) -/
def Obligations.QueriesAnswer : Prop :=
  ∀ (s : State) (t : Nat) (h : Hdr),
    (executes s t h infoNop = true →
      exec (.nop t h) s = .next ((begun s t h (.nop t h) infoNop).finish s.nextCmd stSuccess []))
    ∧ (executes s t h infoDeviceQuery = true →
      let x := begun s t h (.deviceQuery t h) infoDeviceQuery
      exec (.deviceQuery t h) s = .next (x.finish s.nextCmd stSuccess (resultOf
        [(12, leBytes 1 0x11), (13, leBytes 1 (b2n x.repair.profile1152)),
         (14, leBytes 1 (if x.boot.running < 2 then x.boot.running else 0xFF)), (16, leBytes 4 x.fwVersion),
         (20, leBytes 4 x.capacityMib), (24, leBytes 1 x.loaded.length)])))
    ∧ (executes s t h infoOwnerQuery = true →
      let x := begun s t h (.ownerQuery t h) infoOwnerQuery
      exec (.ownerQuery t h) s = .next (x.finish s.nextCmd stSuccess (resultOf
        [(12, leBytes 4 x.ownWord), (16, leBytes 4 x.leaseLeft), (20, leBytes 4 (x.ctrAt ownChanges))])))
    ∧ (∀ type index, executes s t h (infoUnitQuery type index) = true →
      let x := begun s t h (.unitQuery t h type index) (infoUnitQuery type index)
      exec (.unitQuery t h type index) s =
        .next (x.finish s.nextCmd stSuccess (resultOf [(12, leBytes 1 (x.unitOf type index).code)])))
    ∧ (executes s t h infoPowerQuery = true →
      let x := begun s t h (.powerQuery t h) infoPowerQuery
      exec (.powerQuery t h) s = .next (x.finish s.nextCmd stSuccess (resultOf
        [(12, leBytes 2 (min x.power.capSet x.power.thermalCap)), (14, leBytes 2 x.power.measuredW),
         (16, leBytes 2 x.power.estimateW), (18, leBytes 1 (min 255 (maxOf x.power.sensors))),
         (19, leBytes 1 x.power.flags), (20, leBytes 2 x.power.capSet)])))
    ∧ (h.master ≠ .safety → executes s t h infoVigilStatus = true →
      let x := begun s t h (.vigilStatus t h) infoVigilStatus
      exec (.vigilStatus t h) s = .next (x.finish s.nextCmd stSuccess x.vigilResult))
    ∧ (∀ stream part dest, executes s t h (infoStreamQuery h stream part dest) = true →
      let x := begun s t h (.streamQuery t h stream part dest) (infoStreamQuery h stream part dest)
      exec (.streamQuery t h stream part dest) s = .next
        (if dest = 0 then x.finish s.nextCmd stSuccess (resultOf [(12, slice (x.str stream).bytes (16 * part) 16)])
         else (x.hostWrite dest (x.str stream).bytes).finish s.nextCmd stSuccess
           (resultOf [(12, slice (x.str stream).bytes 0 16)])))
    ∧ (∀ handle dest, executes s t h (infoImageQuery h handle dest) = true →
      let x := begun s t h (.imageQuery t h handle dest) (infoImageQuery h handle dest)
      let m := x.img handle
      m.loaded = true →
      exec (.imageQuery t h handle dest) s = .next
        ((x.writeDest dest (pad 32 m.digest ++ (List.range 48).flatMap fun g => leBytes 8 (m.retiredMask g))).finish
          s.nextCmd stSuccess (resultOf
          [(12, leBytes 1 m.variants), (13, leBytes 1 (b2n (m.profile == 1152))), (14, leBytes 2 m.recordRows),
           (16, leBytes 2 m.chunkSamples), (18, leBytes 2 m.outBytes)])))
    ∧ (∀ bar count offset, executes s t h (infoRegRead bar count offset) = true →
      let x := begun s t h (.regRead t h bar count offset) (infoRegRead bar count offset)
      let r := x.upToDate.readWords h.master bar ((List.range count).map fun k => offset + 4 * k)
      exec (.regRead t h bar count offset) s =
        .next (r.2.finish s.nextCmd stSuccess (resultOf [(12, r.1.flatMap (leBytes 4))])))

/-- Where it executes, FW_QUERY completes with ST_SUCCESS and a RESULT whose bytes are: 12 the running slot (0xFF in
recovery); 13 marked slot, TRIAL, whether slots A and B verify, the Vigil slot in use, Vigil pending; 14 the security
version fuse; 15 the running firmware's SVN; 16–19 and 20–23 VERSION of slot A and B, or 0 if invalid; 24–27 VERSION
of the Vigil slot in use, or 0; 28–31 zero. (R384) -/
def Obligations.FwQueryAnswers : Prop :=
  ∀ (s : State) (t : Nat) (h : Hdr), executes s t h infoFwQuery = true →
    let x := begun s t h (.fwQuery t h) infoFwQuery
    let b := x.boot
    exec (.fwQuery t h) s = .next (x.finish s.nextCmd stSuccess
      (leBytes 1 (if b.running < 2 then b.running else 0xFF)
        ++ leBytes 1 (b2n b.markedB + 2 * b2n b.trial + 4 * b2n (b.fwOk false) + 8 * b2n (b.fwOk true)
          + 16 * b2n b.vigilSlotB + 32 * b2n b.vigilPending)
        ++ leBytes 1 b.svnFuse ++ leBytes 1 ((b.runningFw.map (·.svn)).getD 0)
        ++ leBytes 4 (if b.fwOk false then (b.fwA.map (·.version)).getD 0 else 0)
        ++ leBytes 4 (if b.fwOk true then (b.fwB.map (·.version)).getD 0 else 0)
        ++ leBytes 4 (if x.vigil.imageValid then ((if b.vigilSlotB then b.vigilB else b.vigilA).map (·.version)).getD 0 else 0)
        ++ leBytes 4 0))

/-- Where they execute, CLAIM makes the sender the owner with the ROLE asked for, RELEASE leaves no owner, GRANT makes
TARGET the owner with ROLE; each begins a lease of 1,250,000,000 CTRL cycles from this cycle with EXPIRED 0, and
completes with ST_SUCCESS. While the control domain is out of reset, at a CTRL cycle at or after the lease's end, with
an owner whose expiry is not yet recorded, LEASE_EXPIRY sets EXPIRED, keeps the owner, its role and lease end, and the
sideband gets its in-band interrupt; before the lease's end, with no owner, or once recorded, only time passes. (R281,
R284, R285, R286) -/
def Obligations.ElectionSetsOwner : Prop :=
  ∀ (s : State) (t : Nat) (h : Hdr),
    (∀ role brk, executes s t h (infoClaim h role brk) = true →
      let x := begun s t h (.claim t h role brk) (infoClaim h role brk)
      ∃ z : State, exec (.claim t h role brk) s = .next (z.finish s.nextCmd stSuccess [])
        ∧ z.owner = { x.owner with
          owner := Master.num h.master, role, expired := false, leaseEnd := x.ctrl + 1250000000 })
    ∧ (executes s t h infoRelease = true →
      let x := begun s t h (.release t h) infoRelease
      ∃ z : State, exec (.release t h) s = .next (z.finish s.nextCmd stSuccess [])
        ∧ z.owner = { x.owner with owner := 3, role := false, expired := false, leaseEnd := x.ctrl + 1250000000 })
    ∧ (∀ target role, executes s t h (infoGrant h target role) = true →
      let x := begun s t h (.grant t h target role) (infoGrant h target role)
      ∃ z : State, exec (.grant t h target role) s = .next (z.finish s.nextCmd stSuccess [])
        ∧ z.owner = { x.owner with owner := target, role, expired := false, leaseEnd := x.ctrl + 1250000000 })
    ∧ (let x := s.advance t
      x.controlUp = true →
      (x.owner.owner ≠ 3 → x.owner.expired = false → x.owner.leaseEnd ≤ x.ctrl →
        ∃ z : State, exec (.leaseExpiry t) s = .next z ∧ z.owner = { x.owner with expired := true } ∧ .inBand 1 ∈ z.outs)
      ∧ ((x.owner.owner = 3 ∨ x.owner.expired = true ∨ x.ctrl < x.owner.leaseEnd) → exec (.leaseExpiry t) s = .next x))

/-- toUs, through which every time that the device reports in microseconds goes, gives for a difference of d CORE
cycles ⌈d ÷ 2,500⌉: the least whole number u with 2,500 u ≥ d; the remaining lease that OWNER_QUERY reports is such a
figure. (R24) -/
def Obligations.MicrosecondsRoundUp : Prop :=
  (∀ d : Nat, d ≤ 2500 * toUs (d : Int) ∧ 2500 * toUs (d : Int) < d + 2500)
  ∧ (∀ s : State, s.owner.owner ≠ 3 → s.owner.expired = false →
      s.leaseLeft = min 0xFFFFFFFF (toUs (4 * ((s.owner.leaseEnd : Int) - s.ctrl))))
  ∧ (∀ (s : State) (n : Nat) (at_ : Nat) (rest : List Nat), (s.str n).filled = at_ :: rest →
      (s.noteWrite n).ctrAt (apPort (bindPort (s.str n).source) + 0x48) =
        max (s.ctrAt (apPort (bindPort (s.str n).source) + 0x48)) (min 0xFFFFFFFF (toUs ((s.now - at_ : Nat) : Int))))

/-- Where it executes and every check of R299 passes (number free, image loaded, bindings, units, times, admission,
room), STREAM_OPEN opens the stream in the group chosen and completes with home, slot and SPILLED. STREAM_CLOSE of an
OPEN stream without an export makes it CLOSING and stays in progress; with one, and in MOVING, CLOSING and EXPORTING,
it waits. STREAM_MARK keeps a mark that the stream can take. STREAM_INPUT of samples that fit and follow on appends
them and answers the next index; in MOVING it waits. STREAM_MOVE of an OPEN stream that a group with room passes notes
the move, which MOVE_BEGIN starts; with a move or export noted, and in MOVING, CLOSING and EXPORTING, it fails with
ST_STREAM_BUSY. On a CLOSED stream each fails with ST_NOT_FOUND, and MARK and INPUT on a CLOSING one with
ST_STREAM_BUSY (Table 13-7). (R37, R39, R44, R45, R189, R299, R301, R303) -/
def Obligations.StreamCommandsAct : Prop :=
  ∀ (s : State) (t : Nat) (h : Hdr),
    (∀ (p : OpenParams) (retries : WriteRetries) (g slot : Nat) (z : State), executes s t h (infoStreamOpen p) = true →
      let x := begun s t h (.streamOpen t h p retries) (infoStreamOpen p)
      let m := x.img p.image
      (x.str p.stream).reserved = false → m.loaded = true →
      x.sourceOk p.source p.rate m.chunkSamples = true → x.sinkOk p.sink p.rate m = true →
      x.openUp p.home p.source p.sink = true →
      timesOk (clsOf p.cls) p.rate m.chunkSamples p.deadline p.stale = true →
      x.admitHome ⟨p.image, clsOf p.cls, rateHz p.rate, m.chunkSamples⟩ p.home = some g →
      x.openStream
        { stream := p.stream, cls := clsOf p.cls, image := p.image, home := g, cq := p.cq, rate := p.rate
          deadline := p.deadline, stale := p.stale, source := p.source, sink := p.sink, outBase := p.outBase
          classWord := m.initClassWord } (fun n y => y.initialRecord n 0xFFFFFFFF 0) retries = some (z, slot) →
      exec (.streamOpen t h p retries) s = .next (z.finish s.nextCmd stSuccess (resultOf
        [(12, leBytes 1 (z.str p.stream).home), (13, leBytes 1 slot), (14, leBytes 1 (b2n (z.str p.stream).spilled))])))
    ∧ (∀ n, executes s t h (infoStreamClose n) = true →
      let x := begun s t h (.streamClose t h n) (infoStreamClose n)
      (x.str n).st = .opened → (x.str n).xport = none →
      (∃ z : State, exec (.streamClose t h n) s = .next z ∧ (z.str n).st = .closing ∧ (z.str n).move = none
        ∧ (z.str n).chunks = (x.str n).chunks))
    ∧ (∀ n, executes s t h (infoStreamClose n) = true →
      let x := begun s t h (.streamClose t h n) (infoStreamClose n)
      (((x.str n).st = .opened ∧ (x.str n).xport ≠ none) ∨ (x.str n).st = .moving ∨ (x.str n).st = .closing
          ∨ (x.str n).st = .exporting → exec (.streamClose t h n) s = .next (x.waitCmd s.nextCmd))
      ∧ ((x.str n).st = .closed → exec (.streamClose t h n) s = .next (x.failCmd s.nextCmd stNotFound)))
    ∧ (∀ n index, executes s t h (infoStreamMark n index) = true →
      let x := begun s t h (.streamMark t h n index) (infoStreamMark n index)
      ((x.str n).st = .opened ∨ (x.str n).st = .moving ∨ (x.str n).st = .exporting) →
      (x.str n).markBad index = false →
      ∃ z : State, exec (.streamMark t h n index) s = .next (z.finish s.nextCmd stSuccess []) ∧ index ∈ (z.str n).marks
        ∧ ∀ k, k ∈ (x.str n).marks → k ∈ (z.str n).marks)
    ∧ (∀ n index, executes s t h (infoStreamMark n index) = true →
      let x := begun s t h (.streamMark t h n index) (infoStreamMark n index)
      ((x.str n).st = .closed → exec (.streamMark t h n index) s = .next (x.failCmd s.nextCmd stNotFound))
      ∧ ((x.str n).st = .closing → exec (.streamMark t h n index) s = .next (x.failCmd s.nextCmd stStreamBusy)))
    ∧ (∀ n first count addr l, executes s t h (infoStreamInput n first count addr) = true →
      let x := begun s t h (.streamInput t h n first count addr (some l)) (infoStreamInput n first count addr)
      let r := x.str n
      (r.st = .opened ∨ r.st = .exporting) → x.hif.linkUp = true → r.inputRefusal first count = none →
      let w := if bindSfmt r.source then 4 else 2
      ∃ z : State, exec (.streamInput t h n first count addr (some l)) s =
          .next (z.finish s.nextCmd stSuccess (resultOf [(16, leBytes 6 (z.str n).inputIndex)]))
        ∧ (z.str n).samples = r.samples ++ samplesOf w count (pad (w * count) l))
    ∧ (∀ n first count addr data, executes s t h (infoStreamInput n first count addr) = true →
      let x := begun s t h (.streamInput t h n first count addr data) (infoStreamInput n first count addr)
      ((x.str n).st = .closed → exec (.streamInput t h n first count addr data) s = .next (x.failCmd s.nextCmd stNotFound))
      ∧ ((x.str n).st = .closing → exec (.streamInput t h n first count addr data) s = .next (x.failCmd s.nextCmd stStreamBusy))
      ∧ ((x.str n).st = .moving → exec (.streamInput t h n first count addr data) s = .next (x.waitCmd s.nextCmd)))
    ∧ (∀ n home g base, executes s t h (infoStreamMove n home) = true →
      let x := begun s t h (.streamMove t h n home) (infoStreamMove n home)
      let r := x.str n
      r.st = .opened → r.move = none → r.xport = none → (home = 0x3F ∨ (x.grp home).unit = .enabled) →
      x.moveTarget n home = some g → x.moveRing n g = some base →
      exec (.streamMove t h n home) s =
        .next (x.setStr n { r with move := some { target := g, base, cmd := s.nextCmd } }))
    ∧ (∀ n home, executes s t h (infoStreamMove n home) = true →
      let x := begun s t h (.streamMove t h n home) (infoStreamMove n home)
      let r := x.str n
      (r.st = .closed → exec (.streamMove t h n home) s = .next (x.failCmd s.nextCmd stNotFound))
      ∧ (r.st = .moving ∨ r.st = .closing ∨ r.st = .exporting ∨ (r.st = .opened ∧ (r.move ≠ none ∨ r.xport ≠ none)) →
        exec (.streamMove t h n home) s = .next (x.failCmd s.nextCmd stStreamBusy)))

/-- Where it executes, on an OPEN stream without an export, with LENGTH enough, the Comet engine ENABLED and an export
key in the slot, STREAM_EXPORT ends a move that waits with ST_STREAM_BUSY and notes the export, which EXPORT_BEGIN
starts. STREAM_IMPORT of a free stream number, with its units up, a key in the slot and readable data goes on by
checks 2 to 5 of R196 in their order: ST_IMPORT_INVALID, ST_IMPORT_MISMATCH or ST_INVALID_PARAM, else the decoded
record waits to be written home, which IMPORT_DONE ends. (R194, R196, R303, R387) -/
def Obligations.ExportAndImportBegin : Prop :=
  ∀ (s : State) (t : Nat) (h : Hdr),
    (∀ n slot mv addr len, executes s t h (infoStreamExport n slot mv addr len) = true →
      let x := begun s t h (.streamExport t h n slot mv addr len) (infoStreamExport n slot mv addr len)
      let r := x.str n
      r.st = .opened → r.xport = none → 128 + 4148 * ((x.img r.image).recordRows / 64) ≤ len → x.cometUnit = .enabled →
      (x.exportKey slot).isSome = true →
      ∃ z : State, exec (.streamExport t h n slot mv addr len) s = .next z
        ∧ (z.str n).xport = some { keySlot := slot, move := mv, addr, len, cmd := s.nextCmd } ∧ (z.str n).move = none
        ∧ (z.str n).st = .opened)
    ∧ (∀ (p : ImportParams) (l key : List Byte), executes s t h (infoStreamImport p) = true →
      let x := begun s t h (.streamImport t h p (some l)) (infoStreamImport p)
      let b := pad (max 128 l.length) l
      (x.str p.stream).reserved = false → x.openUp p.home p.source p.sink = true → x.exportKey p.keySlot = some key →
      x.hif.linkUp = true → x.fireCodec.1 = none →
      exec (.streamImport t h p (some l)) s = .next
        (if containerOk b = false then (x.count cometImportRejects 1).failCmd s.nextCmd stImportInvalid
         else match x.containerImage b with
           | none => (x.count cometImportRejects 1).failCmd s.nextCmd stImportMismatch
           | some k =>
             let q := importOf p s.nextCmd k (x.img k) b
             if x.importFits q = false then x.failCmd s.nextCmd stInvalidParam
             else match containerRecord (x.img k) key b with
               | .error st =>
                 ((x.fireCodec.2.containerBlockFailed st).count cometImportRejects 1).failCmd s.nextCmd stImportInvalid
               | .ok y => x.fireCodec.2.setStr p.stream
                   { x.str p.stream with imp := some { q with record := (pieces 64 4096 y).map bytesRow } }))

/-- At memory level 8 IMAGE_LOAD and IMAGE_RELOAD wait, taken but with no effect yet. Below it, where it executes,
with readable data, a free handle and room for the extents, IMAGE_LOAD fails with ST_KEY_INVALID without an enrolled
key, with ST_SIGNATURE where the package does not verify, else it is admitted: the body is written into the extents
and the image's own checks decide. IMAGE_UNLOAD of a loaded image that no stream uses empties its entry and completes
with ST_SUCCESS. IMAGE_RELOAD of a loaded image fails in the same way, or with ST_IMAGE_INVALID for another image,
else it writes the extents again, and at the next round start of each group the retired variants return there. (R60,
R75, R228, R343, R386) -/
def Obligations.ImageCommandsAct : Prop :=
  ∀ (s : State) (t : Nat) (h : Hdr),
    (∀ addr len data retries, executes s t h (infoImageLoad addr len) = true →
      let x := begun s t h (.imageLoad t h addr len data retries) (infoImageLoad addr len)
      x.power.m = 8 → exec (.imageLoad t h addr len data retries) s = .next x)
    ∧ (∀ addr len l retries k m, executes s t h (infoImageLoad addr len) = true →
      let x := begun s t h (.imageLoad t h addr len (some l) retries) (infoImageLoad addr len)
      let p := pad len l
      x.power.m ≠ 8 → x.hif.linkUp = true → x.freeHandle = some k → x.placeImage (pkgBody p) = some m →
      exec (.imageLoad t h addr len (some l) retries) s = .next
        (if x.keyEnrolled = false then x.failCmd s.nextCmd stKeyInvalid
         else if x.imageSigned p = false then x.failCmd s.nextCmd stSignature
         else x.admitImage k m p retries s.nextCmd))
    ∧ (∀ k, executes s t h (infoImageUnload k) = true →
      let x := begun s t h (.imageUnload t h k) (infoImageUnload k)
      (x.img k).loaded = true → x.imageBusy k = false →
      ∃ z : State, exec (.imageUnload t h k) s = .next (z.finish s.nextCmd stSuccess []) ∧ z.img k = {})
    ∧ (∀ k addr len data retries, executes s t h (infoImageReload k addr len) = true →
      let x := begun s t h (.imageReload t h k addr len data retries) (infoImageReload k addr len)
      x.power.m = 8 → exec (.imageReload t h k addr len data retries) s = .next x)
    ∧ (∀ k addr len l retries, executes s t h (infoImageReload k addr len) = true →
      let x := begun s t h (.imageReload t h k addr len (some l) retries) (infoImageReload k addr len)
      let p := pad len l
      let m := x.img k
      x.power.m ≠ 8 → m.loaded = true → x.hif.linkUp = true →
      exec (.imageReload t h k addr len (some l) retries) s = .next
        (if x.keyEnrolled = false then x.failCmd s.nextCmd stKeyInvalid
         else if x.imageSigned p = false then x.failCmd s.nextCmd stSignature
         else if pkgDigest p ≠ m.digest then x.failCmd s.nextCmd stImageInvalid
         else ((x.writeImage m (pkgBody p) retries).setImg k { m with restore := m.retiredGroups }).finish s.nextCmd stSuccess []))

/-- Once an image is admitted, IMAGE_LOAD fails with the status of the first load-time check that does not hold; where
all hold it completes with ST_SUCCESS and the handle, with the image loaded under that handle with the package's
digest, and its near and far extents allocated behind those allocated before. (R60, R228, R343) -/
def Obligations.AdmittedImageIsLoaded : Prop :=
  ∀ (s : State) (k id : Nat) (m : Image) (p : List Byte) (retries : WriteRetries),
    let x := s.writeImage m (pkgBody p) retries
    let hdr := x.imageBytes m 0 0 256
    let y := x.parseImage m hdr
    ∃ z : State, s.admitImage k m p retries id =
        (if x.loadChecks y hdr = 0 then z.finish id stSuccess (resultOf [(12, leBytes 1 k)])
         else s.failCmd id (x.loadChecks y hdr))
      ∧ (z.img k).loaded = true ∧ (z.img k).digest = pkgDigest p
      ∧ z.nearAlloc = s.nearAlloc ++ [y.nearRange] ∧ z.farAlloc = s.farAlloc ++ [y.farRange]

/-- Where it executes and no home lies in the spill region, SPILL_ASSIGN makes the region BASE to BASE + SIZE − 1 the
spill region, or with SIZE 0 leaves none; with a home in it the command fails with ST_INVALID_PARAM. POWER_CAP_SET
sets the cap, keeps the thermal cap, with a cap in force of 850 W sets L and M to 0, completes, and lets image loads
that waited for memory level 8 to end go on. (R239, R317, R318) -/
def Obligations.SpillAndCapAreSet : Prop :=
  ∀ (s : State) (t : Nat) (h : Hdr),
    (∀ base size, executes s t h (infoSpillAssign base size) = true →
      let x := begun s t h (.spillAssign t h base size) (infoSpillAssign base size)
      (x.spillAlloc = [] → exec (.spillAssign t h base size) s =
        .next (({ x with spill := if size = 0 then none else some ⟨base, size⟩ } : State).finish s.nextCmd stSuccess []))
      ∧ (x.spillAlloc ≠ [] → exec (.spillAssign t h base size) s = .next (x.failCmd s.nextCmd stInvalidParam)))
    ∧ (∀ cap, executes s t h (infoPowerCapSet cap) = true →
      let x := begun s t h (.powerCapSet t h cap) (infoPowerCapSet cap)
      ∃ z : State, exec (.powerCapSet t h cap) s = .next ((z.finish s.nextCmd stSuccess []).resumeLoads)
        ∧ z.power.capSet = cap ∧ z.power.thermalCap = x.power.thermalCap
        ∧ (850 ≤ min cap x.power.thermalCap → z.power.l = 0 ∧ z.power.m = 0)
        ∧ (min cap x.power.thermalCap < 850 → z.power.l = x.power.l ∧ z.power.m = x.power.m))

/-- Where it executes, DISABLE fails with ST_STREAM_BUSY on a group or expander that homes an S stream; else it begins
the draining or aborting of an ENABLED or draining unit, completes at once on a DISABLED or OFF one and waits on one
in reset. ENABLE and UNIT_RESET fail with ST_DISABLED on a unit that the device holds. Else ENABLE makes a DISABLED
unit ENABLED, starts the reset of an OFF one, completes at once on an ENABLED one, waits for a reset in progress or
asked for, and ends a draining, whose DISABLE commands get ST_CANCELLED. UNIT_RESET waits for a reset or retirement in
progress; else it starts the reset of a DISABLED or OFF unit or a port, completing the DISABLE commands before it, and
begins the aborting of any other unit. SELF_TEST of an ENABLED group queues the 8 device passes for the cluster.
(R304, R305, R306, R307, R338, R341) -/
def Obligations.UnitCommandsAct : Prop :=
  ∀ (s : State) (t : Nat) (h : Hdr),
    (∀ type index abort, executes s t h (infoDisable type index abort) = true →
      let x := begun s t h (.disable t h type index abort) (infoDisable type index abort)
      (((type = 0 ∨ type = 3) ∧ 0 < x.sHomed index) →
        exec (.disable t h type index abort) s = .next (x.failCmd s.nextCmd stStreamBusy))
      ∧ (¬ ((type = 0 ∨ type = 3) ∧ 0 < x.sHomed index) →
      ((x.unitOf type index = .enabled ∨ x.unitOf type index = .draining ∨ x.unitOf type index = .aborting) →
        exec (.disable t h type index abort) s = .next ((x.startDisable type index abort).actCmd s.nextCmd))
      ∧ ((x.unitOf type index = .disabled ∨ x.unitOf type index = .off) →
        exec (.disable t h type index abort) s = .next (x.finish s.nextCmd stSuccess []))
      ∧ (x.unitOf type index = .resetting →
        exec (.disable t h type index abort) s = .next (x.waitCmd s.nextCmd))))
    ∧ (∀ type index, executes s t h (infoEnable type index) = true →
      let x := begun s t h (.enable t h type index) (infoEnable type index)
      (x.unitHeld type index = true → exec (.enable t h type index) s = .next (x.failCmd s.nextCmd stDisabled))
      ∧ (x.unitHeld type index = false →
      (x.unitOf type index = .disabled → exec (.enable t h type index) s =
        .next ((((x.setUnit type index .enabled).takeUp type index).resumeUnit type index).finish s.nextCmd stSuccess []))
      ∧ (x.unitOf type index = .off → exec (.enable t h type index) s =
        .next (((x.setReset type index false false).beginUnitReset type index).waitCmd s.nextCmd))
      ∧ (x.unitOf type index = .enabled →
        exec (.enable t h type index) s = .next (x.finish s.nextCmd stSuccess []))
      ∧ (x.unitOf type index = .resetting ∨ ((x.unitOf type index = .draining ∨ x.unitOf type index = .aborting)
          ∧ x.resetAfter type index = true) → exec (.enable t h type index) s = .next (x.waitCmd s.nextCmd))
      ∧ ((x.unitOf type index = .draining ∨ x.unitOf type index = .aborting) → x.resetAfter type index = false →
        exec (.enable t h type index) s = .next (((((x.finishAll (x.unitCmds type index fun j => j.isDisable && !j.waiting)
          stCancelled []).setUnit type index .enabled).resumeUnit type index)).finish s.nextCmd stSuccess []))))
    ∧ (∀ type index off, executes s t h (infoUnitReset type index off) = true →
      let x := begun s t h (.unitReset t h type index off) (infoUnitReset type index off)
      let wait : Prop := (type = 0 ∧ (x.grp index).retiring.isSome = true) ∨ x.unitOf type index = .resetting
        ∨ x.resetAfter type index = true
      let now : Prop := x.unitOf type index = .disabled ∨ x.unitOf type index = .off ∨ type = 1
      (x.unitHeld type index = true → exec (.unitReset t h type index off) s = .next (x.failCmd s.nextCmd stDisabled))
      ∧ (x.unitHeld type index = false →
        (wait → exec (.unitReset t h type index off) s = .next (x.waitCmd s.nextCmd))
        ∧ (¬ wait → now → exec (.unitReset t h type index off) s =
          .next (((((x.finishAll (x.unitCmds type index fun j => j.isDisable && !j.waiting) stSuccess []).setReset type
            index false off).beginUnitReset type index)).actCmd s.nextCmd))
        ∧ (¬ wait → ¬ now → exec (.unitReset t h type index off) s =
          .next (((x.setReset type index true off).startDisable type index true).actCmd s.nextCmd))))
    ∧ (∀ g c, executes s t h (infoSelfTest g c) = true →
      let x := begun s t h (.selfTest t h g c) (infoSelfTest g c)
      (x.clusterCount ≤ c → exec (.selfTest t h g c) s = .next (x.failCmd s.nextCmd stInvalidParam))
      ∧ (c < x.clusterCount → (x.grp g).unit ≠ .enabled → exec (.selfTest t h g c) s = .next (x.failCmd s.nextCmd stDisabled))
      ∧ (c < x.clusterCount → (x.grp g).unit = .enabled →
      exec (.selfTest t h g c) s = .next (x.queueTests g ((x.grp g).phys c)
        [.pass 1, .pass 2, .pass 3, .pass 4, .pass 5, .pass 6, .pass 7, .pass 8] false [s.nextCmd])))

/-- When DISABLE begins on a port's data path or on the Comet engine, in DRAIN mode on an ENABLED or DRAINING unit the
unit is DRAINING, and in ABORT mode, or on one that is ABORTING, it is ABORTING. (R305, Table 13-8) -/
def Obligations.DisableSetsTheUnitsState : Prop :=
  ∀ (s : State) (index : Nat) (abort : Bool),
    (s.startDisable 1 index abort).unitOf 1 index =
        (if abort = true ∨ s.unitOf 1 index = .aborting then .aborting else .draining)
    ∧ (s.startDisable 2 0 abort).unitOf 2 0 =
        (if abort = true ∨ s.unitOf 2 0 = .aborting then .aborting else .draining)

/-- Where it executes, KEY_LOAD of a 192-byte blob into an empty slot puts the unwrapped key there, or fails with
ST_KEY_INVALID where the blob does not unwrap. KEY_CLEAR of an empty slot completes with ST_SUCCESS; it fails with
ST_IMAGE_BUSY while a loaded image names the slot, waits while an export or import uses it, and else empties it.
KEY_ENROL of a key of 60 bytes that is well formed enrols it where none is enrolled, with its SHA-256 in the fuses.
ATTEST with room at DEST writes report, signature and certificate chain there. (R374, R385, R387, R388, R389, R392) -/
def Obligations.KeyCommandsAct : Prop :=
  ∀ (s : State) (t : Nat) (h : Hdr),
    (∀ slot kind addr l, executes s t h (infoKeyLoad slot kind addr 192) = true →
      let x := begun s t h (.keyLoad t h slot kind addr 192 (some l)) (infoKeyLoad slot kind addr 192)
      x.keyAt slot = none → x.hif.linkUp = true →
      exec (.keyLoad t h slot kind addr 192 (some l)) s = .next (match blobKey kind (pad 192 l) with
        | none => x.failCmd s.nextCmd stKeyInvalid
        | some key => ({ x with keys := tput none x.keys slot (some ⟨kind, key⟩) } : State).finish s.nextCmd stSuccess []))
    ∧ (∀ slot, executes s t h (infoKeyClear slot) = true →
      let x := begun s t h (.keyClear t h slot) (infoKeyClear slot)
      (x.keyAt slot = none → exec (.keyClear t h slot) s = .next (x.finish s.nextCmd stSuccess []))
      ∧ (x.keyAt slot ≠ none →
        (x.keyNamed slot = true → exec (.keyClear t h slot) s = .next (x.failCmd s.nextCmd stImageBusy))
        ∧ (x.keyNamed slot = false → x.keyInUse slot = true → exec (.keyClear t h slot) s = .next (x.waitCmd s.nextCmd))
        ∧ (x.keyNamed slot = false → x.keyInUse slot = false →
          exec (.keyClear t h slot) s =
            .next (({ x with keys := tput none x.keys slot none } : State).finish s.nextCmd stSuccess []))))
    ∧ (∀ addr l, executes s t h (infoKeyEnrol addr 60) = true →
      let x := begun s t h (.keyEnrol t h addr 60 (some l)) (infoKeyEnrol addr 60)
      x.boot.enrolled = false → x.hif.linkUp = true → hssKeyOk (pad 60 l) = true →
      exec (.keyEnrol t h addr 60 (some l)) s = .next (({ x with boot := { x.boot with
        enrolledKey := pad 60 l, keyHash := sha256 (pad 60 l), enrolled := true } } : State).finish s.nextCmd stSuccess []))
    ∧ (∀ nonce dest len, executes s t h (infoAttest h nonce dest len) = true →
      let x := begun s t h (.attest t h nonce dest len) (infoAttest h nonce dest len)
      let r := x.attestReport nonce
      dest ≠ 0 → r.length + 96 + Config.certChain.length ≤ len →
      exec (.attest t h nonce dest len) s = .next
        ((({ x with free := x.free + 1 } : State).hostWrite dest
          (r ++ ecdsaSign identityKey (Config.random x.free % (p384n - 1) + 1) (sha384 r) ++ Config.certChain)).finish s.nextCmd
          stSuccess (resultOf [(12, leBytes 4 r.length), (16, leBytes 4 Config.certChain.length)])))

/-- Where it executes, with no write in progress and readable data, FW_WRITE fails with ST_FW_INVALID where the
package does not verify; else the target slot is erased (a firmware package goes to the slot that is not running, a
Vigil package to the slot not in use) and the write is in progress. FW_WRITE_DONE ends it: with the second
verification passed, the slot holds the package and the command completes with ST_SUCCESS, VERSION and SVN, else it
completes with ST_FW_INVALID. FW_ACTIVATE of a slot that verifies and is not the running one marks it and sets TRIAL;
of the running slot without TRIAL it only completes. (R376, R381, R383) -/
def Obligations.UpdateCommandsAct : Prop :=
  ∀ (s : State) (t : Nat) (h : Hdr),
    (∀ addr len l, executes s t h (infoFwWrite addr len) = true →
      let x := begun s t h (.fwWrite t h addr len (some l)) (infoFwWrite addr len)
      x.boot.job = none → x.hif.linkUp = true →
      exec (.fwWrite t h addr len (some l)) s = .next (match x.verifyUpdate (pad len l) with
        | .bad => x.failCmd s.nextCmd stFwInvalid
        | u => { x with boot := x.boot.beginWrite s.nextCmd u }))
    ∧ (∀ (j : FwJob), let x := s.advance t
      x.boot.job = some j → (x.firmwareUp = true ∨ x.life.phase = .recovery) →
      (exec (.fwWriteDone t false) s = .next (({ x with boot :=
        { x.boot with job := none, fwWrites := x.boot.fwWrites + 1 } } : State).finish j.cmd stFwInvalid []))
      ∧ (∀ p, j.firmware = some p → ∃ z : State, exec (.fwWriteDone t true) s =
          .next (z.finish j.cmd stSuccess (resultOf [(12, leBytes 4 p.version), (16, leBytes 2 p.svn)]))
        ∧ z.boot.fw j.slotB = some p ∧ z.boot.job = none ∧ z.boot.fwWrites = x.boot.fwWrites + 1)
      ∧ (∀ p, j.firmware = none → j.vigil = some p → ∃ z : State, exec (.fwWriteDone t true) s =
          .next (z.finish j.cmd stSuccess (resultOf [(12, leBytes 4 p.version), (16, leBytes 2 0)]))
        ∧ z.boot.vigil j.slotB = some p ∧ z.boot.vigilPending = true ∧ z.boot.job = none))
    ∧ (∀ slot, executes s t h (infoFwActivate slot) = true →
      let x := begun s t h (.fwActivate t h slot) (infoFwActivate slot)
      (x.boot.running = slot → x.boot.trial = false →
        exec (.fwActivate t h slot) s = .next (x.finish s.nextCmd stSuccess []))
      ∧ (x.boot.running ≠ slot → x.boot.fwOk (slot == 1) = true → exec (.fwActivate t h slot) s =
        .next (({ x with boot := { x.boot with markedB := slot == 1, trial := true } } : State).finish s.nextCmd
          stSuccess [])))

/-- Where it executes, DEVICE_RESET completes with ST_SUCCESS and begins a device reset: READY 0, DEV_INT 0, watchdogs
disarmed. On a device that is ready, SAFE_STATE_REQUEST of the owner begins a safe-state sequence with cause 2 and
completes at its 1 ms entry; over the safety port it begins one with cause 1. DEVICE_RESET over the sideband in a stop
that can be ended restarts the device, whose main domains enter reset with EPOCH one higher. (R283, R324, R344, R348,
R379, R410, R411) -/
def Obligations.ResetsAreRequested : Prop :=
  ∀ (s : State) (t : Nat) (h : Hdr),
    (executes s t h infoDeviceReset = true → ¬ (h.master = .sideband ∧ (s.advance t).isStopped = true) →
      let x := begun s t h (.deviceReset t h) infoDeviceReset
      exec (.deviceReset t h) s = .next ((x.finish s.nextCmd stSuccess []).beginReset .deviceReset 0xFF)
      ∧ ∀ y : State, (y.beginReset .deviceReset 0xFF).life =
            { y.life with phase := .resetPending, ready := false, kind := .deviceReset, seqAt := y.now, armed := false }
          ∧ (y.beginReset .deviceReset 0xFF).hif.devInt = 0)
    ∧ (∀ reason, h.master ≠ .safety → executes s t h (infoSafeStateRequest reason) = true →
      let x := begun s t h (.safeStateRequest t h reason) (infoSafeStateRequest reason)
      x.life.phase = .ready → x.safety.seq = false →
      ∃ z : State, exec (.safeStateRequest t h reason) s = .next z ∧ z.safety.seq = true ∧ z.safety.cause = 2
        ∧ z.safety.ownerCmd = some s.nextCmd ∧ z.life.phase = .resetPending ∧ z.life.kind = .safeState
        ∧ z.life.ready = false ∧ z.life.seqAt = x.now)
    ∧ (∀ reason, h.master = .safety → spells h 0x0600 (infoSafeStateRequest reason).fields = true →
      reservedSet h (infoSafeStateRequest reason).fields = false → portTakes s t = true →
      (s.advance t).life.phase = .ready → (s.advance t).safety.seq = false →
      ∃ z : State, exec (.safeStateRequest t h reason) s = .next z ∧ z.safety.seq = true ∧ z.safety.cause = 1
        ∧ z.life.phase = .resetPending ∧ z.safePort.executing = none ∧ z.safePort.response.isSome = true)
    ∧ (h.master = .sideband → spells h 0x0802 [] = true → reservedSet h [] = false → (s.advance t).isStopped = true →
      (s.advance t).restartable = true →
      ∃ z : State, exec (.deviceReset t h) s = .next z ∧ z.life.phase = .inReset ∧ z.life.kind = .deviceReset
        ∧ z.life.epoch = ((s.advance t).life.epoch + 1) % 256 ∧ z.owner.owner = 3 ∧ z.inflight = [])

/-- Where it executes, INJECT on a detector that is not armed arms it with COUNT; INJECT_TIMEOUT 2 s after that
disarms it and completes the command with the occurrences fired, and does nothing before. EVENT_MIRROR with enable 1
and an aligned ADDR sets the mirror and writes every entry that the log holds; with an ADDR that is not 4 KiB-aligned
it fails with ST_INVALID_PARAM; with enable 0 it clears the mirror. (R356, R365, R368) -/
def Obligations.InjectAndMirrorAct : Prop :=
  ∀ (s : State) (t : Nat) (h : Hdr),
    (∀ d n, executes s t h (infoInject d n) = true →
      let x := begun s t h (.inject t h d n) (infoInject d n)
      x.armedAt d = none →
      ∃ z : State, exec (.inject t h d n) s = .next z
        ∧ z.armedAt d = some { left := n, fired := 0, cmd := s.nextCmd, since := x.now })
    ∧ (∀ d a, (s.advance t).armedAt d = some a →
      (a.since + 5000000000 ≤ (s.advance t).now →
        exec (.injectTimeout t d) s =
          .next ((({ s.advance t with armed := tput none (s.advance t).armed d none } : State)).finish a.cmd stSuccess
            (resultOf [(12, leBytes 1 a.fired)])))
      ∧ ((s.advance t).now < a.since + 5000000000 → exec (.injectTimeout t d) s = .next (s.advance t)))
    ∧ (∀ addr, (executes s t h (infoEventMirror addr true) = true →
      let x := begun s t h (.eventMirror t h addr true) (infoEventMirror addr true);
        (addr % 4096 = 0 → ∃ z : State, exec (.eventMirror t h addr true) s = .next (z.finish s.nextCmd stSuccess [])
          ∧ z.log.mirrorEn = true ∧ z.log.mirrorBase = addr)
        ∧ (addr % 4096 ≠ 0 → exec (.eventMirror t h addr true) s = .next (x.failCmd s.nextCmd stInvalidParam)))
      ∧ (executes s t h (infoEventMirror addr false) = true →
        let x := begun s t h (.eventMirror t h addr false) (infoEventMirror addr false);
        exec (.eventMirror t h addr false) s =
          .next (({ x with log := { x.log with mirrorEn := false } } : State).finish s.nextCmd stSuccess [])))

/-- An access takes place at the start of a CTRL cycle, before that cycle's events, which is the model's reading
(notes/assumptions/59.md). Where the registers cannot be reached it does nothing; one that is not of an aligned 32-bit
word reads 0 or is ignored, and so does one over a link that is up while the control domain is in reset. REG_WRITE
writes its words in order and completes with ST_SUCCESS. A write by a master that is not the owner to a register
outside the PCIe host's own changes nothing; the owner's write of SVC_CTRL sets each of its two fields that is in
range; of SAFE_CFG word 0 AUTO_SAFE and a DEGRADE_LIMIT_MS other than 0; the PCIe host's write of the base of a ring
that is not enabled sets it, owner or not. A read of a counter gives its value, holds in progress counted, and clears
it for the owner alone; a read of the LO word of a pair gives it and latches the HI word for that master. (R7, R56,
R272, R273, R406, R407, R408, R416) -/
def Obligations.RegisterAccesses : Prop :=
  ∀ (s : State) (t : Nat), let x := s.atCtrl t
    (∀ h bar count offset data, executes s t h (infoRegWrite bar count offset data) = true →
      let x := begun s t h (.regWrite t h bar count offset data) (infoRegWrite bar count offset data)
      exec (.regWrite t h bar count offset data) s =
        .next ((x.writeWords h.master bar offset (data.take count)).finish s.nextCmd stSuccess []))
    ∧ (∀ m bar offset size v,
      ((x.regReach m = false ∨ size ≠ 4 ∨ offset % 4 ≠ 0) → exec (.registerWrite t m bar offset v size) s = .next x)
      ∧ (x.readReach m = false →
        exec (.readClear t m bar offset size) s = .next x ∧ exec (.pairLoRead t m bar offset size) s = .next x)
      ∧ (x.readReach m = true → (x.controlUp = false ∨ size ≠ 4 ∨ offset % 4 ≠ 0) →
        exec (.readClear t m bar offset size) s = .next (x.emit (.regData m bar offset 0))
        ∧ exec (.pairLoRead t m bar offset size) s = .next (x.emit (.regData m bar offset 0))))
    ∧ (∀ m offset v, x.owner.owner ≠ Master.num m → x.writeHost 0 offset v.toNat = none →
        exec (.registerWrite t m 0 offset v) s = .next x)
    ∧ (∀ m v, x.regReach m = true → x.owner.owner = Master.num m →
        exec (.registerWrite t m 0 0x200000 v) s = .next { x with cfg := { x.cfg with
          headroom := if bits v.toNat 0 7 ≤ 100 then bits v.toNat 0 7 else x.cfg.headroom
          holdReserve := if bits v.toNat 16 9 ≤ 500 then bits v.toNat 16 9 else x.cfg.holdReserve } }
        ∧ ∃ z : State, exec (.registerWrite t m 0 0x2C0C00 v) s = .next z ∧ z.cfg = { x.cfg with
          autoSafe := bit v.toNat 0
          degradeLimit := if bits v.toNat 16 16 = 0 then x.cfg.degradeLimit else bits v.toNat 16 16 })
    ∧ (∀ n v, n < 64 → x.regReach .pcie = true → (x.sqr n).en = false →
        exec (.registerWrite t .pcie 0 (0x2A0000 + 32 * n) v) s = .next (x.setSq n { x.sqr n with
          base := 2 ^ 32 * ((x.sqr n).base / 2 ^ 32) + 4096 * (v.toNat / 4096) }))
    ∧ (∀ m off, let y := x.upToDate
      x.regReach m = true → off % 4 = 0 → y.bar0 off = .counter →
        exec (.readClear t m 0 off 4) s = .next
          ((if y.owner.owner = Master.num m then y.setCtr off 0 else y).emit
            (.regData m 0 off (BitVec.ofNat 32 (y.ctrAt off % 2 ^ 32)))))
    ∧ (∀ m off v, let y := x.upToDate
      x.regReach m = true → off % 4 = 0 → y.bar0 off = .lo v →
        exec (.pairLoRead t m 0 off 4) s = .next
          (({ y with latches := tput 0 y.latches (latchKey m off) (v / 2 ^ 32 % 2 ^ 32) } : State).emit
            (.regData m 0 off (BitVec.ofNat 32 (v % 2 ^ 32)))))

/-- With the link up, the function not in D3hot and the control domain out of reset: a legal tail on an enabled
submission ring becomes its tail; a legal head on an enabled completion ring becomes its head, and the backlog is
posted as far as there is room; an illegal one, or any while the doorbell detector is armed, sets ERROR, disables the
ring, and is counted and logged. A tail is legal when it is below the ring's size and the new entries fit without
filling the ring past full; a head when it lies between the old head and the device's tail. A write to a ring that is
not enabled is ignored; where the registers cannot be reached so is any. (R275, R278, R366, Table 16-7) -/
def Obligations.DoorbellsMoveTheirRings : Prop :=
  ∀ (s : State) (t n v : Nat), let x := s.atCtrl t
    (x.pcieUp = false → exec (.sqTail t n v) s = .next x ∧ exec (.cqHead t n v) s = .next x)
    ∧ (x.pcieUp = true → n < 64 →
    let y := (x.fireArmed (devDetector 106)).2
    let fired := (x.fireArmed (devDetector 106)).1
    (let r := x.sqr n
      let w := v % 4096
      let legal := w < 2 ^ r.log2
        ∧ (r.tail + 2 ^ r.log2 - r.head) % 2 ^ r.log2 + (w + 2 ^ r.log2 - r.tail) % 2 ^ r.log2 < 2 ^ r.log2
      (r.en = false → exec (.sqTail t n v) s = .next x)
      ∧ (r.en = true → legal → fired = false → exec (.sqTail t n v) s = .next (y.setSq n { r with tail := w }))
      ∧ (r.en = true → ¬ legal →
        exec (.sqTail t n v) s = .next ((y.setSq n { r with error := true, en := false }).doorbellError n false))
      ∧ (r.en = true → legal → fired = true →
        exec (.sqTail t n v) s = .next ((y.setSq n { r with error := true, en := false }).doorbellError n true)))
    ∧ (let r := x.cqr n
      let w := v % 4096
      let legal := w < 2 ^ r.log2
        ∧ (w + 2 ^ r.log2 - r.head) % 2 ^ r.log2 ≤ (r.tail + 2 ^ r.log2 - r.head) % 2 ^ r.log2
      (r.en = false → exec (.cqHead t n v) s = .next x)
      ∧ (r.en = true → legal → fired = false → exec (.cqHead t n v) s =
        .next (State.postBacklog n (r.backlog.length + 1) (y.setCq n { r with head := w })))
      ∧ (r.en = true → ¬ legal →
        exec (.cqHead t n v) s = .next ((y.setCq n { r with error := true, en := false }).doorbellError n false))
      ∧ (r.en = true → legal → fired = true →
        exec (.cqHead t n v) s = .next ((y.setCq n { r with error := true, en := false }).doorbellError n true))))

/-- With the link up, the function not in D3hot and the control domain out of reset: enabling a submission ring whose
write names an enabled completion ring takes LOG2_SIZE and CQ from the write and sets head and tail to 0; otherwise
the write is ignored. Disabling an enabled submission ring clears EN alone; on one that is not enabled the write sets
LOG2_SIZE and CQ. Enabling a completion ring sets head and tail to 0 and the phase to 1, and posts its backlog; on an
enabled one the write sets VECTOR, IEN and OVERFLOW. Disabling a completion ring is ignored while an enabled
submission ring is bound to it. COAL_US after the first entry without a message, a message is sent, and none before.
(R271, R276, R278, R279) -/
def Obligations.RingsEnableAndDisable : Prop :=
  ∀ (s : State) (t n : Nat), n < 64 →
    (let x := s.atCtrl t
    x.pcieUp = true →
    (∀ v : Reg, (x.sqr n).en = false → (x.cqr (bits v.toNat 5 6)).en = true →
      exec (.ringSqEnable t n v) s = .next (x.setSq n { x.sqr n with
        en := true, error := false, log2 := newLog2 (x.sqr n).log2 (bits v.toNat 1 4), cq := bits v.toNat 5 6
        head := 0, tail := 0 }))
    ∧ (∀ v : Reg, ((x.sqr n).en = true ∨ (x.cqr (bits v.toNat 5 6)).en = false) →
      exec (.ringSqEnable t n v) s = .next x)
    ∧ (∀ v : Reg, (x.sqr n).en = true → exec (.ringSqDisable t n v) s = .next (x.setSq n { x.sqr n with en := false }))
    ∧ (∀ v : Reg, (x.sqr n).en = false → exec (.ringSqDisable t n v) s = .next (x.setSq n { x.sqr n with
        log2 := newLog2 (x.sqr n).log2 (bits v.toNat 1 4), cq := bits v.toNat 5 6 }))
    ∧ (∀ v : Reg, (x.cqr n).en = false →
      exec (.ringCqEnable t n v) s = .next (State.postBacklog n ((x.cqr n).backlog.length + 1)
        (x.setCq n { x.cqr n with
          log2 := newLog2 (x.cqr n).log2 (bits v.toNat 1 4), vector := bits v.toNat 5 8, ien := bit v.toNat 13
          overflow := (x.cqr n).overflow && !bit v.toNat 14, en := true, error := false, head := 0, tail := 0
          phase := true, unsignalled := 0, firstAt := 0 })))
    ∧ (∀ v : Reg, (x.cqr n).en = true → exec (.ringCqEnable t n v) s = .next (x.setCq n { x.cqr n with
        vector := bits v.toNat 5 8, ien := bit v.toNat 13, overflow := (x.cqr n).overflow && !bit v.toNat 14 }))
    ∧ (∀ v : Reg, ∃ z : State, exec (.ringCqDisable t n v) s = .next z
        ∧ (z.cqr n).en = ((x.cqr n).en && (List.range 64).any fun k => (x.sqr k).en && (x.sqr k).cq == n)))
    ∧ (let x := s.advance t
    let due : Prop := (x.cqr n).en = true ∧ (x.cqr n).ien = true ∧ (x.cqr n).coalUs ≠ 0 ∧ (x.cqr n).unsignalled ≠ 0
      ∧ (x.cqr n).firstAt + 2500 * (x.cqr n).coalUs ≤ x.now
    (due → exec (.coalesceTimeout t n) s = .next ((x.setCq n { x.cqr n with unsignalled := 0 }).sendMsi (x.cqr n).vector))
    ∧ (¬ due → exec (.coalesceTimeout t n) s = .next x))

/-- A link that trains while the control domain is out of reset and PERST_N is high is up with its speed, width and
FLIT mode, at 64 GT/s in FLIT mode alone. A link that falls disables every ring and is counted. A function-level reset
disables every ring, drops the backlogs and clears MSI-X table, pending bits and DEV_INT enables. A low PERST_N does
both and is remembered; a high one is. A configuration request is answered with Retry until 100 ms after P, and served
from then on: a read with the word, where the spec gives it one, a power state taken over. (R269, R271, R377, R400,
R409, R411, Table 12-2) -/
def Obligations.LinkAndFunctionEvents : Prop :=
  ∀ (s : State) (t : Nat), let x := s.advance t
    (∀ speed width flit, x.controlUp = true → x.life.perstN = true →
      (speed ≠ 6 ∨ flit = true →
        exec (.linkUp t speed width flit) s = .next { x with hif := { x.hif with linkUp := true, speed, width, flit } })
      ∧ (speed = 6 → flit = false → exec (.linkUp t speed width flit) s = .next x))
    ∧ (x.hif.linkUp = true → ∃ z : State, exec (.linkDown t) s = .next z ∧ z.hif.linkUp = false
        ∧ (∀ n, n < 64 → (z.sqr n).en = false ∧ (z.cqr n).en = false ∧ (z.cqr n).backlog = (x.cqr n).backlog)
        ∧ z.ctrAt linkDowns = min 0xFFFFFFFF (x.ctrAt linkDowns + 1))
    ∧ (x.hif.linkUp = true → ∃ z : State, exec (.functionLevelReset t) s = .next z ∧ z.hif.linkUp = true
        ∧ (∀ n, n < 64 → (z.sqr n).en = false ∧ (z.cqr n).en = false ∧ (z.cqr n).backlog = [])
        ∧ z.hif.msix = [] ∧ z.hif.pba = [] ∧ z.hif.devIntEn = 0)
    ∧ (x.standbyUp = true → x.life.perstN = true → ∃ z : State, exec (.perstNLow t) s = .next z ∧ z.life.perstN = false
        ∧ z.hif.linkUp = false ∧ ∀ n, n < 64 → (z.sqr n).en = false ∧ (z.cqr n).en = false)
    ∧ exec (.perstNHigh t) s = .next { x with life := { x.life with perstN := true } }
    ∧ (x.hif.linkUp = true →
      (∀ req, x.now < x.life.pupAt + 250000000 → exec (.configurationRequest t req) s = .next (x.emit .configRetry))
      ∧ (x.life.pupAt + 250000000 ≤ x.now →
        (∀ w, exec (.configurationRequest t (.read w)) s =
          .next (x.emit (.configDone ((configWord w).map fun v => BitVec.ofNat 32 v))))
        ∧ (∀ d, exec (.configurationRequest t (.power d)) s =
          .next (({ x with hif := { x.hif with d3hot := d } } : State).emit (.configDone none)))
        ∧ exec (.configurationRequest t .other) s = .next (x.emit (.configDone none))))
    ∧ (x.hif.linkUp = false → ∀ req, exec (.configurationRequest t req) s = .next x)

/-- A W1C write by the PCIe host clears the causes written, but those whose event falls in the same CTRL cycle end
set; causes whose events fall then are set in any case, and the sideband's write clears none. A write to DEV_INT_EN by
the PCIe host sets it. Clearing the mask of a vector whose message is pending, with the function not masked, sends it
and clears its pending bit. (R7, R411, R412) -/
def Obligations.DeviceInterrupts : Prop :=
  ∀ (s : State) (t : Nat), let x := s.atCtrl t
    (∀ (v : Reg) (event : BitVec 12), x.pcieUp = true →
      ∃ z : State, exec (.devIntClear t .pcie v event) s = .next z
        ∧ z.hif.devInt = (x.hif.devInt &&& ~~~(v.setWidth 12)) ||| event)
    ∧ (∀ (v : Reg) (event : BitVec 12), x.controlUp = true →
      ∃ z : State, exec (.devIntClear t .sideband v event) s = .next z ∧ z.hif.devInt = x.hif.devInt ||| event)
    ∧ (∀ v : Reg, x.pcieUp = true → ∃ z : State, exec (.devIntEnWrite t .pcie v) s = .next z ∧ z.hif.devIntEn = v.setWidth 12)
    ∧ (∀ n, n < 256 → x.pcieUp = true → x.hif.functionMasked = false → n ∈ x.hif.pba →
      ∃ z : State, exec (.msixUnmask t n) s = .next z ∧ .msix n ∈ z.outs ∧ n ∉ z.hif.pba)

/-- For a write by the owner, which reaches the registers, to a port that Vigil does not tap: PORT_CFG reads as
written when EN was 0 or nothing but EN and RAMP_MS changes, the format is I2S or left-justified with 2 slots or TDM,
SB is at most W, the bit clock is at most 49,152,000 Hz, RATE is a code of Table 2-3, and the write leaves EN at 1 or
no stream is bound to the port. Any other write changes nothing but PORT_STAT.CFG_REJECT, which it sets. (R244) -/
def Obligations.PortCfgWrite : Prop :=
  ∀ (s : State) (t : Nat) (m : Master) (p : Nat) (v : Reg), let x := s.atCtrl t
    let r := x.prt p
    let n := r.withCfg v.toNat
    let fits : Prop := (r.en = false ∨ r.sameFormat n = true)
      ∧ ((n.format < 2 ∧ n.slotCount = 2) ∨ (n.format = 2 ∧ 1 ≤ n.slotCount ∧ n.slotCount ≤ 32))
      ∧ n.slotBits < 3 ∧ n.sampleBits ≤ n.slotBits
      ∧ n.hz * n.slotCount * bitsOfCode n.slotBits ≤ 49152000
      ∧ n.rate < 13 ∧ (n.en = true ∨ x.boundStreams p = [])
    x.regReach m = true → x.ownerWrites m = true → r.tapped = false →
    (fits → ∃ z : State, exec (.portCfgWrite t m p v) s = .next z ∧ (z.prt p).cfg = v.toNat % 2 ^ 24
      ∧ (z.prt p).cfgReject = r.cfgReject)
    ∧ (¬ fits → exec (.portCfgWrite t m p v) s = .next (x.setPrt p { r with cfgReject := true }))

/-- An owner's write to RX_MASK or TX_MASK of a port whose data path is neither in reset nor off stores the word, and
so it does on a port that Vigil taps. An owner's write to MEMBERS stores its 16 bits if the group is IDLE and no port
of it belongs to another group, and is ignored otherwise. A write by a master that is not the owner, or that does not
reach the registers, changes nothing. (R247, R262, R263, R267, R273, R362) -/
def Obligations.MasksAndMembers : Prop :=
  ∀ (s : State) (t : Nat) (m : Master) (p e : Nat) (v : Reg), let x := s.atCtrl t
    let writes : Prop := x.regReach m = true ∧ x.ownerWrites m = true
    let w : BitVec 16 := BitVec.ofNat 16 v.toNat
    let free : Prop := (x.eqxOf e).st = 0 ∧ ∀ o, o < 4 → o ≠ e → (x.eqxOf o).members &&& w = 0
    (writes → (x.prt p).takesWrites = false →
      exec (.rxMaskWrite t m p v) s = .next x ∧ exec (.txMaskWrite t m p v) s = .next x)
    ∧ (writes → (x.prt p).takesWrites = true →
      exec (.rxMaskWrite t m p v) s = .next (x.setPrt p { x.prt p with rxMask := v })
      ∧ exec (.txMaskWrite t m p v) s = .next (x.setPrt p { x.prt p with txMask := v }))
    ∧ (writes → free →
      exec (.membersWrite t m e v) s = .next (x.setEqx e { x.eqxOf e with members := w }))
    ∧ (writes → ¬ free → exec (.membersWrite t m e v) s = .next x)
    ∧ (¬ writes → exec (.rxMaskWrite t m p v) s = .next x ∧ exec (.txMaskWrite t m p v) s = .next x
      ∧ exec (.membersWrite t m e v) s = .next x)

/-- ARM moves an IDLE group whose members are all enabled at one rate to ARMED, and its master members hold their
clocks; else ARM_REJECT sets. FIRE in ARMED fixes the trigger cycle: TRIG_AT if it is at least 625 above the counter,
the counter plus 625 if TRIG_AT is 0; every member waits for its frame 0 from there; else ARM_REJECT sets. DISARM
returns the group to IDLE and touches no port of a group that was not FIRED. Masters restart within 2 frame periods of
ARM. At the trigger cycle a FIRED group is RUNNING, and its master members count their frames from that cycle; at no
other does it change. At the end of a window of a RUNNING group each member's offsets are its drifts less those of the
lowest member. (R263, R264, R265, Table 11-8) -/
def Obligations.EquinoxCommands : Prop :=
  (∀ (s : State) (t : Nat) (m : Master) (e : Nat), let x := s.atCtrl t
    let q := x.eqxOf e
    let alike : Prop := q.st = 0 ∧ ∀ p ∈ q.ports, (x.prt p).en = true ∧ (x.prt p).rate = (x.prt (q.ports.headD 0)).rate
    let trig := q.trigLo.toNat + 2 ^ 32 * q.trigHi.toNat
    let timely : Prop := q.st = 1 ∧ (trig = 0 ∨ x.ctrl + 625 ≤ trig)
    (x.regReach m = true → x.ownerWrites m = true →
      (alike → ∃ z : State, exec (.arm t m e) s = .next z ∧ (z.eqxOf e).st = 1 ∧ (z.eqxOf e).armedAt = x.ctrl
        ∧ ∀ p ∈ q.ports, (z.prt p).clockHeld = (x.prt p).master)
      ∧ (¬ alike → exec (.arm t m e) s = .next (x.setEqx e { q with reject := true }))
      ∧ (timely → ∃ z : State, exec (.fire t m e) s = .next z ∧ (z.eqxOf e).st = 2
        ∧ (z.eqxOf e).t = (if trig = 0 then x.ctrl + 625 else trig)
        ∧ ∀ p ∈ q.ports, (z.prt p).frame0At = some (if trig = 0 then x.ctrl + 625 else trig))
      ∧ (¬ timely → exec (.fire t m e) s = .next (x.setEqx e { q with reject := true }))
      ∧ ∃ z : State, exec (.disarm t m e) s = .next z ∧ (z.eqxOf e).st = 0
        ∧ (q.st ≠ 2 → ∀ p, z.prt p = x.prt p) ∧ (q.st = 2 → ∀ p ∈ q.ports, (z.prt p).frame0At = none))
    ∧ ((x.regReach m = false ∨ x.ownerWrites m = false) →
      exec (.arm t m e) s = .next x ∧ exec (.fire t m e) s = .next x ∧ exec (.disarm t m e) s = .next x))
  ∧ ∀ (s : State) (t e : Nat), let x := s.advance t
    let q := x.eqxOf e
    (∃ z : State, exec (.equinoxMasterRestart t e) s = .next z ∧ ∀ p ∈ q.ports, (x.prt p).master = true →
      (z.prt p).clockHeld = ((x.prt p).clockHeld && decide (2 * 625000000 < (x.ctrl - q.armedAt) * (x.prt p).hz)))
    ∧ (x.controlUp = true → q.st = 2 → x.ctrl = q.t → ∃ z : State, exec (.equinoxTrigger t e) s = .next z
      ∧ (z.eqxOf e).st = 3 ∧ ∀ p ∈ q.ports, z.prt p =
        if (x.prt p).master then { x.prt p with clockHeld := false, clock := some x.now } else x.prt p)
    ∧ (¬ (x.controlUp = true ∧ q.st = 2 ∧ x.ctrl = q.t) → exec (.equinoxTrigger t e) s = .next x)
    ∧ (x.controlUp = true → q.st = 3 → x.ctrl % 625000000 = 0 →
      ∃ z : State, exec (.eqxOffsetWindow t e) s = .next z ∧ ∀ p ∈ q.ports,
        (z.prt p).eqxRx = satI32 ((x.prt p).driftRx - (x.prt (q.ports.headD 0)).driftRx)
        ∧ (z.prt p).eqxTx = satI32 ((x.prt p).driftTx - (x.prt (q.ports.headD 0)).driftTx))

/-- A response transaction answers with its code byte, the 32-byte entry if one waits and zeros otherwise, and their
CRC-32C; an entry that has been returned waits no longer. A transaction with a bad CRC is remembered as such; one that
comes while the port is busy is remembered as refused. (R282, R283, Table 12-4) -/
def Obligations.SafetyPortAnswers : Prop :=
  ∀ (s : State) (t : Nat), let x := s.advance t
    let p := x.safePort
    x.standbyUp = true →
    (∀ e : List Byte, p.response = some e →
      exec (.safetyPortResponse t) s = .next { x with
        safePort := { p with response := none, refused := false }
        outs := [.safetyPort (leBytes 1 (if p.refused then 3 else 1) ++ pad 32 e
          ++ leBytes 4 (crc32c (leBytes 1 (if p.refused then 3 else 1) ++ pad 32 e)))] })
    ∧ (p.response = none →
      let code := if p.executing.isSome then 4 else if p.crcError then 2 else 0
      exec (.safetyPortResponse t) s = .next { x with
        outs := [.safetyPort (leBytes 1 code ++ pad 32 [] ++ leBytes 4 (crc32c (leBytes 1 code ++ pad 32 [])))] })
    ∧ exec (.safetyPortCommandRejected t true) s = .next { x with safePort := { p with crcError := true } }
    ∧ ((p.executing.isSome || p.response.isSome) = true →
      exec (.safetyPortCommandRejected t false) s = .next { x with safePort := { p with refused := true } })

/-- Power-up of a device that is off begins the sequence at P with every register at reset and the journal kept; the
lock of the root loop then is the model's (notes/assumptions/32.md), and after a stop it begins only once the device
is cool (notes/assumptions/63.md). A Vigil slot that verifies is run, the pending one first, and its ports are tapped;
if neither verifies, none is. The boot ROM runs the marked slot if it verifies and arms the watchdogs; if no slot
verifies it enters recovery. (R247, R329, R371, R378, R382, R383, Table 17-3) -/
def Obligations.PowerUpAndBoot : Prop :=
  ∀ (s : State) (t : Nat), let x := s.advance t
    (x.life.phase = .off → x.life.stopOpen = true → x.cool = false → exec (.powerUp t) s = .next x)
    ∧ (x.life.phase = .off → (x.life.stopOpen = false ∨ x.cool = true) → ∃ z : State, exec (.powerUp t) s = .next z
      ∧ z.life.phase = .powerUp ∧ z.life.pupAt = x.now ∧ z.life.ready = false ∧ z.life.rootLocked = true
      ∧ z.owner = State.reset.owner ∧ z.streams = [] ∧ z.images = [] ∧ z.mem = [] ∧ z.ports = [] ∧ z.power.capSet = 850
      ∧ z.repair.journal = x.repair.journal ∧ z.repair.powerUps = x.repair.powerUps + 1 ∧ z.spillKey.length = 64)
    ∧ (∀ a b, x.life.phase = .powerUp → x.vigil.imageValid = false →
      let first := if x.boot.vigilPending then !x.boot.vigilSlotB else x.boot.vigilSlotB
      (∀ p, x.vigilOk first (if first then b else a) = true → x.boot.vigil first = some p →
        ∃ z : State, exec (.vigilImageVerify t a b) s = .next z ∧ z.vigil.running = true ∧ z.vigil.imageValid = true
          ∧ z.vigil.image = p.image ∧ z.boot.vigilSlotB = first ∧ z.boot.vigilPending = false
          ∧ ∀ e ∈ p.image.ports, (z.prt e.1).tapped = true)
      ∧ (x.vigilOk first (if first then b else a) = false → x.vigilOk (!first) (if first then a else b) = false →
        exec (.vigilImageVerify t a b) s = .next x))
    ∧ (∀ a b, x.life.phase = .powerUp →
      ((if x.boot.markedB then b else a) = true → x.boot.fwOk x.boot.markedB = true →
        ∃ z : State, exec (.firmwareBoot t a b) s = .next z ∧ z.life.phase = .booted ∧ z.life.armed = true
          ∧ z.life.ctrlBase = x.now ∧ z.boot.running = b2n x.boot.markedB)
      ∧ ((a && x.boot.fwOk false) = false → (b && x.boot.fwOk true) = false →
        ∃ z : State, exec (.firmwareBoot t a b) s = .next z ∧ z.life.phase = .recovery ∧ z.life.armed = false
          ∧ z.boot.running = 3))

/-- When the groups leave reset after the boot, every channel with a KIND 5 record is RETIRED and every other one is
in use, and the start-up injection runs. If it then finds no latent fault, the service is not out for START_FAIL and
the start is a power-up, the device becomes ready. (R236, R240, R358, R366, R367, R410, Table 17-3) -/
def Obligations.StartEvents : Prop :=
  ∀ (s : State) (t : Nat), let x := s.advance t
    (x.life.phase = .booted → ∃ z : State, exec (.groupsLeaveReset t) s = .next z ∧ z.life.phase = .injecting
      ∧ ∀ c, c < 48 → (z.memCh c).st = if (channelRecords x.allRecords 5 c).isEmpty then 0 else 2)
    ∧ (x.life.phase = .injecting → x.repair.startFail = false → x.life.kind = .powerUp →
      ∃ z : State, exec (.startupInjectionEnd t []) s = .next z ∧ z.isReady = true ∧ z.repair.latentFaults = 0)

/-- A reset that is pending abandons its runs at the 1 ms entry; the 2 ms entry resets the domains and raises EPOCH by
1, and LPDDR6 keeps its contents only in a safe-state sequence. The 320 ms entry writes the settings of the safety set
back, the 380 ms entry ends with the set consumed, and the 400 ms entry ends the sequence, counts it and makes the
device ready. A watchdog that expires while armed is counted; in a ready device it and the owner's degrade limit begin
a safe-state sequence with causes 3 and 4. (R336, R344, R345, R346, R347, R348, R369, R379, R380, Table 15-7, Table
15-8, Table 17-4) -/
def Obligations.SafeStateEvents : Prop :=
  ∀ (s : State) (t : Nat), let x := s.advance t
    let started (z : State) (cause : Nat) : Prop := z.life.phase = .resetPending ∧ z.life.kind = .safeState
      ∧ z.life.ready = false ∧ z.life.seqAt = x.now ∧ z.safety.seq = true ∧ z.safety.cause = cause
      ∧ z.safety.set.isSome = true
    (x.life.phase = .resetPending → ∃ z : State, exec (.abandonRuns t) s = .next z ∧ z.life.phase = .abandoned
      ∧ z.life.kind = x.life.kind ∧ (x.life.kind = .safeState → z.safety.ownerCmd = none))
    ∧ (x.life.phase = .abandoned → ∃ z : State, exec (.domainReset t) s = .next z ∧ z.life.phase = .inReset
      ∧ z.life.epoch = (x.life.epoch + 1) % 256 ∧ z.life.ready = false ∧ z.owner = State.reset.owner
      ∧ z.streams = [] ∧ z.images = [] ∧ z.inflight = []
      ∧ z.mem = (if x.life.kind = .safeState then x.mem else []))
    ∧ (∀ l : List Nat, x.life.phase = .hashing → ∃ z : State, exec (.imageHashCheck t l) s = .next z
      ∧ z.life.phase = .reopening ∧ ∀ y : SafetySet, x.safety.set = some y → z.cfg = y.cfg)
    ∧ (x.life.phase = .reopening → ∃ z : State, exec (.sStreamReopen t) s = .next z ∧ z.life.phase = .resuming
      ∧ z.safety.set = none)
    ∧ (x.life.phase = .resuming → x.repair.startFail = false → ∃ z : State, exec (.resumption t) s = .next z
      ∧ z.isReady = true ∧ z.safety.seq = false ∧ z.safety.lastCause = x.safety.cause
      ∧ z.safety.safeStates = min 0xFFFFFFFF (x.safety.safeStates + 1))
    ∧ (∀ core, x.life.armed = true → ∃ z : State, exec (.watchdogExpiry t core) s = .next z
      ∧ z.repair.watchdogExpiries = x.repair.watchdogExpiries + 1
      ∧ (x.isReady = true → x.safety.seq = false → started z 3))
    ∧ (x.isReady = true → x.safety.seq = false → x.degradeDue = true →
      ∃ z : State, exec (.autoDegrade t) s = .next z ∧ started z 4)

/-- A loss of root lock in a working device moves Vigil and the port edge to REFCLK, raises a clock fault of source 0,
and declares a stop with cause ROOT_LOCK; a relock sets ROOT_LOCKED. A loss of REFCLK stops Vigil and its heartbeat
too, raises a clock fault of source 1, and the stop's clocks are gated at once. When REFCLK returns, its count goes on
where it stood, and Vigil runs if its image is valid. A COOLANT_OK that has been low for 50 µs declares a stop with
cause COOLANT; a shorter pulse is counted and restarts the time that it has been high; its return is noted. Ten REFCLK
cycles after the declaration the clocks are gated, and 90,000 after it the stop is complete: what the main domains and
LPDDR6 held is gone. (R17, R19, R20, R323, R324, Table 14-5) -/
def Obligations.ClocksCoolantAndStop : Prop :=
  ∀ (s : State) (t : Nat), let x := s.advance t
    (x.life.phase ≠ .off →
    (x.life.rootLocked = true → ∃ z : State, exec (.rootLockLoss t) s = .next z
      ∧ z.life.rootLocked = false ∧ z.life.onRefclk = true ∧ .clockFault 0 ∈ z.outs
      ∧ (x.standbyUp = true → x.isStopped = false → z.life.stopCause = 3 ∧ z.life.ready = false ∧ z.life.stopAt = x.now
        ∧ z.life.phase = (if x.controlUp then .stopDeclared else .stopGated)))
    ∧ (x.life.refclk = true → exec (.rootRelock t) s = .next { x with life := { x.life with rootLocked := true } })
    ∧ (x.life.refclk = true → ∃ z : State, exec (.refclkLoss t) s = .next z
      ∧ z.life.refclk = false ∧ z.life.rootLocked = false ∧ z.vigil.running = false ∧ z.vigil.heartbeatOn = false
      ∧ .clockFault 1 ∈ z.outs
      ∧ (x.standbyUp = true → x.isStopped = false → z.life.stopCause = 3 ∧ z.life.phase = .stopGated))
    ∧ (x.life.refclk = false → ∃ z : State, exec (.refclkReturn t) s = .next z
      ∧ z.life.refclk = true ∧ z.vigil.running = x.vigil.imageValid
      ∧ (x.life.pupAt ≤ x.life.refclkAt → x.life.refclkAt ≤ x.now → z.refclk = x.refclk)))
    ∧ (x.life.coolantOk = true → ∃ z : State, exec (.coolantLoss t) s = .next z
      ∧ z.life.coolantOk = false ∧ z.life.coolantSince = x.now
      ∧ (x.standbyUp = true → x.isStopped = false → x.life.phase ≠ .off →
        z.life.stopCause = 1 ∧ z.life.ready = false ∧ z.life.stopAt = x.now
        ∧ z.life.phase = (if x.controlUp then .stopDeclared else .stopGated)))
    ∧ (x.life.coolantOk = true → x.controlUp = true → ∃ z : State, exec (.coolantGlitch t) s = .next z
      ∧ z.life = { x.life with coolantSince := x.now }
      ∧ z.ctrAt coolantGlitches = min 0xFFFFFFFF (x.ctrAt coolantGlitches + 1))
    ∧ (x.life.coolantOk = false → exec (.coolantRestored t) s =
      .next { x with life := { x.life with coolantOk := true, coolantSince := x.now } })
    ∧ (x.life.phase = .stopDeclared → x.life.stopAt + 25 * 10 ≤ x.now →
      exec (.stopClockGate t) s = .next { x with life := { x.life with phase := .stopGated } })
    ∧ (x.life.phase = .stopGated → x.life.stopAt + 25 * 90000 ≤ x.now → ∃ z : State, exec (.stopComplete t) s = .next z
      ∧ z.life.phase = .stopped ∧ z.mem = [] ∧ z.streams = [] ∧ z.images = [] ∧ z.groups = [] ∧ z.clusters = []
      ∧ z.owner = State.reset.owner ∧ z.inflight = [] ∧ z.log = x.log ∧ z.keys = x.keys)

/-- Without VIN_48 the device is off: LPDDR6, groups, streams and images are gone, and the standby domain keeps the
event log and the key slots. Without VSTBY these are gone too. Flash keeps the journal, the firmware slots and the
enrolled key in both. (R354, R387, R398) -/
def Obligations.SupplyLoss : Prop :=
  ∀ (s : State) (t : Nat), let x := s.advance t
    (x.life.vin48 = true → ∃ z : State, exec (.vin48Loss t) s = .next z ∧ z.life.phase = .off ∧ z.life.vin48 = false
      ∧ z.life.ready = false ∧ z.mem = [] ∧ z.groups = [] ∧ z.streams = [] ∧ z.images = [] ∧ z.ports = []
      ∧ z.log = x.log ∧ z.keys = x.keys ∧ z.repair.journal = x.repair.journal ∧ z.boot.fwA = x.boot.fwA
      ∧ z.boot.fwB = x.boot.fwB)
    ∧ (x.life.vstby = true → ∃ z : State, exec (.vstbyLoss t) s = .next z ∧ z.life.phase = .off ∧ z.life.vstby = false
      ∧ z.mem = [] ∧ z.groups = [] ∧ z.log = {} ∧ z.keys = [] ∧ z.spillKey = []
      ∧ z.repair.journal = x.repair.journal ∧ z.boot.fwA = x.boot.fwA ∧ z.boot.fwB = x.boot.fwB
      ∧ z.boot.enrolledKey = x.boot.enrolledKey)

/-- At a reading of the sensors (every 10 µs) in a powered device that is not stopped: where some sensor read 105 °C
or more both at the last reading and at this one, the device stops with cause OVER_TEMP; where none did, it does not.
Either way the readings are stored. (R322) -/
def Obligations.SensorTrip : Prop :=
  ∀ (s : State) (t : Nat) (l : List Nat), let x := s.advance t
    let hot : Prop := ∃ k, k < x.power.sensors.length ∧ k < l.length ∧ 105 ≤ x.power.sensors.getD k 0 ∧ 105 ≤ l.getD k 0
    x.standbyUp = true → x.life.phase ≠ .off → x.isStopped = false →
    (x.now - x.life.pupAt) % 25000 = 0 → x.power.sensorNo < (x.now - x.life.pupAt) / 25000 →
    ∃ z : State, exec (.sensorRead t l) s = .next z ∧ z.power.sensors = l
      ∧ (hot → z.isStopped = true ∧ z.life.stopCause = 2 ∧ z.life.stopAt = x.now ∧ z.life.ready = false)
      ∧ (¬ hot → z.life = x.life)

/-- At the end of a power interval, 100,000 REFCLK cycles, its measured and estimated power are kept: the estimate is
κ times the groups' raw estimates (each its activity counts weighted with their energies, and the leakage at its
junction) with the fixed part. The 11th interval in a row that disagrees sets MISMATCH and MISMATCH_ACTIVE and
recalibrates κ to κ ΣP_m ÷ ΣP_a rounded up and clamped to 2,048 to 4,505, with κ unchanged where ΣP_a is 0; an
interval that disagrees before the 11th is counted. At every tenth interval with the firmware running, the thermal cap
moves with the hottest sensor, and L and M are 0 where the cap in force is 850 W. (R312, R313, R317, R318, R321) -/
def Obligations.PowerIntervals : Prop :=
  ∀ (s : State) (t pm : Nat) (act : List (List Nat)) (fixed : Nat) (supply droop : List Nat), let x := s.advance t
    let raw (g : Nat) : Nat := rawEstimate (act.getD g []) (x.grp g).junction
    let pa := Config.roundTo (x.power.kappa * sumOf ((List.range 48).map raw)) 1000 + 4096 * fixed
    let last := (pm, pa) :: x.power.recent.take 10
    ((x.standbyUp = true → x.life.refclk = true → x.life.phase ≠ .off →
      (x.now - x.life.pupAt) % 2500000 = 0 → x.power.intervalNo < (x.now - x.life.pupAt) / 2500000 →
      (x.armedAt (devDetector 91)) = none →
      ∃ z : State, exec (.powerInterval t pm act fixed supply droop) s = .next z ∧ z.power.recent = last
        ∧ z.power.intervalNo = (x.now - x.life.pupAt) / 2500000 ∧ z.life.supply = supply
        ∧ (disagrees pm pa = true → x.power.disagree = 10 → z.power.mismatch = true ∧ z.power.mismatchActive = true
          ∧ z.power.disagree = 0 ∧ z.power.kappa = max 2048 (min 4505 (newKappa x.power.kappa last)))
        ∧ (disagrees pm pa = true → x.power.disagree ≠ 10 → z.power.disagree = x.power.disagree + 1
          ∧ z.power.kappa = x.power.kappa)
        ∧ (disagrees pm pa = false → z.power.disagree = 0 ∧ z.power.kappa = x.power.kappa
          ∧ (99 ≤ x.power.agree → z.power.mismatchActive = false))))
    ∧ ((x.life.refclk = false ∨ (x.now - x.life.pupAt) % 2500000 ≠ 0) →
      exec (.powerInterval t pm act fixed supply droop) s = .next x)
    ∧ (x.firmwareUp = true → x.power.intervalNo % 10 = 0 → x.power.updateNo < x.power.intervalNo →
      let cap := x.power.thermalCap
      let hot := x.power.hottest
      ∃ z : State, exec (.capUpdate t) s = .next z ∧ z.power.updateNo = x.power.intervalNo
        ∧ z.power.thermalCap = (if 95 ≤ hot then max 300 (cap - 10) else if hot ≤ 90 then min 850 (cap + 5) else cap)
        ∧ (850 ≤ z.power.inForce → z.power.l = 0 ∧ z.power.m = 0))

/-- At a hop end of a working Vigil a detector with a new hop of its tap decides positive where its score exceeds its
threshold and did so at the hop end before; the alert map gives the lines of the classes that decide positive. A line
whose decision is positive is high; one that was high stays so until its 250 ms are over; a line that rises is counted
and held for 250 ms; the heartbeat inverts where every tap was processed. When a line's time ends it falls unless the
last decision was positive. A failed self-check drives every line low and stops the heartbeat. A tap whose port has
had no frame for 4 nominal frame periods is lost. (R330, R331, R332) -/
def Obligations.VigilEvents : Prop :=
  ∀ (s : State) (t : Nat), let x := s.advance t
    let v := x.vigil
    v.works = true →
    (∀ (scores : List Nat) (all : Bool),
      let new (d : VigilDetector) : Bool := decide (tget 0 v.scored d.tap < x.tapHops d.tap)
      let high (k : Nat) (d : VigilDetector) : Bool := decide (d.threshold < scores.getD k 0)
      let fires := v.image.detectors.mapIdx fun k d => new d && high k d && v.above.getD k false
      let pos := v.image.lines fires
      (∀ k, k < 3 → (pos.getLsbD k = true ↔
        ∃ d ∈ v.image.detectors.zip fires, d.2 = true ∧ ∃ a ∈ v.image.alertMap, a.1 = d.1.cls ∧ a.2 = k))
      ∧ ∃ z : State, exec (.hopEnd t scores all) s = .next z
      ∧ z.vigil.above = v.image.detectors.mapIdx (fun k d => if new d then high k d else v.above.getD k false)
      ∧ z.vigil.heartbeat = (v.heartbeat != all) ∧ z.vigil.heartbeatOn = all ∧ z.vigil.positive = pos
      ∧ ∀ k, k < 3 →
        z.vigil.level.getLsbD k = (pos.getLsbD k || (v.level.getLsbD k && decide (x.now < tget 0 v.holdUntil k)))
        ∧ (pos.getLsbD k = true → v.level.getLsbD k = false → tget 0 z.vigil.holdUntil k = x.now + 625000000))
    ∧ (∀ k, k < 3 → v.level.getLsbD k = true → tget 0 v.holdUntil k ≤ x.now → ∃ z : State,
      exec (.alertHoldEnd t k) s = .next z ∧ z.vigil.level.getLsbD k = v.positive.getLsbD k
      ∧ ∀ j, j ≠ k → z.vigil.level.getLsbD j = v.level.getLsbD j)
    ∧ exec (.vigilSelfCheck t true) s = .next x
    ∧ (exec (.vigilSelfCheck t false) s = .next { x with
      vigil := { v with selfCheckFail := true, heartbeatOn := false, level := 0, positive := 0 } })
    ∧ (∀ i p slot, v.image.taps[i]? = some (p, slot) → i < 64 → 4 * 2500000000 ≤ (x.now - tget 0 v.lastFrame p) * (x.prt p).hz →
      ∃ z : State, exec (.tapLost t i) s = .next z ∧ z.vigil.tapLost.getLsbD i = true)

/-- With n bytes of near size and M channels in use, R retired: an address below 48n of a channel in use lies there at
its remainder; one of the retired channel of rank j has the interleaved index S − (R − j)n plus its remainder; one
from 48n upward has the index past 48n, and none at or above S − Rn. An index below S lies in stripe i div 4,096, on
the channels in use in turn. Where NEAR_SIZE is at most 35 and the retired windows fit (R n ≤ S), no two addresses lie
at one channel offset, and every one lies below the channel's 9 GiB. (R226) -/
def Obligations.MemoryAddressMap : Prop :=
  ∀ s : State, let n := 2 ^ 28 * s.cfg.nearSize
    let size := s.active.length * (9 * 2 ^ 30 - n)
    let gone := s.retiredChs.length
    let at_ (i : Nat) : Nat × Nat :=
      (s.active.getD (i / 4096 % s.active.length) 0, n + i / 4096 / s.active.length * 4096 + i % 4096)
    s.cfg.nearSize ≤ 35 → gone * n ≤ size →
    (∀ a, a < 48 * n → (s.memCh (a / n)).st ≠ 2 → s.resolve a = some (a / n, a % n))
    ∧ (∀ a, a < 48 * n → (s.memCh (a / n)).st = 2 →
      s.resolve a = some (at_ (size - (gone - (s.retiredChs.filter (· < a / n)).length) * n + a % n)))
    ∧ (∀ i, i < size - gone * n → s.resolve (48 * n + i) = some (at_ i))
    ∧ (∀ i, size - gone * n ≤ i → s.resolve (48 * n + i) = none)
    ∧ (∀ a p, s.resolve a = some p → p.1 < 48 ∧ (s.memCh p.1).st ≠ 2 ∧ p.2 < 9 * 2 ^ 30)
    ∧ (∀ a b p, s.resolve a = some p → s.resolve b = some p → a = b)

/-- With an address map whose retired windows fit (R226), a write of bytes to LPDDR6 reads back at its addresses and
leaves every other byte as it was; a write to host memory with the link up does the same. A plain STORE that issues
leaves every byte of LPDDR6 outside the rows that its image-relative addresses resolve to. (R217, R226, R228, R230,
R398, Table 3-4) -/
def Obligations.StoresWriteTheirBytesAlone : Prop :=
  ∀ s : State, let fits (x : State) : Prop := x.cfg.nearSize ≤ 35 ∧ x.retiredChs.length * x.nearBytes ≤ x.ilSize
    (fits s → ∀ (a : Nat) (l : List Byte) (b : Nat), (s.memWrite a l).memRead b 1 =
      if a ≤ b ∧ b < a + l.length ∧ (s.resolve b).isSome then [l.getD (b - a) 0] else s.memRead b 1)
    ∧ (s.hif.linkUp = true → ∀ (a : Nat) (l : List Byte) (b : Nat), readCells (s.hostWrite a l).hostMem b 1 =
      if a ≤ b ∧ b < a + l.length then [l.getD (b - a) 0] else readCells s.hostMem b 1)
    ∧ (∀ t g ecc retries r a, let x := s.advance t
      fits x → x.actionDue g 0x05 = some (r, a) →
      let m := x.img r.run.image
      let n := a.field 47 16
      m.spillAt (a.field 0 34) = none → a.field 0 34 + n ≤ m.nearExtent →
      ∃ z : State, exec (.store t g ecc retries) s = .next z
        ∧ ∀ b, (∀ i base, i < n → x.imageAddr m g (a.field 0 34 + i) = some base → b < base ∨ base + 64 ≤ b) →
          z.memRead b 1 = x.memRead b 1)

/-- Each half of a row has a code of its own: one wrong byte is corrected, more or a wrong address is detected. A row
read clean changes nothing; a corrected error is counted; a detected one is read again, and counts as a link retry or,
detected twice or in a row that a failed write damaged, as a stored error. On a channel in use refresh takes place at
the temperature that TEMP_C then reports. A calibration that is due, 2,000 cycles into every 16th Almanac slot or
every 32 ms where the group runs none, is counted where it succeeds and clears the count of failures; the second
failure in a row marks the channel FAILING; one that is not due does nothing. The patrol scrub meets the row as any
read does; a stored error in the interleaved region is mended from the second copy and drops held entries under it. A
read of the memory window answers with the stored word, with 0 where the window hides the address or the control
domain is in reset, and with a poisoned completion on a stored error. (R225, R233, R235, R236, R237, R238, R240, R272,
R278, R370, R416) -/
def Obligations.MemoryChannelEvents : Prop :=
  ∀ (s : State) (t c : Nat), let x := s.advance t
    let wrong (h : HalfRead) : Prop := h.misplaced = true ∨ 2 ≤ h.bytes
    let clean (r : RowRead) : Prop := r = ⟨⟨0, false⟩, ⟨0, false⟩⟩
    let detected (r : RowRead) : Prop := wrong r.lower ∨ wrong r.upper
    let whole (k o : Nat) : Prop := o ∉ (x.memCh k).damaged
    (∀ k o first again,
      (whole k o → clean first → x.meetRow k o first again = (x, false))
      ∧ (whole k o → ¬ detected first → ¬ clean first → x.meetRow k o first again = (x.memCorrected k o, false))
      ∧ (whole k o → detected first → clean again → x.meetRow k o first again = (x.count (chLinkRetries k) 1, false))
      ∧ (whole k o → detected first → ¬ detected again → ¬ clean again →
        x.meetRow k o first again = ((x.count (chLinkRetries k) 1).memCorrected k o, false))
      ∧ ((¬ whole k o ∨ (detected first ∧ detected again)) → x.meetRow k o first again = (x.storedError k o, true)))
    ∧ (x.channelUp c = true →
      (∀ temp, exec (.refresh t c temp) s = .next (x.setMemCh c { x.memCh c with tempC := temp }))
      ∧ (let due : Prop := ((x.grp c).noSlots = true ∧ (x.memCh c).calAt + 80000000 ≤ x.now)
          ∨ ((x.grp c).noSlots = false ∧ x.groupUp c = true ∧ (x.grp c).almSlots % 16 = 0 ∧ (x.memCh c).calAt < x.now
            ∧ ∃ a, (x.grp c).almStart = some a ∧ x.clk c = a + 2000)
        (due → exec (.channelCalibration t c true) s =
            .next ((x.setMemCh c { x.memCh c with calAt := x.now, calFails := 0 }).count (chCalibrations c) 1)
          ∧ ((x.memCh c).calFails = 0 → exec (.channelCalibration t c false) s =
            .next (x.setMemCh c { x.memCh c with calAt := x.now, calFails := 1 }))
          ∧ ((x.memCh c).calFails = 1 → exec (.channelCalibration t c false) s =
            .next ((x.setMemCh c { x.memCh c with calAt := x.now, calFails := 2 }).markFailing c)))
        ∧ (¬ due → ∀ ok, exec (.channelCalibration t c ok) s = .next x))
      ∧ (∀ off read reread other again last, off < chanBytes →
        let y := x.meetRow c (off / 64 * 64) read reread
        let i := x.ilIndex c (off / 64 * 64)
        let z := if y.2 = true ∧ x.nearBytes ≤ off / 64 * 64 then (y.1.ctrlMemError i other again).dropHeld i else y.1
        exec (.patrolScrub t c off read last reread other again) s =
          .next (if last then z.count (chScrubPasses c) 1 else z)))
    ∧ (∀ o read reread, let w := s.atCtrl t
      (w.readReach .pcie = false → exec (.memoryWindowRead t o read reread) s = .next w) ∧ (w.readReach .pcie = true →
      (w.controlUp = false ∨ o % 4 ≠ 0 ∨ w.windowHidden (w.windowAddr o) = true →
        exec (.memoryWindowRead t o read reread) s = .next (w.emit (.window o (some 0))))
      ∧ (∀ k off, w.controlUp = true → o % 4 = 0 → w.windowHidden (w.windowAddr o) = false → w.rowPlace (w.windowAddr o) = some (k, off) →
        let y := w.meetRow k off read reread
        (y.2 = false → exec (.memoryWindowRead t o read reread) s =
          .next (y.1.emit (.window o (some (BitVec.ofNat 32 (leNat (w.memRead (w.windowAddr o) 4)))))))
        ∧ (y.2 = true → exec (.memoryWindowRead t o read reread) s = .next (y.1.emit (.window o none))))))

/-- On a port that is a master, a frame start off the nominal frame rate is none. An enabled port whose data path does
not work watches its frame clock and sends zeros (log entry 43). On a port whose data path works: a frame that began
before it received is left; any other joins the receive FIFO, or is discarded and counted at a full FIFO and under
RATE_FAULT, with DRIFT_RX +1. At a frame start the pins send the oldest frame of the transmit FIFO, or zeros at an
empty one, with DRIFT_TX +1. When the pace accumulator overflows, one frame is emitted each way. A window that ends
with a valid measurement gives its result; a sub-window off by more than 2 % sets RATE_FAULT; 4 nominal frame periods
without a frame start set NO_CLOCK and its cause. The armed detectors of these checks are taken as not armed. (R245,
R249, R250, R253, R254, R255, R256, R260, R261, R330, Table 11-7) -/
def Obligations.FramesAndWindows : Prop :=
  ∀ (s : State) (t p : Nat), let x := s.advance t
    let edge (at_ : Nat) : Prop := (x.prt p).startsAt x.life.onRefclk at_ = true
    (¬ edge x.now → exec (.transmitFrameStart t p) s = .next x)
    ∧ (∀ start slots, ¬ edge start → exec (.receiveFrame t p start slots) s = .next (x.tapFrame p))
    ∧ (x.portUp p = false → (x.prt p).en = true →
      (∀ start slots, start ≤ x.now → edge start → ((x.prt p).clockHeld = false ∨ start ≤ (x.prt p).lastStart) →
        exec (.receiveFrame t p start slots) s = .next ((x.tapFrame p).edgeStart p start))
      ∧ ((x.prt p).clockHeld = false → edge x.now → exec (.transmitFrameStart t p) s =
        .next ((x.edgeStart p x.now).emit (.frame p (List.replicate (x.prt p).slotCount 0)))))
    ∧ (x.portUp p = true →
    (∀ start slots, start ≤ x.now → edge start → ((x.prt p).clockHeld = false ∨ start ≤ (x.prt p).lastStart) →
      let y := (x.tapFrame p).frameStart p start
      let r := y.prt p
      let f : Frame :=
        { slots := (List.range r.slotCount).map fun k => rxValue r.sampleBits (slots.getD k 0)
          mask := if start < r.lastStart then r.rxLatchedPrev else r.rxLatched }
      ((start < r.since ∨ start < x.life.ctrlBase) → exec (.receiveFrame t p start slots) s = .next y)
      ∧ (r.since ≤ start → x.life.ctrlBase ≤ start →
        ∃ z : State, exec (.receiveFrame t p start slots) s = .next z
        ∧ (r.rateFault = true → z.prt p = r.driftR 1)
        ∧ (r.rateFault = false → r.underrun = .silence → r.delayLine.length < 65 →
          z.prt p = { r with delayLine := r.delayLine ++ [f] })
        ∧ (r.rateFault = false → ¬ (r.underrun = .silence ∧ r.delayLine.length < 65) → r.rxFifo.length < 8 →
          z.prt p = { r with rxFifo := r.rxFifo ++ [f] })
        ∧ (r.rateFault = false → ¬ (r.underrun = .silence ∧ r.delayLine.length < 65) → 8 ≤ r.rxFifo.length →
          z.prt p = r.driftR 1 ∧ z.ctrAt (apRxFull p) = min 0xFFFFFFFF (y.ctrAt (apRxFull p) + 1))))
    ∧ ((x.prt p).clockHeld = false → edge x.now →
      let y := x.frameStart p x.now
      let r := y.prt p
      (∀ f rest, r.txFifo = f :: rest → exec (.transmitFrameStart t p) s =
        .next ((y.setPrt p { r with txFifo := rest }).emit (.frame p (f.map (txValue r.sampleBits)))))
      ∧ (r.txFifo = [] → ∃ z : State, exec (.transmitFrameStart t p) s = .next z ∧ z.prt p = r.driftT 1
        ∧ .frame p (List.replicate r.slotCount 0) ∈ z.outs
        ∧ z.ctrAt (apTxEmpty p) = min 0xFFFFFFFF (y.ctrAt (apTxEmpty p) + 1)))
    ∧ (let acc := (x.prt p).paceAcc + (x.prt p).hz * (x.ctrl - (x.prt p).paceCtrl)
      625000000 ≤ acc → acc % 625000000 < (x.prt p).hz → exec (.paceTick t p) s =
        .next (((x.setPrt p { x.prt p with paceAcc := acc % 625000000, paceCtrl := x.ctrl }).rxTick p).txTick p))
    ∧ (∀ rate dev, x.ctrl % 625000000 = 0 → (x.prt p).window.idx + 1 = x.ctrl / 625000000 →
      (x.prt p).window.measure (x.prt p).hz = some (rate, dev) → exec (.rateWindowEnd t p) s =
        .next ((x.setPrt p { x.prt p with window := (x.prt p).windowNext, windowNext := {} }).windowResult p rate dev))
    ∧ (∀ rate dev, x.ctrl % 6250000 = 0 → (x.prt p).subWindow.idx + 1 = x.ctrl / 6250000 →
      x.armedAt (devDetector (48 + 2 * p)) = none → (x.prt p).subWindow.measure (x.prt p).hz = some (rate, dev) →
      ∃ z : State, exec (.subWindowEnd t p) s = .next z
        ∧ (z.prt p).rateFault = ((x.prt p).rateFault || decide (20000000 < dev.natAbs)))
    ∧ ((x.prt p).noClock = false → x.armedAt (devDetector (49 + 2 * p)) = none →
      10000000000 ≤ (x.now - (x.prt p).lastStart) * (x.prt p).hz → ∃ z : State, exec (.noClock t p) s = .next z
        ∧ (z.prt p).noClock = true ∧ (z.prt p).int.getLsbD 3 = true))

/-- At a boundary whose plan is not made, the round's plan is withdrawn, its budget set, its capacity judged, stale
chunks are shed, the plan is made, and the Almanac slot starts or waits for a run that overruns. At the end of an
Almanac slot the map-outs of the clusters not under test take effect (log entry 58), the test's verdict is given and
the first run starts; U loses what the test was held. A pass of a device set passes just where the CRC-32C of its
output rows is its signature, no checker disagreed, no read was uncorrectable and it was not held out. A readiness
notice is held while its stream is MOVING or its group in reset, and else stamps the chunk. A gap that is over ends.
(R22, R29, R42, R46, R47, R49, R51, R100, R316, R339, R342, R362) -/
def Obligations.RoundsAndSlots : Prop :=
  ∀ (s : State) (t g : Nat),
    (let x := s.advance t
     let x1 := (if (x.grp g).awaitSlot then x.count (grpOverrun g) 5000000 else x).endRetirement g
     let y := ((((x1.withdrawPlan g true).modGrp g fun G =>
       { G with round := x.clk g, planned := true, refill := G.refill && !x1.refilled g }).setBudget g).judgeCapacity g).shedStale g
     let z := (y.requestSwaps g).makePlan g
     x.roundDue g = true → exec (.roundStart t g) s = .next
       (((if (z.grp g).overruns then z.modGrp g fun G => { G with awaitSlot := true } else z.startSlot g).progressRetirement
         g).judgeAll))
    ∧ (∀ a test (result : TestResult) (held : Nat) mapReads, let x := s.advance t
      (x.grp g).almStart = some a → (x.grp g).almTest = some test → x.groupUp g = true →
      x.clk g = a + 100000 + held → (result.heldOut = true → 4097 ≤ held) →
      let p := (x.grp g).phys test.cluster
      let y := (x.applyMapouts g p mapReads).modGrp g fun G => { G with almStart := none, almTest := none }
      let z := (if 0 < held then y.reduceU g held else y).afterTest g p test.set
      exec (.almanacSlotEnd t g result held mapReads) s = .next
        (((((if test.targeted then z.judgeTargeted g p test.set result else z.judgeRotation g p test.set result).judgeAll).proceed
          g).progressRetirement g))
      ∧ ∀ n, n < 9 → test.set = .pass n → (z.testPassed test.set result = true ↔
        result.disagreed = false ∧ result.uncorrectable = false ∧ result.heldOut = false ∧
        Config.passSignature n = BitVec.ofNat 32 (crc32c (result.rows.flatMap rowBytes))))
    ∧ (∀ n, let x := s.advance t
      let r := x.str n
      r.st ≠ .closed → r.heldNotices.length < r.unstamped → x.groupsWork = true →
      (r.st = .moving ∨ (x.grp r.home).running = false → ∃ z : State, exec (.readinessNotice t n) s = .next z
        ∧ (z.str n).heldNotices = r.heldNotices ++ [x.now] ∧ (z.str n).chunks = r.chunks)
      ∧ (r.st ≠ .moving → (x.grp r.home).running = true → exec (.readinessNotice t n) s =
        .next ((x.noteWrite n).stampChunk n (x.clk r.home))))
    ∧ (∀ w, let x := s.advance t
      (x.grp g).gap = some w → x.groupUp g = true → x.clk g = w.ends → exec (.gapEnd t g) s = .next (x.endGap g))

/-- While M is 8 no swap goes on. A swap-in whose rows and record check, no codec's detector being armed, puts the
record into its slot, and the holds and requests that waited for it go on. One whose record does not check is repeated
once; the second time it is a record fault. A swap-out that is acknowledged writes the committed copy to the stream's
home and passes its slot on; one whose copy cannot be read is a record fault; one that is not acknowledged goes on.
(R54, R68, R183, R185, R186, R233, R234, R320) -/
def Obligations.SwapEnds : Prop :=
  ∀ (s : State) (t g l : Nat), let x := s.advance t
    x.groupUp g = true →
    let goOn (at_ y : State) : State := (((y.dropHold g (.swap l) (at_.clk g)).requestSwaps g).progressRetirement g).judgeAll
    (∀ w n, (x.grp g).swaps.find? (fun v => v.slot == l && v.out.isNone) = some w → w.inFor = some n →
      ∀ fault reads retries,
      (x.power.m = 8 → exec (.swapInDone t g l fault reads retries) s = .next x)
      ∧ (x.power.m ≠ 8 → ((List.range 48).all fun k => (x.armedAt (devDetector k)).isNone) = true →
        let z := (x.homeReads n reads).1
        let y := z.stateBlockFailed g (z.readWrong n fault)
        exec (.swapInDone t g l fault reads retries) s = .next (match fault, (x.homeReads n reads).2, z.readHome n with
          | .none, false, .ok b => goOn z ((z.dropSwap g l).fillSlot g l n b)
          | _, _, _ =>
            if w.second then
              goOn y (((y.dropSwap g l).modStr n fun r => r.swapWaited (y.clk g)).recordFault n false retries)
            else y.modGrp g fun G =>
              { G with swaps := G.swaps.map fun v => if v.slot = l then { v with second := true } else v })))
    ∧ (∀ w, (x.grp g).swaps.find? (fun v => v.slot == l && v.out.isSome) = some w →
      let n := w.out.getD 0
      let k := b2n (x.slotAt g l).committed
      ∀ reads acked retries, let z := (x.copyReads g l k reads).1
      let lost := (x.copyReads g l k reads).2
      (x.power.m = 8 → exec (.swapOutDone t g l reads acked retries) s = .next x)
      ∧ (x.power.m ≠ 8 →
        (lost = false → acked = true → ((x.str n).spilled = false ∨ z.hif.linkUp = true) →
          let y := z.writeHome n (z.readCopy g l k (z.img (x.str n).image).recordRows) retries
          exec (.swapOutDone t g l reads acked retries) s = .next (goOn z ((((y.count (grpSwapOuts g) 1).count
            (grpSpillSwaps g) (b2n (x.str n).spilled)).dropSwap g l).passSlot g l w.inFor)))
        ∧ (lost = false → acked = false → exec (.swapOutDone t g l reads acked retries) s = .next z)
        ∧ (lost = true → exec (.swapOutDone t g l reads acked retries) s =
          .next (goOn z (((z.dropSwap g l).passSlot g l w.inFor).recordFault n false retries)))))

/-- An export that waits begins once its stream is OPEN with no chunk running or awaiting commit and no swap-in or
swap-out on it or asked for; a chunk placed in a run that has not started goes back to waiting (log entry 61), and the
stream is EXPORTING. It ends, unless M is 8, with the container written where the record reads and the key slot is
loaded, and else with the failure's status. A move begins once the stream has no chunk and can leave its slot, and
ends, in the new group, with its input ring there and the move's result. A CLOSING stream with nothing outstanding is
freed and its commands complete. An import that fits opens its stream. (R25, R26, R183, R187, R194, R195, R196, R197,
R251, R299, R320) -/
def Obligations.TransferEvents : Prop :=
  ∀ (s : State) (t n : Nat), let x := s.advance t
    let r := x.str n
    (∀ q, r.xport = some q → q.begun = false → r.st = .opened → r.busy = false → x.inTransfer n = false →
      x.cometUnit = .enabled → x.groupsWork = true → exec (.exportBegin t n) s =
        .next ((x.unplan n).modStr n fun r => { r with st := .exporting, xport := some { q with begun := true } }))
    ∧ (∀ q fault copy home retries, r.xport = some q → r.st = .exporting → x.inTransfer n = false → x.groupsWork = true →
      let read := x.exportRead n fault copy home
      (x.power.m = 8 → exec (.exportDone t n fault copy home retries) s = .next x)
      ∧ (x.power.m ≠ 8 →
        (∀ b k, read.1 = .ok b → x.keyAt q.keySlot = some k →
          exec (.exportDone t n fault copy home retries) s = .next ((read.2.writeContainer n q k.key b).afterExport n q))
        ∧ (∀ b, read.1 = .ok b → x.keyAt q.keySlot = none →
          exec (.exportDone t n fault copy home retries) s = .next ((read.2.failExport n q stKeyInvalid).afterExport n q))
        ∧ (∀ st, read.1 = .error st →
          exec (.exportDone t n fault copy home retries) s = .next ((match r.slot with
            | some l => (read.2.failExport n q st).recordFault n (read.2.slotAt r.home l).clean retries
            | none => (read.2.failExport n q st).requestSwaps r.home).afterExport n q))))
    ∧ (∀ m, r.move = some m → r.st = .opened → m.begun = false → r.chunks = [] →
      x.comingIn n = false → x.canLeave n = true → x.groupsWork = true →
      let g := r.home
      let z := (x.setStr n { r with st := .moving, move := some { m with begun := true } }).forgetSwaps g n
      exec (.moveBegin t n) s = .next ((((match r.slot with
        | some l => z.evict g l none
        | none => z.releaseSlots g n).requestSwaps g).progressRetirement g).judgeAll))
    ∧ (∀ m, r.move = some m → r.st = .moving → m.begun = true → r.slot = none → x.inTransfer n = false → x.groupsWork = true →
      let y := (x.setStr n { r with st := .opened, home := m.target, inBase := m.base, move := none }).putRing n r.inStart
        r.samples.length
      let pin := if r.cls = .s then y.pinSlot m.target n else (y, 0xFF)
      let z := pin.1.requestSwaps m.target
      exec (.moveEnd t n) s = .next (((((if (z.grp m.target).running then z.deliverHeld n else z).finish m.cmd
        stSuccess (resultOf [(12, leBytes 1 m.target), (13, leBytes 1 pin.2)])).judgeAll).wakeStream n)))
    ∧ (r.st = .closing → r.outstanding = false → r.xport = none → x.inTransfer n = false → x.firmwareUp = true →
      exec (.streamClosed t n) s = .next ((x.freeStream n).finishAll (x.closers n) stSuccess []))
    ∧ (∀ q retries, r.imp = some q → x.groupsWork = true →
      let p := q.params
      let y := x.setStr n { r with imp := none }
      let up := y.homeUp p.home && y.bindUp p.source && y.bindUp p.sink
      let home := y.admitHome ⟨q.image, clsOf p.cls, rateHz q.rate, q.chunkSamples⟩ p.home
      (x.power.m = 8 → exec (.importDone t n retries) s = .next x)
      ∧ (x.power.m ≠ 8 →
        (up = false → exec (.importDone t n retries) s = .next ((y.failCmd q.cmd stDisabled).wakeKey p.keySlot))
        ∧ (up = true → y.importFits q = true →
          (home = none → exec (.importDone t n retries) s = .next ((y.failCmd q.cmd stNoCapacity).wakeKey p.keySlot))
          ∧ ∀ g, home = some g → exec (.importDone t n retries) s = .next ((y.openImport n q g retries).wakeKey p.keySlot))))

/-- A DRAINING or ABORTING unit that holds nothing is DISABLED, or it enters RESETTING where UNIT_RESET asked for
that; one that still holds work stays as it is. The partial reset of a port without a detector that fails ends with
the port ENABLED, or OFF where OFF was asked for. A repair record that has been written stands in the journal, which
only grows. (R305, R306, R307, R357, R359, R362, R363, Table 13-9) -/
def Obligations.UnitEvents : Prop :=
  ∀ (s : State) (t : Nat), let x := s.advance t
    (∀ type index, unitExists type index = true →
      (x.unitOf type index = .draining ∨ x.unitOf type index = .aborting) → x.groupsWork = true →
      (x.unitEmpty type index = false → exec (.unitDisabled t type index) s = .next x)
      ∧ (x.unitEmpty type index = true → x.resetAfter type index = false → ∃ z : State,
        exec (.unitDisabled t type index) s = .next z ∧ z.unitOf type index = .disabled)
      ∧ (x.unitEmpty type index = true → x.resetAfter type index = true → ∃ z : State,
        exec (.unitDisabled t type index) s = .next z ∧ z.unitOf type index = .resetting))
    ∧ (∀ p d, p < 16 → x.groupsWork = true → (x.prt p).unit = .resetting → x.inflight = [] →
      x.repair.startFail = false → ∃ z : State, exec (.unitResetEnd t 1 p [] d) s = .next z
        ∧ (z.prt p).unit = (if (x.prt p).resetToOff then .off else .enabled))
    ∧ (∀ r next rest, x.repair.writing = (r, next) :: rest → x.firmwareUp = true →
      ∃ z : State, exec (.repairRecordWritten t) s = .next z ∧ x.repair.journal ++ [r] <+: z.repair.journal)

/-- An action that is due, its detector not armed, issues. LOAD_SEG of a half that no cluster runs in reads its
segment. A segment arrives after its rows and 16 cycles and its words are written. START of halted clusters begins at
the word it names. A BARRIER whose clusters are halted with the signature it names only passes; one that finds
anything else fails the run with ST_SEQ_FAULT, as does END with a tile left. END with empty tile queues ends the run,
once what its own cycle brings has taken place without failing it. (R64, R65, R66, R67, R72, R154, Table 3-4, Table
16-6) -/
def Obligations.SequencerActions : Prop :=
  ∀ (s : State) (t g : Nat), let x := s.advance t
    let y := x.passEntry g
    (∀ r a, x.actionDue g 0x01 = some (r, a) → unarmed y g [17] = true →
      (∀ p ∈ y.physOf g a.clmask, (y.clu g p).haltIssued = true ∨ (y.clu g p).half ≠ a.field 16 1) →
      exec (.loadSeg t g) s = .next (y.modRun g fun r' => { r' with segs := r'.segs ++
        [{ segment := a.field 0 16, half := a.field 16 1, clmask := a.clmask
           arrives := a.at_ + (y.segmentOf g (y.img r.run.image) (a.field 0 16)).2 + 16 }] }))
    ∧ (∀ r w, (x.grp g).cur = some r → r.segs.find? (fun v => v.arrives == x.schedNow g) = some w → x.canIssue g = true →
      let m := x.img r.run.image
      let place := x.segmentOf g m w.segment
      let bytes := x.imageSlice m g (64 * place.1) (64 * place.2)
      let z := x.modRun g fun r => { r with segs := r.segs.erase w }
      unarmed z g [16] = true →
      (crc32c bytes = field (x.imageSlice m g (64 * (place.1 + place.2)) 4) 0 4 →
        exec (.segmentArrival t g false) s = .next ((z.physOf g w.clmask).foldl
          (fun s p => s.modClu g p fun c => c.loadWords w.half ((pieces 8 1024 bytes).map leNat)) z))
      ∧ (crc32c bytes ≠ field (x.imageSlice m g (64 * (place.1 + place.2)) 4) 0 4 →
        exec (.segmentArrival t g false) s = .next (z.failIssue g stSeqFault false)))
    ∧ (∀ r a, x.actionDue g 0x02 = some (r, a) → unarmed y g [18] = true →
      (∀ p ∈ y.physOf g a.clmask, (y.clu g p).isHalted a.at_ = true) →
      exec (.start t g) s = .next ((y.physOf g a.clmask).foldl (fun s p => s.modClu g p fun c =>
        { c with haltIssued := false, half := a.field 0 1, word := a.field 1 10, loops := [], nextIssue := a.at_ + 1, sig := 0 })
        y))
    ∧ (∀ r a, x.actionDue g 0x0B = some (r, a) → unarmed y g [15] = true →
      let good : Prop := ∀ p ∈ y.physOf g a.clmask,
        (y.clu g p).isHalted a.at_ = true ∧ (y.clu g p).sig = BitVec.ofNat 32 (a.field 0 32)
      (good → exec (.barrier t g) s = .next y)
      ∧ (¬ good → exec (.barrier t g) s = .next (y.failIssue g stSeqFault false)))
    ∧ (∀ r a, x.actionDue g 0x0C = some (r, a) →
      let w := if y.tilesLeft g a.at_ then y.failIssue g stSeqFault false else y
      let z := State.finishCycle g w.turns w
      (∀ i, (z.grp g).cur = some i → i.start = r.start → exec (.endRun t g) s = .next (z.endRun g a.clmask (a.field 0 13)))
      ∧ ((z.grp g).cur = none → exec (.endRun t g) s = .next z))

/-- An action that is due issues with its transfer. FETCH of mapped rows starts a read of n rows, or of the stored
rows of a spill tensor's blocks with the decoder's times; STORE below the near extent, OUTPUT and XFER read a row
every 5 cycles, or a row a cycle; INPUT starts the chunk's samples; STATE_IN and STATE_OUT read the committed record,
or the working place, 2 cycles for each Zi rows. A FETCH or STORE that the extents or the decoder's or coder's times
do not allow fails the run. When the rows of STATE_IN are read, a record whose CRC, STREAM or SEQ is wrong fails the
run; when those of STATE_OUT are, the sealed header of the new record is written in its first row. (R79, R85, R175,
R180, R181, R182, R217, R228, R230, R231, R235, Table 3-4) -/
def Obligations.GroupTransfers : Prop :=
  ∀ (s : State) (t g : Nat) (ecc : Ecc), let x := s.advance t
    let y := x.passEntry g
    (∀ r a, x.actionDue g 0x04 = some (r, a) →
      let m := y.img r.run.image
      let n := a.field 47 16
      let spill := m.spillAt (a.field 0 34)
      let units := if spill.isSome then 65 * ceilDiv n 64 else n
      let busy := if spill.isSome then fetchBusy a.at_ n else []
      let ok := !startsBusy r.decoder busy && y.rowsMapped m g (a.field 0 34) units
      (ok = false → exec (.fetch t g) s = .next (y.failIssue g stSeqFault false))
      ∧ (ok = true →
        let addrs := y.rowAddrs m g (a.field 0 34) units
        exec (.fetch t g) s = .next ((y.modRun g fun r => { r with decoder := r.decoder ++ busy }).startTransfer g
          { op := 0, req := reqFetch, clmask := a.clmask, row := a.field 34 13, count := n, issued := a.at_
            farFrom := m.nearExtent - a.field 0 34, spill, addrs, data := (y.fetched r addrs).1
            origin := (y.fetched r addrs).2 })))
    ∧ (∀ r a retries, x.actionDue g 0x05 = some (r, a) →
      let m := y.img r.run.image
      let n := a.field 47 16
      let spill := m.spillAt (a.field 0 34)
      let units := if spill.isSome then 65 * ceilDiv n 64 else n
      let busy := if spill.isSome then [(a.at_ + 1, a.at_ + 1 + 5 * n)] else []
      let bad : Prop := m.nearExtent < a.field 0 34 + units ∨ startsBusy r.coder busy = true
      (bad → exec (.store t g ecc retries) s = .next (y.failIssue g stSeqFault false))
      ∧ (¬ bad → n ≠ 0 → unarmed y g [34] = true →
        let z := y.modRun g fun r' => { r' with
          coder := r'.coder ++ busy, nextOp := r'.nextOp + 1
          stores := r'.stores ++ [{ op := r'.nextOp, addr := a.field 0 34, count := n, spill, retries }] }
        exec (.store t g ecc retries) s = .next
          (z.readPaced g reqStore (firstOfMask a.clmask) (a.field 34 13) n a.at_ ecc (.store r.nextOp))))
    ∧ (∀ r a, x.actionDue g 0x06 = some (r, a) →
      let p := (y.grp g).phys (a.field 0 5)
      exec (.xfer t g ecc) s = .next ((y.armAccess g a.at_ { phys := p, row := a.field 5 13 } true).addDues g
        ((List.range (a.field 31 16)).map fun i => readDue ecc a.at_ reqXfer (a.at_ + i) (a.field 0 5) p
          ((a.field 5 13 + i) % 8192) (.rows a.clmask ((a.field 18 13 + i) % 8192)))))
    ∧ (∀ r a c, x.actionDue g 0x09 = some (r, a) →
      let q := r.run.chunks.getD (a.field 0 6) (0, 0)
      y.chunkOf q.1 q.2 = some c →
      let rows := y.inputRows q.1 c.first
      exec (.input t g) s = .next (y.startTransfer g
        { op := 0, req := reqInput, clmask := a.clmask, row := a.field 6 13, count := rows.1.length, issued := a.at_
          farFrom := rows.1.length, addrs := rows.2, data := rows.1, origin := [] }))
    ∧ (∀ r a, x.actionDue g 0x0A = some (r, a) → exec (.output t g ecc) s = .next
      (y.readPaced g reqOutput (firstOfMask a.clmask) (a.field 6 13) (a.field 19 16) a.at_ ecc fun _ => .output (a.field 0 6)))
    ∧ (∀ r a l c,
      let m := y.img r.run.image
      let p := a.field 0 6
      let q := r.run.chunks.getD p (0, 0)
      x.swapBlocked g a r = none → (y.str q.1).slot = some l → y.chunkOf q.1 q.2 = some c →
      let held := b2n (y.slotAt g l).committed
      let moves (out : Bool) (k : Nat) (place : Nat → Nat × Nat) : State :=
        (y.modRun g fun r' => { r' with
          nextOp := r'.nextOp + 1
          records := r'.records ++
            [{ op := r'.nextOp, out, position := p, stream := q.1, seq := q.2, slot := l, copy := k, first := a.field 6 13 }]
          }).addDues g ((List.range m.recordRows).map (fun n => readDue ecc a.at_ reqState (a.at_ + 2 * (n / m.clusters))
            (place n).1 ((y.grp g).phys (place n).1) (place n).2 (.record r.nextOp n))
            ++ [{ sched := a.at_ + 2 * ceilDiv m.recordRows m.clusters + 1, kind := .recordEnd r.nextOp }])
      (x.actionDue g 0x07 = some (r, a) → exec (.stateIn t g ecc) s = .next (moves false held (y.slotRow l held)))
      ∧ (x.actionDue g 0x08 = some (r, a) → exec (.stateOut t g ecc) s =
        .next (moves true (1 - held) (workPlace m (a.field 6 13) p))))
    ∧ (∀ op v r w, (x.grp g).cur = some r → x.recordOp g op = some w →
      let m := x.img r.run.image
      let b := (w.content m.recordRows).flatMap rowBytes
      let z := x.modRun g fun r => { r with records := r.records.filter fun y => y.op != op }
      (w.out = false → unarmed z g [29, 30] = true → x.endRecord g op v =
        (if recordCrcOk b = true ∧ recordStream b = w.stream ∧ (recordSeq b + 1) % 2 ^ 32 = w.seq then z
         else z.addDue g { sched := v, kind := .record w.position }))
      ∧ ∀ c, w.out = true → x.chunkOf w.stream w.seq = some c →
        let head := recordHeader m.recordRows w.stream w.seq (c.first + (x.str w.stream).chunkSamples)
          (x.endClassWord g w.position r) false
        let at_ := x.slotRow w.slot w.copy 0
        x.endRecord g op v = z.writeAt g reqState v { phys := (x.grp g).phys at_.1, row := at_.2 }
          (bytesRow (sealRecord (head ++ b.drop 64))))

/-- An EXPAND whose target suits its tensor, whose rows lie within the extents and whose decode times are free begins
16 cycles later; any other fails the run. A block read in time and without a stored error is decoded in its cycle; one
that is late or is to be reread holds the run, and its arrival goes on with it; one that is a stored error fails the
run. A row that is due and absent holds the run; a row that arrives in time or with room in the delivery buffer joins
its transfer; an uncorrectable one is read again, and the reread delivers it or fails the run. A store buffer entry
that frees ends a hold for one. The near channel's detectors are taken as not armed. (R215, R216, R218, R225, R228,
R230, R231, R233, R234, Table 4-3) -/
def Obligations.ExpanderAndRows : Prop :=
  ∀ (s : State) (t g : Nat), let x := s.advance t
    (let y := x.passEntry g
     ∀ r a, x.actionDue g 0x03 = some (r, a) →
      let m := y.img r.run.image
      let n := a.field 36 16
      let first := a.field 16 20
      (m.tensors[a.field 0 16]? = none → exec (.expand t g) s = .next (y.failIssue g stSeqFault false))
      ∧ ∀ tn, m.tensors[a.field 0 16]? = some tn →
      let busy := [(a.at_ + 16, a.at_ + 16 + sumOf ((List.range n).map fun i => tn.allowance (first + i)))]
      let ok := tn.expandOk first n (a.field 52 1) && !startsBusy r.decoder busy &&
        (List.range n).all fun i => (y.blockRows m g tn (first + i)).all fun u => (y.imageAddr m g u).isSome
      let z := y.modRun g fun r' => { r' with
        decoder := r'.decoder ++ busy
        expands := r'.expands ++ [
          { tensor := a.field 0 16, first, count := n, factor := a.field 52 1 == 1, clmask := a.clmask, next := 0
            starts := a.at_ + 16 }] }
      (ok = false → exec (.expand t g) s = .next (y.failIssue g stSeqFault false))
      ∧ (ok = true → a.field 52 1 = 0 → exec (.expand t g) s = .next z)
      ∧ (ok = true → a.field 52 1 = 1 → exec (.expand t g) s =
        .next (z.addDue g { sched := a.at_ + 16, kind := .factorStart a.clmask })))
    ∧ (∀ r, (x.grp g).cur = some r → x.groupUp g = true →
      (∀ e tn late reads, r.expands.find? (fun e => e.starts == x.schedNow g && e.late.isNone) = some e →
        (late = true ∨ x.canIssue g = true) → (x.img r.run.image).tensors[e.tensor]? = some tn →
        let rows := (x.blockRows (x.img r.run.image) g tn (e.first + e.next)).map fun u =>
          (x.imageAddr (x.img r.run.image) g u).getD 0
        let z := x.meetBlock g rows reads
        exec (.blockDecode t g late reads) s = .next
          (if z.2.2 then z.1.addDue g { sched := e.starts, kind := .fail stMemError }
           else if late = true ∨ z.2.1 ≠ [] then z.1.holdExpander g e late z.2.1
           else z.1.decodeNext g r e tn))
      ∧ (unarmed x g [31, 32, 33] = true → ∀ u w read, r.transfers.find? (fun w => w.lacks u) = some w →
        (256 ≤ r.buffered → x.schedNow g < w.unitDue u → exec (.memoryRowArrival t g u read) s = .next x)
        ∧ ((r.buffered < 256 ∨ w.unitDue u ≤ x.schedNow g) →
          let place := x.rowPlace (w.addrs.getD u 0)
          let lost : Prop := rowVerdict read = .uncorrectable ∨ x.isDamaged place = true
          (lost → exec (.memoryRowArrival t g u read) s =
            .next (x.modTransfer g w.op fun y => { y with rereads := y.rereads ++ [u] }))
          ∧ (¬ lost → rowVerdict read = .clean → exec (.memoryRowArrival t g u read) s = .next (x.rowArrives g w u))
          ∧ (∀ c o, ¬ lost → place = some (c, o) → rowVerdict read = .correctable →
            exec (.memoryRowArrival t g u read) s = .next ((x.memCorrected c o).rowArrives g w u))))
      ∧ (∀ e, r.expands.find? (fun e => e.late.isSome && e.waiting) = some e →
        exec (.expanderBlockArrival t g) s = .next (x.expanderGoesOn g e { e with waiting := false }))
      ∧ ((r.transfers.any fun w => !w.late && w.lateAt ((x.grp g).sched (x.clk g))) = true →
        (x.grp g).hold = none → exec (.rowDue t g) s = .next (x.holdRows g (x.clk g)))
      ∧ (∀ w u rest read, r.transfers.find? (fun w => !w.rereads.isEmpty) = some w → w.rereads = u :: rest →
        let z := x.reread (w.addrs.getD u 0) read
        (z.1.grp g).cur.isSome = true → exec (.rereadArrival t g read) s =
          .next (if z.2 then z.1.rowFails g w u else z.1.rowArrives g w u)))
    ∧ ((x.grp g).storeBuf ≠ 0 → exec (.storeBufferDrain t g) s =
        .next ((x.modGrp g fun G => { G with storeBuf := G.storeBuf - 1 }).dropHold g .storeBuffer (x.clk g)))

/-- A HOLD that has stood for 4,097 cycles fails the run with ST_HOLD_TIMEOUT; a scrub hold falls 40 cycles after its
read; quiescing ends 2,000 cycles after the failure. Step 1 of a commit inverts COMMITTED and clears CLEAN; step 3
delivers the output stage's bytes; steps 4 and 5 complete the chunk with ST_SUCCESS, and count it where it carries
SCALE_OUT. They fall 900, 1,700 and 2,100 cycles after the run's end, and 300 more for each position before. (R31,
R70, R72, R79, R95, R172, R178, R182, R251, R252) -/
def Obligations.HoldsAndCommits : Prop :=
  ∀ (s : State) (t g : Nat), let x := s.advance t
    x.groupUp g = true →
    (∀ h r, (x.grp g).hold = some h → (x.grp g).cur = some r → x.clk g = h.since + 4096 →
      (r.scrubAt + 39 = x.clk g → r.tagFail = none) →
      exec (.holdTimeout t g) s = .next (x.failRun g stHoldTimeout (x.clk g) (h.srcs.contains .injected)))
    ∧ (∀ r, (x.grp g).cur = some r → (x.grp g).heldBySrc .scrub = true → x.clk g = r.scrubAt + 40 →
      exec (.scrubHoldEnd t g) s = .next ((r.scrubs.foldl (fun s v => s.verifyFailed g v)
        ((x.count (spadScrubHold g) 40).modGrp g fun G => { G with cur := G.cur.map fun r => { r with scrubs := [] } })).dropHold g
          .scrub (x.clk g)))
    ∧ (∀ q retries, (x.grp g).quiesce = some q → x.clk g = q.failedAt + 2000 →
      exec (.quiesceEnd t g retries) s = .next (x.endQuiesce g retries))
    ∧ (∀ lane p w, tget none (x.grp g).lanes lane = some w →
      let n := (w.chunks.getD p (0, 0)).1
      let seq := (w.chunks.getD p (0, 0)).2
      (∀ l c, (p, 0) ∈ w.commits → x.clk g = w.ended + ((900 + 300 * p : Nat) : Int) → (x.str n).slot = some l →
        x.chunkOf n seq = some c → ∃ z : State, exec (.commitState t g lane p) s = .next z
          ∧ (z.slotAt (x.str n).home l).committed = !(x.slotAt (x.str n).home l).committed
          ∧ (z.slotAt (x.str n).home l).clean = false ∧ (z.str n).recSeq = seq)
      ∧ (∀ c, (p, 1) ∈ w.commits → x.clk g = w.ended + ((1700 + 300 * p : Nat) : Int) → x.chunkOf n seq = some c →
        let m := x.img w.image
        exec (.commitOutput t g lane p) s = .next
          ((x.deliverOutput n seq c.first (x.memRead (x.stageAddr g m lane p) m.outBytes)).stepLane g lane p 1))
      ∧ (∀ c, (p, 2) ∈ w.commits → x.clk g = w.ended + ((2100 + 300 * p : Nat) : Int) → x.chunkOf n seq = some c →
        exec (.completionStamp t g lane p) s = .next
          (((((if c.scaleOut then x.count (grpFlagged g) 1 else x).completeChunk n c
            { status := stSuccess, stamp := x.clk g }).stepLane g lane p 2).requestSwaps g).progressRetirement g)))

/-- A word that is due issues: the next word follows in the next cycle and the signature takes the word in. NOP does
no more; WAIT puts the next issue off by its count; LOOP opens a loop of LEN+1 words and COUNT passes; HALT halts the
cluster; SETA writes BASE, RUN and STRIDE of its stream register, SETB its LENGTH, format and mask. A SETA or SETB
with a non-zero reserved field, or a SETB with a reserved FMT, fails the run in its issue cycle; the vector engine's
issue detector is taken as not armed. (R67, R109, R133, R135, R149, Table 5-4, Table 6-2) -/
def Obligations.ControlWords : Prop :=
  ∀ (s : State) (t g c : Nat) (p : Nat) (w : MWord), let x := s.advance t
    let v := x.schedNow g
    let passed := x.modClu g p fun k => k.passWord w v k.loops
    let judged (bad : Bool) : State := if bad then passed.addDue g { sched := v, kind := .fail stSeqFault, phys := p } else passed
    let wrote (y : State) (f : SReg → SReg) : State := y.modClu g p fun k => { k with sregs := tmod {} k.sregs (wordField w 51 5) f }
    (x.wordDue g c 0 0 = some (p, w) → exec (.controlNop t g c) s = .next passed)
    ∧ (x.wordDue g c 0 1 = some (p, w) → exec (.wait t g c) s =
      .next (passed.modClu g p fun k => { k with nextIssue := v + wordField w 0 32 + 1 }))
    ∧ (x.wordDue g c 0 2 = some (p, w) → exec (.loop t g c) s = .next (x.modClu g p fun k => k.passWord w v
      ({ first := k.word + 1, last := k.word + 1 + wordField w 0 10, left := wordField w 10 16 } :: k.loops)))
    ∧ (x.wordDue g c 0 3 = some (p, w) → exec (.halt t g c) s =
      .next (passed.modClu g p fun k => { k with haltIssued := true }))
    ∧ (unarmed x g [21] = true →
      (x.wordDue g c 2 1 = some (p, w) → exec (.seta t g c) s = .next (wrote (judged (wordField w 0 12 != 0)) fun r =>
        { r with base := wordField w 38 13, run := wordField w 25 13, stride := wordField w 12 13 }))
      ∧ (x.wordDue g c 2 2 = some (p, w) → exec (.setb t g c) s =
        .next (wrote (judged (wordField w 0 20 != 0 || decide (10 < wordField w 27 4))) fun r =>
        { r with
          length := wordField w 31 20, fmt := wordField w 27 4, mreg := wordField w 22 5, men := wordBit w 21
          minv := wordBit w 20 })))

/-- A matrix word that is due and breaks no rule of Table 5-11 issues: MMA opens or continues its chain and its
K-steps follow from the next cycle; MEPI reads its five rows, one a cycle, into a parameter set; MFAC begins the
formation of a tile. An epilogue that ends with a verdict of 0 or 1 pushes its tile, and a formation whose check holds
writes its tile; each that fails its check ends the run. The detectors of the matrix engine are taken as not armed.
(R110, R111, R112, R120, R121, R122, R126, R127, R128, R153, Table 5-5) -/
def Obligations.MatrixWords : Prop :=
  ∀ (s : State) (t g c p : Nat) (w : MWord) (ecc : Ecc), let x := s.advance t
    let v := x.schedNow g
    let y := x.modClu g p fun k => k.passWord w v k.loops
    unarmed x g [0, 1, 2, 3, 4, 5, 6, 20, 22] = true →
    (x.wordDue g c 1 1 = some (p, w) →
      let m := mmaOf w v ecc
      (y.clu g p).mmaBad m (wordBit w 44) v = false → exec (.mma t g c ecc) s =
        .next (((y.modClu g p fun k => { k with
          acc := if wordBit w 44 then k.acc else tput {} k.acc m.acc (openChain m), mma := some m }).armAccess g (v + 1)
          { phys := p, row := wordField w 23 13 } true).addDue g { sched := v + 1, kind := .kstep, phys := p }))
    ∧ (x.wordDue g c 1 2 = some (p, w) →
      let a := wordField w 55 1
      let row := wordField w 40 13
      (tget {} (y.clu g p).acc a).epiRuns v = false →
      exec (.mepi t g c ecc) s = .next (((y.armAccess g v { phys := p, row } true).modClu g p fun k => { k with
        params := tmod {} k.params a fun q =>
          { q with loaded := true, readyAt := v + 4, out := wordBit w 54, bias := wordBit w 53, tileId := wordField w 32 8 }
        loads := k.loads ++ [{ word := w, issued := v }] }).addDues g
          ((List.range 5).map fun i => readDue ecc v reqMatrix (v + i) c p ((row + i) % 8192) (.param v))))
    ∧ (x.wordDue g c 1 3 = some (p, w) → (y.clu g p).formation = none →
      ((y.clu g p).bank (wordField w 49 2)).isFull v = true → ((y.clu g p).bank (wordField w 47 2)).isFull v = true →
      exec (.mfac t g c) s = .next (y.modClu g p fun k => { k with formation := some (formationOf k w v) }))
    ∧ (∀ a upset v e, let q := (x.grp g).phys c
      let k := tget {} (x.clu g q).acc a
      x.thisCycle g = some v → k.epi = some (e, v) → k.epiOver = false → q < 26 →
      let par := tget {} (x.clu g q).params a
      let res := k.epilogue par upset
      let z := (x.modClu g q fun u => { u with acc := tput {} u.acc a { k with epiOver := true } }).count (mtxChains g) 1
      (res.verdict < 2 → exec (.epilogueEnd t g c a upset) s = .next (z.pushTile g q a v par res))
      ∧ (2 ≤ res.verdict → exec (.epilogueEnd t g c a upset) s = .next (z.badVerdict g q res.verdict k.mode v false)))
    ∧ (∀ v f, let q := (x.grp g).phys c
      x.thisCycle g = some v → (x.clu g q).formation = some f → f.ends = v → q < 26 →
      let drop (rel : Bool) (i : Nat) (b : Table FactorBank) : Table FactorBank :=
        if rel then tmod {} b i fun k => { k with full := false } else b
      let z := x.modClu g q fun u => { u with
        formation := none, banks := drop f.vrel f.vbank (drop f.urel f.ubank u.banks) }
      (f.ok = true → exec (.factorFormationEnd t g c false) s =
        .next ((z.directAt g q v f.dest { full := true, fullAt := v, formed := true, codes := f.codes, rs := f.rs }).count
          (mtxFactorTiles g) 1))
      ∧ (f.ok = false → exec (.factorFormationEnd t g c false) s = .next (z.badVerdict g q 7 modeI8 v false)))

/-- A vector word that is due, with no operation before it still running and no case of Table 6-6, its detector not
armed, has its scalars read, and its operation is under way from the next cycle. A CVT from the tile queue needs the
tile at its head. An operation whose last cycle this is has ended and is counted. (R136, R137, R149, R150, R153, R191,
Table 6-3, Table 6-6) -/
def Obligations.VectorWords : Prop :=
  ∀ (s : State) (t g c p : Nat) (w : MWord) (ecc : Ecc) (upset : LaneUpset), let x := s.advance t
    let v := x.schedNow g
    let passed := x.modClu g p fun k => k.passWord w v k.loops
    let y := (passed.lastSlot g p v).finishVec g p v
    let k := passed.clu g p
    let legal (i : VecIssue) : Prop := (y.clu g p).vecRuns v = false ∧ i.faulty (y.clu g p) (y.curSlots g) = false
    let goes (i : VecIssue) (more : List Nat) : State :=
      let rows := i.op.scalarRegs.map (fun e => e.2.rowAt 0) ++ more
      let z := (y.armAccess g (v + 1) { phys := p, row := (i.sources.headD i.op.d).rowAt 0 } true).addDues g
        (rows.map fun row => readDue i.op.ecc v reqVector v c p (row % 8192) .scalar)
      (z.modClu g p fun u => { u with vec := some i.op.paced }).addDue g { sched := v, kind := .vstart, phys := p }
    let withUpset (i : VecIssue) : VecIssue := { i with op := { i.op with upset } }
    unarmed y g [21] = true →
    (x.wordDue g c 2 3 = some (p, w) → legal (k.ewIssue w v ecc upset) →
      exec (.ew t g c ecc upset) s = .next (goes (k.ewIssue w v ecc upset) []))
    ∧ (x.wordDue g c 2 4 = some (p, w) → legal (withUpset (k.cvtIssue w v ecc)) → k.queueBad w v = false →
      exec (.cvt t g c ecc upset) s = .next (goes (withUpset (k.cvtIssue w v ecc)) []))
    ∧ (x.wordDue g c 2 5 = some (p, w) → legal (withUpset (k.redIssue w v ecc)) →
      exec (.red t g c ecc upset) s = .next (goes (withUpset (k.redIssue w v ecc)) []))
    ∧ (x.wordDue g c 2 6 = some (p, w) → legal (k.lutIssue w v ecc) →
      exec (.ldlut t g c ecc) s = .next (goes (k.lutIssue w v ecc) []))
    ∧ (x.wordDue g c 2 7 = some (p, w) → legal (withUpset (k.scanIssue w v ecc)) →
      exec (.scan t g c ecc upset) s = .next (goes (withUpset (k.scanIssue w v ecc)) [(k.scanFlags w).rowAt 0]))
    ∧ (∀ o v, let q := (x.grp g).phys c
      x.thisCycle g = some v → (x.clu g q).vec = some o → o.ends = v → q < 26 → o.retired = false →
      exec (.vectorOperationEnd t g c) s = .next ((x.modClu g q fun u =>
        { u with vec := some { o with retired := true } }).count (vecOps g) 1))
end

