-- ==== Sys2Proof/Laws/Table.lean ====
section
/-! SUPPORT. Sparse tables: a read after a write, and the canonical form that a write keeps. -/

namespace Sys2Proof.Machine

variable {α : Type}

@[simp] theorem tget_nil (d : α) (k : Nat) : tget d [] k = d := rfl

/-- Every number that the table lists lies beyond `k`. -/
def tabove (k : Nat) (t : Table α) : Prop := ∀ x ∈ t, k < x.1

theorem tget_of_above (d : α) {t : Table α} {k : Nat} (h : tabove k t) : tget d t k = d := by
  cases t with
  | nil => rfl
  | cons x r => simp [tget, h x (by simp)]

theorem tabove_mono {t : Table α} {j k : Nat} (hjk : j ≤ k) (h : tabove k t) : tabove j t :=
  fun x hx => lt_of_le_of_lt hjk (h x hx)

theorem tdrop_of_above {t : Table α} {k : Nat} (h : tabove k t) : tdrop k t = t := by
  cases t with
  | nil => rfl
  | cons x r => have := h x (by simp); simp [tdrop]; omega

theorem tget_tdrop (d : α) (t : Table α) (k m : Nat) (h : k < m) : tget d (tdrop k t) m = tget d t m := by
  induction t with
  | nil => rfl
  | cons x r ih =>
    obtain ⟨j, w⟩ := x
    simp only [tdrop]
    split
    · rw [ih]; simp only [tget]; rw [if_neg (by omega), if_neg (by omega)]
    · rfl

theorem tget_tdrop_le (d : α) (t : Table α) (k m : Nat) (h : m ≤ k) : tget d (tdrop k t) m = d := by
  induction t with
  | nil => rfl
  | cons x r ih =>
    obtain ⟨j, w⟩ := x
    simp only [tdrop]
    split
    · exact ih
    · simp only [tget]; rw [if_pos (by omega)]

/-- A write at a number is read back at it. -/
@[simp] theorem tget_tput_self [DecidableEq α] (d : α) (t : Table α) (k : Nat) (v : α) :
    tget d (tput d t k v) k = v := by
  induction t with
  | nil => by_cases hv : v = d <;> simp [tput, hv, tget]
  | cons x r ih =>
    obtain ⟨j, w⟩ := x
    simp only [tput]
    split
    · split <;> rename_i hv <;> simp_all [tget]
    · split
      · split <;> rename_i hv
        · rw [tget_tdrop_le _ _ _ _ le_rfl, hv]
        · simp [tget]
      · simp_all [tget]

/-- A write at one number leaves every other as it is. -/
theorem tget_tput_of_ne [DecidableEq α] (d : α) (t : Table α) {k m : Nat} (v : α) (h : m ≠ k) :
    tget d (tput d t k v) m = tget d t m := by
  induction t with
  | nil =>
    by_cases hv : v = d <;> simp only [tput, hv, tget, if_true, if_false]
    split <;> simp_all
  | cons x r ih =>
    obtain ⟨j, w⟩ := x
    simp only [tput]
    split
    · split
      · rfl
      · simp only [tget]
        split
        · rw [if_pos (by omega)]
        · rfl
    · split
      · rename_i hk hkj
        subst hkj
        have e : tget d (tdrop k r) m = tget d ((k, w) :: r) m := by
          simp only [tget]
          rcases lt_or_gt_of_ne h with hm | hm
          · rw [if_pos hm, tget_tdrop_le _ _ _ _ hm.le]
          · rw [if_neg (by omega), if_neg h, tget_tdrop _ _ _ _ hm]
        split
        · exact e
        · rw [← e]
          rcases lt_or_gt_of_ne h with hm | hm
          · rw [tget_tdrop_le _ _ _ _ hm.le]; simp [tget, hm]
          · simp [tget, h, not_lt.2 hm.le]
      · simp only [tget, ih]

/-- Applying a function at a number: the number, and every other. -/
@[simp] theorem tget_tmod_self [DecidableEq α] (d : α) (t : Table α) (k : Nat) (f : α → α) :
    tget d (tmod d t k f) k = f (tget d t k) := by simp [tmod]

theorem tget_tmod_of_ne [DecidableEq α] (d : α) (t : Table α) {k m : Nat} (f : α → α) (h : m ≠ k) :
    tget d (tmod d t k f) m = tget d t m := tget_tput_of_ne d t _ h

variable [DecidableEq α]

theorem tableWf_cons (d : α) (j : Nat) (v : α) (r : Table α) :
    tableWf d ((j, v) :: r) = true ↔ v ≠ d ∧ tabove j r ∧ tableWf d r = true := by
  induction r generalizing j v with
  | nil => simp [tableWf, tabove]
  | cons x r ih =>
    obtain ⟨k, w⟩ := x
    simp only [tableWf, Bool.and_eq_true, ih]
    constructor
    · rintro ⟨⟨h1, h2⟩, h3, h4, h5⟩
      refine ⟨by simpa using h1, ?_, h3, h4, h5⟩
      intro x hx
      rcases List.mem_cons.1 hx with rfl | hx
      · simpa using h2
      · exact lt_trans (by simpa using h2) (h4 x hx)
    · rintro ⟨h1, h2, h3⟩
      exact ⟨⟨by simpa using h1, by simpa using h2 (k, w) (by simp)⟩, h3⟩

theorem tdrop_wf (d : α) {t : Table α} (h : tableWf d t = true) (k : Nat) :
    tabove k (tdrop k t) ∧ tableWf d (tdrop k t) = true := by
  induction t with
  | nil => simp [tdrop, tabove, tableWf]
  | cons x r ih =>
    obtain ⟨j, v⟩ := x
    have h' := (tableWf_cons d j v r).1 h
    simp only [tdrop]
    split
    · exact ih h'.2.2
    · refine ⟨?_, h⟩
      intro x hx
      rcases List.mem_cons.1 hx with rfl | hx
      · omega
      · have := h'.2.1 x hx; omega

/-- A write keeps the canonical form, and lists no number below those that the table listed and the one written. -/
theorem tput_wf_above (d : α) {t : Table α} (h : tableWf d t = true) (k : Nat) (v : α) :
    tableWf d (tput d t k v) = true ∧ ∀ m, m < k → tabove m t → tabove m (tput d t k v) := by
  induction t with
  | nil => by_cases hv : v = d <;> simp [tput, hv, tableWf, tabove]
  | cons x r ih =>
    obtain ⟨j, w⟩ := x
    obtain ⟨hw, hj, hr⟩ := (tableWf_cons d j w r).1 h
    simp only [tput]
    split
    · split
      · exact ⟨h, fun m _ hm => hm⟩
      · rename_i hkj hv
        refine ⟨(tableWf_cons ..).2 ⟨hv, ?_, h⟩, ?_⟩
        · intro x hx
          rcases List.mem_cons.1 hx with rfl | hx
          · exact hkj
          · exact lt_trans hkj (hj x hx)
        · intro m hmk hm x hx
          rcases List.mem_cons.1 hx with rfl | hx
          · exact hmk
          · exact hm x hx
    · split
      · have hd := tdrop_wf d hr k
        split
        · exact ⟨hd.2, fun m hmk _ => tabove_mono hmk.le hd.1⟩
        · rename_i hv
          refine ⟨(tableWf_cons ..).2 ⟨hv, hd.1, hd.2⟩, ?_⟩
          intro m hmk hm x hx
          rcases List.mem_cons.1 hx with rfl | hx
          · exact hmk
          · exact lt_trans hmk (hd.1 x hx)
      · have ih := ih hr
        refine ⟨(tableWf_cons ..).2 ⟨hw, ih.2 j (by omega) hj, ih.1⟩, ?_⟩
        intro m hmk hm x hx
        rcases List.mem_cons.1 hx with rfl | hx
        · exact hm (j, w) (by simp)
        · exact ih.2 m hmk (fun y hy => hm y (by simp [hy])) x hx

/-- A write keeps the canonical form. -/
theorem tput_wf (d : α) {t : Table α} (h : tableWf d t = true) (k : Nat) (v : α) :
    tableWf d (tput d t k v) = true := (tput_wf_above d h k v).1

end Sys2Proof.Machine
end

