-- ==== Sys2Proof/Laws/Keeps.lean ====
section
/-! SUPPORT. What every operation of the device keeps, whatever it does: the clock and the queue, the canonical
form of both memories, the rollback floor, the enrolled key, the repair journal as a growing list, an owner code of
Table 12-1, an epoch of 8 bits; and every part of the state outside the operation's own footprint. A footprint is a set
of parts, written as a number with the bit of `Part.idx` set for each. -/

namespace Sys2Proof.Machine

open Sys2Proof.Safety

/-- The number of a part. -/
def Part.idx : Part → Nat
  | .free => 0
  | .life => 1
  | .owner => 2
  | .sq => 3
  | .cq => 4
  | .hif => 5
  | .inflight => 6
  | .nextCmd => 7
  | .fenced => 8
  | .safePort => 9
  | .latches => 10
  | .hostMem => 11
  | .streams => 12
  | .images => 13
  | .nearAlloc => 14
  | .farAlloc => 15
  | .spillAlloc => 16
  | .spill => 17
  | .groups => 18
  | .clusters => 19
  | .ctr => 20
  | .mem => 21
  | .channels => 22
  | .ports => 23
  | .chans => 24
  | .eqx => 25
  | .comet => 26
  | .cfg => 27
  | .power => 28
  | .safety => 29
  | .vigil => 30
  | .log => 31
  | .repair => 32
  | .armed => 33
  | .boot => 34
  | .keys => 35
  | .spillKey => 36

/-- Footprint `a` lies within `b`. -/
abbrev Sub (a b : Nat) : Prop := a &&& b = a

theorem Sub.bit {a b i : Nat} (h : Sub a b) (k : a.testBit i = true) : b.testBit i = true := by
  rw [← h] at k
  simp only [Nat.testBit_and, Bool.and_eq_true] at k
  exact k.2

theorem Sub.trans {a b c : Nat} (h : Sub a b) (k : Sub b c) : Sub a c := by
  refine Nat.eq_of_testBit_eq fun i => ?_
  rw [Nat.testBit_and]
  cases e : a.testBit i
  · rfl
  · rw [k.bit (h.bit e)]; rfl

theorem Sub.refl (a : Nat) : Sub a a := Nat.and_self a

/-- Every part outside the footprint is the same. -/
structure Outside (F : Nat) (s s' : State) : Prop where
  of ::
  out : ∀ p : Part, p.same s s' ∨ F.testBit (Part.idx p) = true

theorem same_refl (p : Part) (s : State) : p.same s s := by cases p <;> simp [Part.same]

theorem same_trans {p : Part} {a b c : State} (h : p.same a b) (k : p.same b c) : p.same a c := by
  cases p <;> simp_all [Part.same]

theorem Outside.trans {F : Nat} {a b c : State} (h : Outside F a b) (k : Outside F b c) : Outside F a c :=
  .of fun p => by
    rcases h.out p with h | h
    · rcases k.out p with k | k
      · exact .inl (same_trans h k)
      · exact .inr k
    · exact .inr h

/-- What no operation undoes in flash and fuses. -/
structure BootKeeps (b b' : Boot) : Prop where
  svn : b.svnFuse ≤ b'.svnFuse
  enrolled : b.enrolled = true → b'.enrolled = true ∧ b'.keyHash = b.keyHash

@[simp] theorem BootKeeps.rfl {b : Boot} : BootKeeps b b := ⟨le_refl _, fun h => ⟨h, by simp⟩⟩

theorem BootKeeps.same {b b' : Boot} (h : b'.svnFuse = b.svnFuse) (k : b'.enrolled = b.enrolled)
    (m : b'.keyHash = b.keyHash) : BootKeeps b b' := ⟨h.ge, fun e => ⟨k.trans e, m⟩⟩

theorem BootKeeps.trans {a b c : Boot} (h : BootKeeps a b) (k : BootKeeps b c) : BootKeeps a c :=
  ⟨h.svn.trans k.svn, fun e => ⟨(k.enrolled (h.enrolled e).1).1, (k.enrolled (h.enrolled e).1).2.trans (h.enrolled e).2⟩⟩

/-- What every operation of footprint `F` keeps. -/
structure Keeps (F : Nat) (s s' : State) : Prop where
  now : s'.now = s.now
  pending : s'.pending = s.pending
  mem : Memory.wf s.mem = true → Memory.wf s'.mem = true
  hostMem : Memory.wf s.hostMem = true → Memory.wf s'.hostMem = true
  boot : BootKeeps s.boot s'.boot
  journal : s.repair.journal <+: s'.repair.journal
  owner : s.owner.owner ≤ 3 → s'.owner.owner ≤ 3
  epoch : s.life.epoch < 256 → s'.life.epoch < 256
  frame : Outside F s s'

@[simp] theorem Keeps.rfl {F : Nat} {s : State} : Keeps F s s :=
  ⟨by simp, by simp, id, id, .rfl, List.prefix_refl _, id, id, .of fun p => .inl (same_refl p s)⟩

theorem Keeps.trans {F : Nat} {a b c : State} (h : Keeps F a b) (k : Keeps F b c) : Keeps F a c :=
  ⟨k.now.trans h.now, k.pending.trans h.pending, k.mem ∘ h.mem, k.hostMem ∘ h.hostMem, h.boot.trans k.boot,
    h.journal.trans k.journal, k.owner ∘ h.owner, k.epoch ∘ h.epoch, h.frame.trans k.frame⟩

/-- An update that leaves the clock, the queue and both memories, and keeps what `Keeps` says of the rest. -/
theorem Keeps.upd {F : Nat} {s t : State} (h : Keeps F s t) {free outs life owner sq cq hif inflight nextCmd fenced
    safePort latches streams images nearAlloc farAlloc spillAlloc spill groups clusters ctr channels ports chans eqx
    cometUnit cometToOff cometResetAfter cfg power safety vigil log repair armed boot keys spillKey}
    (hl : t.life.epoch < 256 → Life.epoch life < 256) (ho : t.owner.owner ≤ 3 → Owner.owner owner ≤ 3)
    (hr : t.repair.journal <+: Repair.journal repair) (hb : BootKeeps t.boot boot)
    (hf : Outside F t
      { pending := t.pending, now := t.now, free, outs, life, owner, sq, cq, hif, inflight, nextCmd, fenced,
        safePort, latches, hostMem := t.hostMem, streams, images, nearAlloc, farAlloc, spillAlloc, spill, groups,
        clusters, ctr, mem := t.mem, channels, ports, chans, eqx, cometUnit, cometToOff, cometResetAfter, cfg, power,
        safety, vigil, log, repair, armed, boot, keys, spillKey }) :
    Keeps F s
      { pending := t.pending, now := t.now, free, outs, life, owner, sq, cq, hif, inflight, nextCmd, fenced,
        safePort, latches, hostMem := t.hostMem, streams, images, nearAlloc, farAlloc, spillAlloc, spill, groups,
        clusters, ctr, mem := t.mem, channels, ports, chans, eqx, cometUnit, cometToOff, cometResetAfter, cfg, power,
        safety, vigil, log, repair, armed, boot, keys, spillKey } :=
  h.trans ⟨by simp, by simp, id, id, hb, hr, ho, hl, hf⟩

/-- What a command or event answers: a next state, reached from the state at some time within the footprint. -/
def Next (F : Nat) (s : State) (x : Host.Outcome State Fault Refusal) : Prop :=
  ∃ t s', x = .next s' ∧ Keeps F (s.advance t) s'

theorem Next.of {F : Nat} {s s' : State} (h : ∃ t, Keeps F (s.advance t) s') : Next F s (.next s') :=
  h.elim fun t k => ⟨t, s', by simp, k⟩

/-- Either of two states. -/
theorem Keeps.ite {F : Nat} {s₀ a b : State} {c : Prop} [Decidable c] (h : Keeps F s₀ a) (k : Keeps F s₀ b) :
    Keeps F s₀ (if c then a else b) := by
  split <;> assumption

theorem Keeps.ite_fst {β : Type} {F : Nat} {s₀ : State} {a b : State × β} {c : Prop} [Decidable c]
    (h : Keeps F s₀ a.1) (k : Keeps F s₀ b.1) : Keeps F s₀ (if c then a else b).1 := by
  split <;> assumption

/-- Folding an operation over a list. -/
theorem Keeps.foldl {α : Type} {F : Nat} {s₀ : State} {f : State → α → State} (hf : ∀ s a, Keeps F s (f s a))
    (l : List α) : ∀ s, Keeps F s₀ s → Keeps F s₀ (l.foldl f s) := by
  induction l with
  | nil => exact fun s h => h
  | cons a r ih => exact fun s h => ih _ (h.trans (hf s a))

/-- Folding with an accumulator whose first component is the state. -/
theorem Keeps.foldl_fst {α β : Type} {F : Nat} {s₀ : State} {f : State × β → α → State × β} {l : List α}
    {p : State × β} (hf : ∀ p a, Keeps F s₀ p.1 → Keeps F s₀ (f p a).1) (h : Keeps F s₀ p.1) :
    Keeps F s₀ (l.foldl f p).1 := by
  induction l generalizing p with
  | nil => exact h
  | cons a r ih => exact ih (hf p a h)

theorem Keeps.pair_foldl {α β : Type} {F : Nat} {s₀ s' : State} {x : β} {f : State × β → α → State × β} {l : List α}
    {p : State × β} (e : l.foldl f p = (s', x)) (hf : ∀ p a, Keeps F s₀ p.1 → Keeps F s₀ (f p a).1)
    (h : Keeps F s₀ p.1) : Keeps F s₀ s' := by
  have k := Keeps.foldl_fst (l := l) hf h
  rw [e] at k
  exact k

/-- A state that may be missing, and the one taken in its place. -/
theorem Keeps.getD {F : Nat} {s₀ s : State} {o : Option State} (ho : ∀ t, o = some t → Keeps F s₀ t)
    (h : Keeps F s₀ s) : Keeps F s₀ (o.getD s) := by
  cases o with
  | none => exact h
  | some t => exact ho t (Eq.refl _)

theorem writeCells_wf (l : List Byte) : ∀ (m : List Host.Cell) (a : Nat), Memory.wf m = true →
    Memory.wf (writeCells m a l) = true := by
  induction l with
  | nil => exact fun m a h => h
  | cons b r ih => exact fun m a h => ih _ _ (tput_wf _ h _ _)

theorem keeps_hostWriteAs {F : Nat} {s₀ s : State} (hF : Sub 0x800 F) (h : Keeps F s₀ s) (x : Bool) (a : Nat)
    (l : List Byte) : Keeps F s₀ (s.hostWriteAs x a l) := by
  unfold State.hostWriteAs
  split
  · refine h.trans ⟨rfl, rfl, id, fun w => writeCells_wf _ _ _ w, .rfl, List.prefix_refl _, id, id, .of fun p => ?_⟩
    cases p <;> first | exact .inl rfl | exact .inl ⟨rfl, rfl, rfl⟩ | exact .inr (hF.bit rfl)
  · exact h

theorem keeps_memPutByte {F : Nat} {s₀ s : State} (hF : Sub 0x200000 F) (h : Keeps F s₀ s) (a : Nat) (b : Byte) :
    Keeps F s₀ (s.memPutByte a b) := by
  unfold State.memPutByte
  split
  · refine h.trans ⟨rfl, rfl, fun w => tput_wf _ w _ _, id, .rfl, List.prefix_refl _, id, id, .of fun p => ?_⟩
    cases p <;> first | exact .inl rfl | exact .inl ⟨rfl, rfl, rfl⟩ | exact .inr (hF.bit rfl)
  · exact h

theorem keeps_memWrite {F : Nat} {s₀ : State} (l : List Byte) (hF : Sub 0x200000 F) : ∀ {s : State} (_ : Keeps F s₀ s)
    (a : Nat), Keeps F s₀ (s.memWrite a l) := by
  induction l with
  | nil => exact fun h a => h
  | cons b r ih => exact fun h a => ih (keeps_memPutByte hF h a b) (a + 1)

end Sys2Proof.Machine
end

