-- ==== Sys2Proof/Laws/KeepsShared.lean ====
section
/-! SUPPORT. One lemma for each operation of the shared operations, the event log, completions, the arrival of commands and chunks: it keeps what `Keeps` says, within its
footprint. -/

namespace Sys2Proof.Machine

open Sys2Proof.Safety

theorem keeps_setGrp {F : Nat} {s₀ s : State} (hF : Sub 0x40000 F) (h : Keeps F s₀ s) (a1 : Nat) (a2 : Group) :
    Keeps F s₀ (State.setGrp s a1 a2) := by
  unfold State.setGrp; try dsimp only
  repeat' first
    | with_reducible assumption
    | (refine .of fun p => ?_; cases p <;> first | exact .inr (hF.bit rfl) | (dsimp only [Part.same]; first | exact .inl rfl | exact .inl ⟨rfl, rfl, rfl⟩))
    | intro _ | with_reducible exact .rfl | exact List.prefix_refl _ | with_reducible apply Keeps.upd

theorem keeps_modGrp {F : Nat} {s₀ s : State} (hF : Sub 0x40000 F) (h : Keeps F s₀ s) (a1 : Nat) (a2 : Group →
    Group) :
    Keeps F s₀ (State.modGrp s a1 a2) := by
  unfold State.modGrp; try dsimp only
  repeat' first
    | with_reducible assumption | with_reducible apply keeps_setGrp

theorem keeps_setClu {F : Nat} {s₀ s : State} (hF : Sub 0x80000 F) (h : Keeps F s₀ s) (a1 : Nat) (a2 : Nat) (a3 :
    Cluster) :
    Keeps F s₀ (State.setClu s a1 a2 a3) := by
  unfold State.setClu; try dsimp only
  repeat' first
    | with_reducible assumption
    | (refine .of fun p => ?_; cases p <;> first | exact .inr (hF.bit rfl) | (dsimp only [Part.same]; first | exact .inl rfl | exact .inl ⟨rfl, rfl, rfl⟩))
    | intro _ | with_reducible exact .rfl | exact List.prefix_refl _ | with_reducible apply Keeps.upd

theorem keeps_modClu {F : Nat} {s₀ s : State} (hF : Sub 0x80000 F) (h : Keeps F s₀ s) (a1 : Nat) (a2 : Nat) (a3 :
    Cluster → Cluster) :
    Keeps F s₀ (State.modClu s a1 a2 a3) := by
  unfold State.modClu; try dsimp only
  repeat' first
    | with_reducible assumption | with_reducible apply keeps_setClu

theorem keeps_setStr {F : Nat} {s₀ s : State} (hF : Sub 0x1000 F) (h : Keeps F s₀ s) (a1 : Nat) (a2 : Stream) :
    Keeps F s₀ (State.setStr s a1 a2) := by
  unfold State.setStr; try dsimp only
  repeat' first
    | with_reducible assumption
    | (refine .of fun p => ?_; cases p <;> first | exact .inr (hF.bit rfl) | (dsimp only [Part.same]; first | exact .inl rfl | exact .inl ⟨rfl, rfl, rfl⟩))
    | intro _ | with_reducible exact .rfl | exact List.prefix_refl _ | with_reducible apply Keeps.upd

theorem keeps_modStr {F : Nat} {s₀ s : State} (hF : Sub 0x1000 F) (h : Keeps F s₀ s) (a1 : Nat) (a2 : Stream →
    Stream) :
    Keeps F s₀ (State.modStr s a1 a2) := by
  unfold State.modStr; try dsimp only
  repeat' first
    | with_reducible assumption | with_reducible apply keeps_setStr

theorem keeps_setImg {F : Nat} {s₀ s : State} (hF : Sub 0x2000 F) (h : Keeps F s₀ s) (a1 : Nat) (a2 : Image) :
    Keeps F s₀ (State.setImg s a1 a2) := by
  unfold State.setImg; try dsimp only
  repeat' first
    | with_reducible assumption
    | (refine .of fun p => ?_; cases p <;> first | exact .inr (hF.bit rfl) | (dsimp only [Part.same]; first | exact .inl rfl | exact .inl ⟨rfl, rfl, rfl⟩))
    | intro _ | with_reducible exact .rfl | exact List.prefix_refl _ | with_reducible apply Keeps.upd

theorem keeps_setSq {F : Nat} {s₀ s : State} (hF : Sub 0x8 F) (h : Keeps F s₀ s) (a1 : Nat) (a2 : SqRing) :
    Keeps F s₀ (State.setSq s a1 a2) := by
  unfold State.setSq; try dsimp only
  repeat' first
    | with_reducible assumption
    | (refine .of fun p => ?_; cases p <;> first | exact .inr (hF.bit rfl) | (dsimp only [Part.same]; first | exact .inl rfl | exact .inl ⟨rfl, rfl, rfl⟩))
    | intro _ | with_reducible exact .rfl | exact List.prefix_refl _ | with_reducible apply Keeps.upd

theorem keeps_setCq {F : Nat} {s₀ s : State} (hF : Sub 0x10 F) (h : Keeps F s₀ s) (a1 : Nat) (a2 : CqRing) :
    Keeps F s₀ (State.setCq s a1 a2) := by
  unfold State.setCq; try dsimp only
  repeat' first
    | with_reducible assumption
    | (refine .of fun p => ?_; cases p <;> first | exact .inr (hF.bit rfl) | (dsimp only [Part.same]; first | exact .inl rfl | exact .inl ⟨rfl, rfl, rfl⟩))
    | intro _ | with_reducible exact .rfl | exact List.prefix_refl _ | with_reducible apply Keeps.upd

theorem keeps_setPrt {F : Nat} {s₀ s : State} (hF : Sub 0x800000 F) (h : Keeps F s₀ s) (a1 : Nat) (a2 : Port) :
    Keeps F s₀ (State.setPrt s a1 a2) := by
  unfold State.setPrt; try dsimp only
  repeat' first
    | with_reducible assumption
    | (refine .of fun p => ?_; cases p <;> first | exact .inr (hF.bit rfl) | (dsimp only [Part.same]; first | exact .inl rfl | exact .inl ⟨rfl, rfl, rfl⟩))
    | intro _ | with_reducible exact .rfl | exact List.prefix_refl _ | with_reducible apply Keeps.upd

theorem keeps_modPrt {F : Nat} {s₀ s : State} (hF : Sub 0x800000 F) (h : Keeps F s₀ s) (a1 : Nat) (a2 : Port → Port) :
    Keeps F s₀ (State.modPrt s a1 a2) := by
  unfold State.modPrt; try dsimp only
  repeat' first
    | with_reducible assumption | with_reducible apply keeps_setPrt

theorem keeps_setChn {F : Nat} {s₀ s : State} (hF : Sub 0x1000000 F) (h : Keeps F s₀ s) (a1 : Nat) (a2 : Nat) (a3 :
    Nat) (a4 : Chan) :
    Keeps F s₀ (State.setChn s a1 a2 a3 a4) := by
  unfold State.setChn; try dsimp only
  repeat' first
    | with_reducible assumption
    | (refine .of fun p => ?_; cases p <;> first | exact .inr (hF.bit rfl) | (dsimp only [Part.same]; first | exact .inl rfl | exact .inl ⟨rfl, rfl, rfl⟩))
    | intro _ | with_reducible exact .rfl | exact List.prefix_refl _ | with_reducible apply Keeps.upd

theorem keeps_setEqx {F : Nat} {s₀ s : State} (hF : Sub 0x2000000 F) (h : Keeps F s₀ s) (a1 : Nat) (a2 : Eqx) :
    Keeps F s₀ (State.setEqx s a1 a2) := by
  unfold State.setEqx; try dsimp only
  repeat' first
    | with_reducible assumption
    | (refine .of fun p => ?_; cases p <;> first | exact .inr (hF.bit rfl) | (dsimp only [Part.same]; first | exact .inl rfl | exact .inl ⟨rfl, rfl, rfl⟩))
    | intro _ | with_reducible exact .rfl | exact List.prefix_refl _ | with_reducible apply Keeps.upd

theorem keeps_setMemCh {F : Nat} {s₀ s : State} (hF : Sub 0x400000 F) (h : Keeps F s₀ s) (a1 : Nat) (a2 : Channel) :
    Keeps F s₀ (State.setMemCh s a1 a2) := by
  unfold State.setMemCh; try dsimp only
  repeat' first
    | with_reducible assumption
    | (refine .of fun p => ?_; cases p <;> first | exact .inr (hF.bit rfl) | (dsimp only [Part.same]; first | exact .inl rfl | exact .inl ⟨rfl, rfl, rfl⟩))
    | intro _ | with_reducible exact .rfl | exact List.prefix_refl _ | with_reducible apply Keeps.upd

theorem keeps_setSafeS {F : Nat} {s₀ s : State} (hF : Sub 0x20000000 F) (h : Keeps F s₀ s) (a1 : Nat) (a2 : SafeS) :
    Keeps F s₀ (State.setSafeS s a1 a2) := by
  unfold State.setSafeS; try dsimp only
  repeat' first
    | with_reducible assumption
    | (refine .of fun p => ?_; cases p <;> first | exact .inr (hF.bit rfl) | (dsimp only [Part.same]; first | exact .inl rfl | exact .inl ⟨rfl, rfl, rfl⟩))
    | intro _ | with_reducible exact .rfl | exact List.prefix_refl _ | with_reducible apply Keeps.upd

theorem keeps_drawFree {F : Nat} {s₀ s : State} (hF : Sub 0x1 F) (h : Keeps F s₀ s)  :
    Keeps F s₀ (State.drawFree s).2 := by
  unfold State.drawFree; try dsimp only
  repeat' first
    | with_reducible assumption
    | (refine .of fun p => ?_; cases p <;> first | exact .inr (hF.bit rfl) | (dsimp only [Part.same]; first | exact .inl rfl | exact .inl ⟨rfl, rfl, rfl⟩))
    | intro _ | with_reducible exact .rfl | exact List.prefix_refl _ | with_reducible apply Keeps.upd
theorem keeps_pair_drawFree {F : Nat} {s₀ s s' : State} (hF : Sub 0x1 F) {r}
    (e : State.drawFree s = (r, s')) (h : Keeps F s₀ s) : Keeps F s₀ s' := by
  have k := keeps_drawFree hF h ; rw [e] at k; exact k

theorem keeps_drawRandom {F : Nat} {s₀ s : State} (hF : Sub 0x1 F) (h : Keeps F s₀ s)  :
    Keeps F s₀ (State.drawRandom s).2 := by
  unfold State.drawRandom; try dsimp only
  repeat' first
    | with_reducible assumption
    | (refine .of fun p => ?_; cases p <;> first | exact .inr (hF.bit rfl) | (dsimp only [Part.same]; first | exact .inl rfl | exact .inl ⟨rfl, rfl, rfl⟩))
    | intro _ | with_reducible exact .rfl | exact List.prefix_refl _ | with_reducible apply Keeps.upd
theorem keeps_pair_drawRandom {F : Nat} {s₀ s s' : State} (hF : Sub 0x1 F) {r}
    (e : State.drawRandom s = (r, s')) (h : Keeps F s₀ s) : Keeps F s₀ s' := by
  have k := keeps_drawRandom hF h ; rw [e] at k; exact k

theorem keeps_setCtr {F : Nat} {s₀ s : State} (hF : Sub 0x100000 F) (h : Keeps F s₀ s) (a1 : Nat) (a2 : Nat) :
    Keeps F s₀ (State.setCtr s a1 a2) := by
  unfold State.setCtr; try dsimp only
  repeat' first
    | with_reducible assumption
    | (refine .of fun p => ?_; cases p <;> first | exact .inr (hF.bit rfl) | (dsimp only [Part.same]; first | exact .inl rfl | exact .inl ⟨rfl, rfl, rfl⟩))
    | intro _ | with_reducible exact .rfl | exact List.prefix_refl _ | with_reducible apply Keeps.upd

theorem keeps_count {F : Nat} {s₀ s : State} (hF : Sub 0x100000 F) (h : Keeps F s₀ s) (a1 : Nat) (a2 : Nat) :
    Keeps F s₀ (State.count s a1 a2) := by
  unfold State.count; try dsimp only
  repeat' first
    | with_reducible assumption | with_reducible apply keeps_setCtr

theorem keeps_count64 {F : Nat} {s₀ s : State} (hF : Sub 0x100000 F) (h : Keeps F s₀ s) (a1 : Nat) :
    Keeps F s₀ (State.count64 s a1) := by
  unfold State.count64; try dsimp only
  repeat' first
    | with_reducible assumption | with_reducible apply keeps_setCtr

theorem keeps_countMax {F : Nat} {s₀ s : State} (hF : Sub 0x100000 F) (h : Keeps F s₀ s) (a1 : Nat) (a2 : Nat) :
    Keeps F s₀ (State.countMax s a1 a2) := by
  unfold State.countMax; try dsimp only
  repeat' first
    | with_reducible assumption | with_reducible apply keeps_setCtr

theorem keeps_hostWrite {F : Nat} {s₀ s : State} (hF : Sub 0x800 F) (h : Keeps F s₀ s) (a1 : Nat) (a2 : List Byte) :
    Keeps F s₀ (State.hostWrite s a1 a2) := by
  unfold State.hostWrite; try dsimp only
  repeat' first
    | with_reducible assumption | with_reducible apply keeps_hostWriteAs

theorem keeps_hostWriteRelaxed {F : Nat} {s₀ s : State} (hF : Sub 0x800 F) (h : Keeps F s₀ s) (a1 : Nat) (a2 : List
    Byte) :
    Keeps F s₀ (State.hostWriteRelaxed s a1 a2) := by
  unfold State.hostWriteRelaxed; try dsimp only
  repeat' first
    | with_reducible assumption | with_reducible apply keeps_hostWriteAs

theorem keeps_memPutRow {F : Nat} {s₀ s : State} (hF : Sub 0x200000 F) (h : Keeps F s₀ s) (a1 : Nat) (a2 : Row) :
    Keeps F s₀ (State.memPutRow s a1 a2) := by
  unfold State.memPutRow; try dsimp only
  repeat' first
    | with_reducible assumption | with_reducible apply keeps_memWrite

theorem keeps_emit {F : Nat} {s₀ s : State} (hF : Sub 0x0 F) (h : Keeps F s₀ s) (a1 : Out) :
    Keeps F s₀ (State.emit s a1) := by
  unfold State.emit; try dsimp only
  repeat' first
    | with_reducible assumption
    | (refine .of fun p => ?_; cases p <;> first | exact .inr (hF.bit rfl) | (dsimp only [Part.same]; first | exact .inl rfl | exact .inl ⟨rfl, rfl, rfl⟩))
    | intro _ | with_reducible exact .rfl | exact List.prefix_refl _ | with_reducible apply Keeps.upd

theorem keeps_sendMsi {F : Nat} {s₀ s : State} (hF : Sub 0x820 F) (h : Keeps F s₀ s) (a1 : Nat) :
    Keeps F s₀ (State.sendMsi s a1) := by
  unfold State.sendMsi; try dsimp only
  repeat' first
    | with_reducible assumption | exact .trans (by decide) hF
    | (refine .of fun p => ?_; cases p <;> first | exact .inr (hF.bit rfl) | (dsimp only [Part.same]; first | exact .inl rfl | exact .inl ⟨rfl, rfl, rfl⟩))
    | intro _ | with_reducible exact .rfl | with_reducible apply keeps_hostWrite
    | with_reducible apply keeps_emit | split | exact List.prefix_refl _ | with_reducible apply Keeps.upd

theorem keeps_sendCauses {F : Nat} {s₀ : State} (hF : Sub 0x820 F) (a1 : List Nat) :
    ∀ {s : State}, Keeps F s₀ s → Keeps F s₀ (State.sendCauses s a1) := by
  induction a1 with
  | nil => exact fun h => h
  | cons v r ih =>
    intro s h
    simp only [State.sendCauses]
    repeat' first
      | with_reducible assumption
      | (refine .of fun p => ?_; cases p <;> first | exact .inr (hF.bit rfl) | (dsimp only [Part.same]; first | exact .inl rfl | exact .inl ⟨rfl, rfl, rfl⟩))
      | split | with_reducible apply ih | with_reducible apply keeps_sendMsi | exact id
      | exact List.prefix_refl _ | exact BootKeeps.rfl | with_reducible apply Keeps.upd

theorem keeps_raiseInts {F : Nat} {s₀ s : State} (hF : Sub 0x820 F) (h : Keeps F s₀ s) (a1 : List Nat) :
    Keeps F s₀ (State.raiseInts s a1) := by
  unfold State.raiseInts; try dsimp only
  repeat' first
    | with_reducible assumption
    | (refine .of fun p => ?_; cases p <;> first | exact .inr (hF.bit rfl) | (dsimp only [Part.same]; first | exact .inl rfl | exact .inl ⟨rfl, rfl, rfl⟩))
    | intro _ | with_reducible exact .rfl | with_reducible apply keeps_sendCauses | split
    | exact List.prefix_refl _ | with_reducible apply Keeps.upd

theorem keeps_mirrorEntry {F : Nat} {s₀ s : State} (hF : Sub 0x80100800 F) (h : Keeps F s₀ s) (a1 : LogEntry) :
    Keeps F s₀ (State.mirrorEntry s a1) := by
  unfold State.mirrorEntry; try dsimp only
  repeat' first
    | with_reducible assumption | exact .trans (by decide) hF
    | (refine .of fun p => ?_; cases p <;> first | exact .inr (hF.bit rfl) | (dsimp only [Part.same]; first | exact .inl rfl | exact .inl ⟨rfl, rfl, rfl⟩))
    | intro _ | with_reducible exact .rfl | with_reducible apply keeps_hostWrite
    | with_reducible apply keeps_count | split | exact List.prefix_refl _ | with_reducible apply Keeps.upd

theorem keeps_logFrom {F : Nat} {s₀ s : State} (hF : Sub 0x80000000 F) (h : Keeps F s₀ s) (a1 : Nat) (a2 : Bool)
    (a3 : Nat) (a4 : Nat) (a5 : Nat) (a6 : Nat) (a7 : List Byte) :
    Keeps F s₀ (State.logFrom s a1 a2 a3 a4 a5 a6 a7) := by
  unfold State.logFrom; try dsimp only
  repeat' first
    | with_reducible assumption
    | (refine .of fun p => ?_; cases p <;> first | exact .inr (hF.bit rfl) | (dsimp only [Part.same]; first | exact .inl rfl | exact .inl ⟨rfl, rfl, rfl⟩))
    | intro _ | with_reducible exact .rfl | exact List.prefix_refl _ | with_reducible apply Keeps.upd

theorem keeps_logAs {F : Nat} {s₀ s : State} (hF : Sub 0x80000000 F) (h : Keeps F s₀ s) (a1 : Bool) (a2 : Nat) (a3
    : Nat) (a4 : Nat) (a5 : Nat) (a6 : List Byte) :
    Keeps F s₀ (State.logAs s a1 a2 a3 a4 a5 a6) := by
  unfold State.logAs; try dsimp only
  repeat' first
    | with_reducible assumption | with_reducible apply keeps_logFrom

theorem keeps_logEvent {F : Nat} {s₀ s : State} (hF : Sub 0x80000000 F) (h : Keeps F s₀ s) (a1 : Nat) (a2 : Nat)
    (a3 : Nat) (a4 : Nat) (a5 : List Byte) :
    Keeps F s₀ (State.logEvent s a1 a2 a3 a4 a5) := by
  unfold State.logEvent; try dsimp only
  repeat' first
    | with_reducible assumption | with_reducible apply keeps_logAs

theorem keeps_numberEntry {F : Nat} {s₀ s : State} (hF : Sub 0x80100820 F) (h : Keeps F s₀ s) (a1 : LogEntry) :
    Keeps F s₀ (State.numberEntry s a1) := by
  unfold State.numberEntry; try dsimp only
  repeat' first
    | with_reducible assumption | exact .trans (by decide) hF
    | (refine .of fun p => ?_; cases p <;> first | exact .inr (hF.bit rfl) | (dsimp only [Part.same]; first | exact .inl rfl | exact .inl ⟨rfl, rfl, rfl⟩))
    | intro _ | with_reducible exact .rfl | with_reducible apply keeps_raiseInts
    | with_reducible apply keeps_count | with_reducible apply keeps_mirrorEntry | split
    | exact List.prefix_refl _ | with_reducible apply Keeps.upd

theorem keeps_numberEntries {F : Nat} {s₀ s : State} (hF : Sub 0x80100820 F) (h : Keeps F s₀ s)  :
    Keeps F s₀ (State.numberEntries s) := by
  unfold State.numberEntries; try dsimp only
  repeat' first
    | with_reducible assumption
    | (refine .of fun p => ?_; cases p <;> first | exact .inr (hF.bit rfl) | (dsimp only [Part.same]; first | exact .inl rfl | exact .inl ⟨rfl, rfl, rfl⟩))
    | intro _ | with_reducible exact .rfl | with_reducible apply keeps_numberEntry
    | with_reducible apply Keeps.foldl | exact List.prefix_refl _ | with_reducible apply Keeps.upd

theorem keeps_asInjected {F : Nat} {s₀ s : State} (hF : Sub 0x80000000 F) (h : Keeps F s₀ s) (a1 : State → State)
    (h1 : ∀ (x0 : State) (s₁ : State), Keeps F s₁ x0 → Keeps F s₁ (a1 x0)) :
    Keeps F s₀ (State.asInjected s a1) := by
  unfold State.asInjected; try dsimp only
  repeat' first
    | with_reducible assumption
    | (refine .of fun p => ?_; cases p <;> first | exact .inr (hF.bit rfl) | (dsimp only [Part.same]; first | exact .inl rfl | exact .inl ⟨rfl, rfl, rfl⟩))
    | intro _ | with_reducible exact .rfl | apply h1 | exact List.prefix_refl _
    | with_reducible apply Keeps.upd

theorem keeps_signalCq {F : Nat} {s₀ s : State} (hF : Sub 0x830 F) (h : Keeps F s₀ s) (a1 : Nat) :
    Keeps F s₀ (State.signalCq s a1) := by
  unfold State.signalCq; try dsimp only
  repeat' first
    | with_reducible assumption | exact .trans (by decide) hF | with_reducible apply keeps_sendMsi
    | with_reducible apply keeps_setCq

theorem keeps_writeEntry {F : Nat} {s₀ s : State} (hF : Sub 0x830 F) (h : Keeps F s₀ s) (a1 : Nat) (a2 : List Byte) :
    Keeps F s₀ (State.writeEntry s a1 a2) := by
  unfold State.writeEntry; try dsimp only
  repeat' first
    | with_reducible assumption | exact .trans (by decide) hF | with_reducible apply keeps_hostWrite
    | with_reducible apply keeps_setCq | with_reducible apply keeps_signalCq | split

theorem keeps_dropEntry {F : Nat} {s₀ s : State} (hF : Sub 0x80100010 F) (h : Keeps F s₀ s) (a1 : Nat) :
    Keeps F s₀ (State.dropEntry s a1) := by
  unfold State.dropEntry; try dsimp only
  repeat' first
    | with_reducible assumption | exact .trans (by decide) hF | with_reducible apply keeps_logEvent
    | with_reducible apply keeps_count | with_reducible apply keeps_setCq

theorem keeps_postEntry {F : Nat} {s₀ s : State} (hF : Sub 0x80100830 F) (h : Keeps F s₀ s) (a1 : Nat) (a2 : List
    Byte) :
    Keeps F s₀ (State.postEntry s a1 a2) := by
  unfold State.postEntry; try dsimp only
  repeat' first
    | with_reducible assumption | exact .trans (by decide) hF | with_reducible apply keeps_writeEntry
    | with_reducible apply keeps_setCq | with_reducible apply keeps_dropEntry | split

theorem keeps_postBacklog {F : Nat} {s₀ : State} (hF : Sub 0x830 F) (a1 a2 : Nat) :
    ∀ {s : State}, Keeps F s₀ s → Keeps F s₀ (State.postBacklog a1 a2 s) := by
  induction a2 with
  | zero => exact fun h => h
  | succ f ih =>
    intro s h
    simp only [State.postBacklog]
    repeat' first
      | with_reducible assumption | exact .trans (by decide) hF | split | with_reducible apply ih
      | with_reducible apply keeps_writeEntry | with_reducible apply keeps_setCq

theorem keeps_postChunk {F : Nat} {s₀ s : State} (hF : Sub 0x80100830 F) (h : Keeps F s₀ s) (a1 : Nat) (a2 :
    ChunkReport) :
    Keeps F s₀ (State.postChunk s a1 a2) := by
  unfold State.postChunk; try dsimp only
  repeat' first
    | with_reducible assumption | with_reducible apply keeps_postEntry

theorem keeps_deliver {F : Nat} {s₀ s : State} (hF : Sub 0x80100a30 F) (h : Keeps F s₀ s) (a1 : Inflight) (a2 :
    Nat) (a3 : List Byte) :
    Keeps F s₀ (State.deliver s a1 a2 a3) := by
  unfold State.deliver; try dsimp only
  repeat' first
    | with_reducible assumption | exact .trans (by decide) hF
    | (refine .of fun p => ?_; cases p <;> first | exact .inr (hF.bit rfl) | (dsimp only [Part.same]; first | exact .inl rfl | exact .inl ⟨rfl, rfl, rfl⟩))
    | intro _ | with_reducible exact .rfl | with_reducible apply keeps_count64
    | with_reducible apply keeps_count | with_reducible apply keeps_postEntry | with_reducible apply keeps_emit
    | split | exact List.prefix_refl _ | with_reducible apply Keeps.upd

theorem keeps_flushDone {F : Nat} {s₀ s : State} (hF : Sub 0x80100a70 F) (h : Keeps F s₀ s)  :
    Keeps F s₀ (State.flushDone s) := by
  unfold State.flushDone; try dsimp only
  repeat' first
    | with_reducible assumption | exact .trans (by decide) hF
    | (refine .of fun p => ?_; cases p <;> first | exact .inr (hF.bit rfl) | (dsimp only [Part.same]; first | exact .inl rfl | exact .inl ⟨rfl, rfl, rfl⟩))
    | intro _ | with_reducible exact .rfl | with_reducible apply keeps_deliver | split
    | with_reducible apply Keeps.foldl | exact List.prefix_refl _ | with_reducible apply Keeps.upd

theorem keeps_takesEffect {F : Nat} {s₀ s : State} (hF : Sub 0x40 F) (h : Keeps F s₀ s) (a1 : Nat) :
    Keeps F s₀ (State.takesEffect s a1) := by
  unfold State.takesEffect; try dsimp only
  repeat' first
    | with_reducible assumption
    | (refine .of fun p => ?_; cases p <;> first | exact .inr (hF.bit rfl) | (dsimp only [Part.same]; first | exact .inl rfl | exact .inl ⟨rfl, rfl, rfl⟩))
    | intro _ | with_reducible exact .rfl | exact List.prefix_refl _ | with_reducible apply Keeps.upd

theorem keeps_finish {F : Nat} {s₀ s : State} (hF : Sub 0x80100a70 F) (h : Keeps F s₀ s) (a1 : Nat) (a2 : Nat) (a3
    : List Byte) :
    Keeps F s₀ (State.finish s a1 a2 a3) := by
  unfold State.finish; try dsimp only
  repeat' first
    | with_reducible assumption | exact .trans (by decide) hF
    | (refine .of fun p => ?_; cases p <;> first | exact .inr (hF.bit rfl) | (dsimp only [Part.same]; first | exact .inl rfl | exact .inl ⟨rfl, rfl, rfl⟩))
    | intro _ | with_reducible exact .rfl | with_reducible apply keeps_takesEffect
    | with_reducible apply keeps_flushDone | exact List.prefix_refl _ | with_reducible apply Keeps.upd

theorem keeps_failCmd {F : Nat} {s₀ s : State} (hF : Sub 0x80100a70 F) (h : Keeps F s₀ s) (a1 : Nat) (a2 : Nat) :
    Keeps F s₀ (State.failCmd s a1 a2) := by
  unfold State.failCmd; try dsimp only
  repeat' first
    | with_reducible assumption | exact .trans (by decide) hF
    | (refine .of fun p => ?_; cases p <;> first | exact .inr (hF.bit rfl) | (dsimp only [Part.same]; first | exact .inl rfl | exact .inl ⟨rfl, rfl, rfl⟩))
    | intro _ | with_reducible exact .rfl | with_reducible apply keeps_flushDone
    | with_reducible apply keeps_deliver | split | exact List.prefix_refl _ | with_reducible apply Keeps.upd

theorem keeps_waitCmd {F : Nat} {s₀ s : State} (hF : Sub 0x40 F) (h : Keeps F s₀ s) (a1 : Nat) :
    Keeps F s₀ (State.waitCmd s a1) := by
  unfold State.waitCmd; try dsimp only
  repeat' first
    | with_reducible assumption
    | (refine .of fun p => ?_; cases p <;> first | exact .inr (hF.bit rfl) | (dsimp only [Part.same]; first | exact .inl rfl | exact .inl ⟨rfl, rfl, rfl⟩))
    | intro _ | with_reducible exact .rfl | exact List.prefix_refl _ | with_reducible apply Keeps.upd

theorem keeps_finishAll {F : Nat} {s₀ s : State} (hF : Sub 0x80100a70 F) (h : Keeps F s₀ s) (a1 : List Nat) (a2 :
    Nat) (a3 : List Byte) :
    Keeps F s₀ (State.finishAll s a1 a2 a3) := by
  unfold State.finishAll; try dsimp only
  repeat' first
    | with_reducible assumption | intro _ | with_reducible exact .rfl | with_reducible apply keeps_finish
    | with_reducible apply Keeps.foldl

theorem keeps_endInject {F : Nat} {s₀ s : State} (hF : Sub 0x280100a70 F) (h : Keeps F s₀ s) (a1 : Nat) :
    Keeps F s₀ (State.endInject s a1) := by
  unfold State.endInject; try dsimp only
  repeat' first
    | with_reducible assumption | exact .trans (by decide) hF
    | (refine .of fun p => ?_; cases p <;> first | exact .inr (hF.bit rfl) | (dsimp only [Part.same]; first | exact .inl rfl | exact .inl ⟨rfl, rfl, rfl⟩))
    | intro _ | with_reducible exact .rfl | with_reducible apply keeps_finish | split
    | exact List.prefix_refl _ | with_reducible apply Keeps.upd

theorem keeps_fireArmed {F : Nat} {s₀ s : State} (hF : Sub 0x280100a70 F) (h : Keeps F s₀ s) (a1 : Nat) :
    Keeps F s₀ (State.fireArmed s a1).2 := by
  unfold State.fireArmed; try dsimp only
  repeat' first
    | with_reducible assumption | exact .trans (by decide) hF
    | (refine .of fun p => ?_; cases p <;> first | exact .inr (hF.bit rfl) | (dsimp only [Part.same]; first | exact .inl rfl | exact .inl ⟨rfl, rfl, rfl⟩))
    | intro _ | with_reducible exact .rfl | with_reducible apply keeps_count
    | with_reducible apply keeps_endInject | split | exact List.prefix_refl _ | with_reducible apply Keeps.upd
theorem keeps_pair_fireArmed {F : Nat} {s₀ s s' : State} (hF : Sub 0x280100a70 F) {r} {a1 : Nat}
    (e : State.fireArmed s a1 = (r, s')) (h : Keeps F s₀ s) : Keeps F s₀ s' := by
  have k := keeps_fireArmed hF h a1; rw [e] at k; exact k

theorem keeps_expireLease {F : Nat} {s₀ s : State} (hF : Sub 0x80000824 F) (h : Keeps F s₀ s)  :
    Keeps F s₀ (State.expireLease s) := by
  unfold State.expireLease; try dsimp only
  repeat' first
    | with_reducible assumption | exact .trans (by decide) hF
    | (refine .of fun p => ?_; cases p <;> first | exact .inr (hF.bit rfl) | (dsimp only [Part.same]; first | exact .inl rfl | exact .inl ⟨rfl, rfl, rfl⟩))
    | intro _ | with_reducible exact .rfl | with_reducible apply keeps_emit
    | with_reducible apply keeps_raiseInts | with_reducible apply keeps_logEvent | split
    | exact List.prefix_refl _ | with_reducible apply Keeps.upd

theorem keeps_renewLease {F : Nat} {s₀ s : State} (hF : Sub 0x4 F) (h : Keeps F s₀ s) (a1 : Master) :
    Keeps F s₀ (State.renewLease s a1) := by
  unfold State.renewLease; try dsimp only
  repeat' first
    | with_reducible assumption
    | (refine .of fun p => ?_; cases p <;> first | exact .inr (hF.bit rfl) | (dsimp only [Part.same]; first | exact .inl rfl | exact .inl ⟨rfl, rfl, rfl⟩))
    | intro _ | with_reducible exact .rfl | split | exact List.prefix_refl _ | with_reducible apply Keeps.upd

theorem keeps_setOwner {F : Nat} {s₀ s : State} (hF : Sub 0x80100824 F) (h : Keeps F s₀ s) (a1 : Nat) (a2 : Bool)
    (a3 : Nat) (ha : a1 ≤ 3) : Keeps F s₀ (State.setOwner s a1 a2 a3) := by
  unfold State.setOwner; try dsimp only
  repeat' first
    | with_reducible assumption | exact .trans (by decide) hF
    | (refine .of fun p => ?_; cases p <;> first | exact .inr (hF.bit rfl) | (dsimp only [Part.same]; first | exact .inl rfl | exact .inl ⟨rfl, rfl, rfl⟩))
    | split | with_reducible apply keeps_emit | with_reducible apply keeps_raiseInts
    | with_reducible apply keeps_logEvent | with_reducible apply keeps_count | exact fun _ => ha | exact id
    | exact List.prefix_refl _ | exact BootKeeps.rfl | with_reducible apply Keeps.upd

theorem inRange_of_refusal {s : State} {h : Hdr} {c : CmdInfo} (e : s.refusal h c = none) : c.inRange = true := by
  unfold State.refusal at e
  (repeat' split at e) <;> simp_all

theorem keeps_takeCmd {F : Nat} {s₀ s : State} (hF : Sub 0x80100a74 F) (h : Keeps F s₀ s) (a1 : Inflight)
    (a2 : CmdInfo) (a3 : Inflight → State → State)
    (h3 : a2.inRange = true → ∀ (x0 : Inflight) (x1 : State) (s₁ : State), Keeps F s₁ x1 → Keeps F s₁ (a3 x0 x1)) :
    Keeps F s₀ (State.takeCmd s a1 a2 a3) := by
  unfold State.takeCmd; dsimp only
  split
  · repeat' first
      | with_reducible assumption | exact .trans (by decide) hF | with_reducible apply keeps_deliver
      | with_reducible apply keeps_renewLease | with_reducible apply keeps_expireLease
  · rename_i e
    refine h3 (inRange_of_refusal e) _ _ _ ?_
    repeat' first
      | with_reducible assumption | exact .trans (by decide) hF
      | (refine .of fun p => ?_; cases p <;> first | exact .inr (hF.bit rfl) | (dsimp only [Part.same]; first | exact .inl rfl | exact .inl ⟨rfl, rfl, rfl⟩))
      | with_reducible apply keeps_renewLease | with_reducible apply keeps_expireLease | exact id
      | exact List.prefix_refl _ | exact BootKeeps.rfl | with_reducible apply Keeps.upd

theorem keeps_reach {F : Nat} {s₀ s : State} (hF : Sub 0x80100bf4 F) (h : Keeps F s₀ s) (a1 : Hdr) (a2 : Instr)
    (a3 a4 : Nat) (a5 : CmdInfo) (a6 : Inflight → State → State)
    (h6 : a5.inRange = true → ∀ (x0 : Inflight) (x1 : State) (s₁ : State), Keeps F s₁ x1 → Keeps F s₁ (a6 x0 x1)) :
    Keeps F s₀ (State.reach s a1 a2 a3 a4 a5 a6) := by
  unfold State.reach; dsimp only
  repeat' first
    | with_reducible assumption | exact .trans (by decide) hF
    | (refine .of fun p => ?_; cases p <;> first | exact .inr (hF.bit rfl) | (dsimp only [Part.same]; first | exact .inl rfl | exact .inl ⟨rfl, rfl, rfl⟩))
    | split | with_reducible apply keeps_takeCmd | exact id | exact List.prefix_refl _ | exact BootKeeps.rfl
    | with_reducible apply Keeps.upd

theorem keeps_fetchEntry {F : Nat} {s₀ s : State} (hF : Sub 0x100028 F) (h : Keeps F s₀ s) (a1 : Nat) :
    Keeps F s₀ (State.fetchEntry s a1) := by
  unfold State.fetchEntry; try dsimp only
  repeat' first
    | with_reducible assumption | exact .trans (by decide) hF
    | (refine .of fun p => ?_; cases p <;> first | exact .inr (hF.bit rfl) | (dsimp only [Part.same]; first | exact .inl rfl | exact .inl ⟨rfl, rfl, rfl⟩))
    | intro _ | with_reducible exact .rfl | with_reducible apply keeps_count | with_reducible apply keeps_setSq
    | exact List.prefix_refl _ | with_reducible apply Keeps.upd

theorem keeps_answer {F : Nat} {s₀ s : State} (hF : Sub 0x80100a30 F) (h : Keeps F s₀ s) (a1 : Hdr) (a2 : Instr)
    (a3 : Nat) :
    Keeps F s₀ (State.answer s a1 a2 a3) := by
  unfold State.answer; try dsimp only
  repeat' first
    | with_reducible assumption | with_reducible apply keeps_deliver

theorem keeps_arrive {F : Nat} {s₀ s : State} (hF : Sub 0x280100bfc F) (h : Keeps F s₀ s) (a1 : Hdr) (a2 : Instr)
    (a3 : CmdInfo) (a4 : Inflight → State → State)
    (h4 : a3.inRange = true → ∀ (x0 : Inflight) (x1 : State) (s₁ : State), Keeps F s₁ x1 → Keeps F s₁ (a4 x0 x1)) :
    Keeps F s₀ (State.arrive s a1 a2 a3 a4) := by
  unfold State.arrive; dsimp only
  repeat' first
    | with_reducible assumption | exact .trans (by decide) hF
    | (refine .of fun p => ?_; cases p <;> first | exact .inr (hF.bit rfl) | (dsimp only [Part.same]; first | exact .inl rfl | exact .inl ⟨rfl, rfl, rfl⟩))
    | split | with_reducible apply keeps_reach | with_reducible apply keeps_answer
    | with_reducible apply keeps_fetchEntry | with_reducible apply keeps_fireArmed | exact id
    | exact List.prefix_refl _ | exact BootKeeps.rfl | with_reducible apply Keeps.upd

theorem keeps_setService {F : Nat} {s₀ s : State} (hF : Sub 0x100000820 F) (h : Keeps F s₀ s)  :
    Keeps F s₀ (State.setService s) := by
  unfold State.setService; try dsimp only
  repeat' first
    | with_reducible assumption | exact .trans (by decide) hF
    | (refine .of fun p => ?_; cases p <;> first | exact .inr (hF.bit rfl) | (dsimp only [Part.same]; first | exact .inl rfl | exact .inl ⟨rfl, rfl, rfl⟩))
    | intro _ | with_reducible exact .rfl | with_reducible apply keeps_raiseInts | split | dsimp only
    | exact List.prefix_refl _ | with_reducible apply Keeps.upd

theorem keeps_writeRecord {F : Nat} {s₀ s : State} (hF : Sub 0x100000000 F) (h : Keeps F s₀ s) (a1 : Nat) (a2 :
    Nat) (a3 : RepairNext) :
    Keeps F s₀ (State.writeRecord s a1 a2 a3) := by
  unfold State.writeRecord; try dsimp only
  repeat' first
    | with_reducible assumption
    | (refine .of fun p => ?_; cases p <;> first | exact .inr (hF.bit rfl) | (dsimp only [Part.same]; first | exact .inl rfl | exact .inl ⟨rfl, rfl, rfl⟩))
    | intro _ | with_reducible exact .rfl | dsimp only | exact List.prefix_refl _
    | with_reducible apply Keeps.upd

theorem keeps_markFailing {F : Nat} {s₀ s : State} (hF : Sub 0x180400820 F) (h : Keeps F s₀ s) (a1 : Nat) :
    Keeps F s₀ (State.markFailing s a1) := by
  unfold State.markFailing; try dsimp only
  repeat' first
    | with_reducible assumption | exact .trans (by decide) hF | with_reducible apply keeps_setService
    | with_reducible apply keeps_writeRecord | with_reducible apply keeps_logEvent
    | with_reducible apply keeps_setMemCh | split

theorem keeps_lastingMemRow {F : Nat} {s₀ s : State} (hF : Sub 0x180400820 F) (h : Keeps F s₀ s) (a1 : Nat) (a2 :
    Nat) :
    Keeps F s₀ (State.lastingMemRow s a1 a2) := by
  unfold State.lastingMemRow; try dsimp only
  repeat' first
    | with_reducible assumption | exact .trans (by decide) hF | with_reducible apply keeps_logEvent
    | with_reducible apply keeps_setMemCh | with_reducible apply keeps_writeRecord
    | with_reducible apply keeps_markFailing | split

theorem keeps_memCorrected {F : Nat} {s₀ s : State} (hF : Sub 0x180500820 F) (h : Keeps F s₀ s) (a1 : Nat) (a2 :
    Nat) :
    Keeps F s₀ (State.memCorrected s a1 a2) := by
  unfold State.memCorrected; try dsimp only
  repeat' first
    | with_reducible assumption | exact .trans (by decide) hF | with_reducible apply keeps_count
    | with_reducible apply keeps_setMemCh | with_reducible apply keeps_lastingMemRow | split

theorem keeps_storedError {F : Nat} {s₀ s : State} (hF : Sub 0x180500820 F) (h : Keeps F s₀ s) (a1 : Nat) (a2 : Nat) :
    Keeps F s₀ (State.storedError s a1 a2) := by
  unfold State.storedError; try dsimp only
  repeat' first
    | with_reducible assumption | exact .trans (by decide) hF | with_reducible apply keeps_logEvent
    | with_reducible apply keeps_count | with_reducible apply keeps_lastingMemRow
    | with_reducible apply keeps_setMemCh | with_reducible apply keeps_markFailing | split

theorem keeps_rowWritten {F : Nat} {s₀ s : State} (hF : Sub 0x180500820 F) (h : Keeps F s₀ s) (a1 : Nat) (a2 : Nat) :
    Keeps F s₀ (State.rowWritten s a1 a2) := by
  unfold State.rowWritten; try dsimp only
  repeat' first
    | with_reducible assumption | exact .trans (by decide) hF | with_reducible apply keeps_count
    | with_reducible apply keeps_markFailing | with_reducible apply keeps_setMemCh | split

theorem keeps_rowsWritten {F : Nat} {s₀ s : State} (hF : Sub 0x180500820 F) (h : Keeps F s₀ s) (a1 : Nat) (a2 :
    Nat) (a3 : WriteRetries) :
    Keeps F s₀ (State.rowsWritten s a1 a2 a3) := by
  unfold State.rowsWritten; try dsimp only
  repeat' first
    | with_reducible assumption | intro _ | with_reducible exact .rfl | with_reducible apply keeps_rowWritten
    | with_reducible apply Keeps.foldl

theorem keeps_memStore {F : Nat} {s₀ s : State} (hF : Sub 0x180700820 F) (h : Keeps F s₀ s) (a1 : Nat) (a2 : List
    Byte) (a3 : WriteRetries) :
    Keeps F s₀ (State.memStore s a1 a2 a3) := by
  unfold State.memStore; try dsimp only
  repeat' first
    | with_reducible assumption | exact .trans (by decide) hF | with_reducible apply keeps_rowsWritten
    | with_reducible apply keeps_memWrite

theorem keeps_meetRow {F : Nat} {s₀ s : State} (hF : Sub 0x180500820 F) (h : Keeps F s₀ s) (a1 : Nat) (a2 : Nat)
    (a3 : RowRead) (a4 : RowRead) :
    Keeps F s₀ (State.meetRow s a1 a2 a3 a4).1 := by
  unfold State.meetRow; try dsimp only
  repeat' first
    | with_reducible assumption | exact .trans (by decide) hF | with_reducible apply keeps_memCorrected
    | with_reducible apply keeps_count | with_reducible apply keeps_storedError | split
theorem keeps_pair_meetRow {F : Nat} {s₀ s s' : State} (hF : Sub 0x180500820 F) {r} {a1 : Nat} {a2 : Nat} {a3 :
    RowRead} {a4 : RowRead}
    (e : State.meetRow s a1 a2 a3 a4 = (s', r)) (h : Keeps F s₀ s) : Keeps F s₀ s' := by
  have k := keeps_meetRow hF h a1 a2 a3 a4; rw [e] at k; exact k

theorem keeps_meetRows {F : Nat} {s₀ s : State} (hF : Sub 0x180500820 F) (h : Keeps F s₀ s) (a1 : Nat) (a2 : Nat)
    (a3 : MemReads) :
    Keeps F s₀ (State.meetRows s a1 a2 a3).1 := by
  unfold State.meetRows; try dsimp only
  repeat' first
    | with_reducible assumption | intro _ | with_reducible apply keeps_meetRow
    | with_reducible apply Keeps.foldl_fst | split
theorem keeps_pair_meetRows {F : Nat} {s₀ s s' : State} (hF : Sub 0x180500820 F) {r} {a1 : Nat} {a2 : Nat} {a3 :
    MemReads}
    (e : State.meetRows s a1 a2 a3 = (s', r)) (h : Keeps F s₀ s) : Keeps F s₀ s' := by
  have k := keeps_meetRows hF h a1 a2 a3; rw [e] at k; exact k

theorem keeps_putRing {F : Nat} {s₀ s : State} (hF : Sub 0x180700820 F) (h : Keeps F s₀ s) (a1 : Nat) (a2 : Nat)
    (a3 : Nat) :
    Keeps F s₀ (State.putRing s a1 a2 a3) := by
  unfold State.putRing; try dsimp only
  repeat' first
    | with_reducible assumption | intro _ | with_reducible exact .rfl | with_reducible apply keeps_memStore
    | with_reducible apply Keeps.foldl

theorem keeps_judge {F : Nat} {s₀ s : State} (hF : Sub 0x20100820 F) (h : Keeps F s₀ s) (a1 : Nat) (a2 : Nat) :
    Keeps F s₀ (State.judge s a1 a2) := by
  unfold State.judge; try dsimp only
  repeat' first
    | with_reducible assumption | exact .trans (by decide) hF | with_reducible apply keeps_setSafeS
    | with_reducible apply keeps_raiseInts | with_reducible apply keeps_count | split

theorem keeps_judgeAll {F : Nat} {s₀ s : State} (hF : Sub 0x20100820 F) (h : Keeps F s₀ s)  :
    Keeps F s₀ (State.judgeAll s) := by
  unfold State.judgeAll; try dsimp only
  repeat' first
    | with_reducible assumption | intro _ | with_reducible exact .rfl | with_reducible apply keeps_judge
    | with_reducible apply Keeps.foldl

theorem keeps_safetyEvent {F : Nat} {s₀ s : State} (hF : Sub 0x20100820 F) (h : Keeps F s₀ s) (a1 : Nat) (a2 : Nat) :
    Keeps F s₀ (State.safetyEvent s a1 a2) := by
  unfold State.safetyEvent; try dsimp only
  repeat' first
    | with_reducible assumption | with_reducible apply keeps_judge | split

theorem keeps_recoverStep {F : Nat} {s₀ s : State} (hF : Sub 0x20100820 F) (h : Keeps F s₀ s) (a1 : Nat) :
    Keeps F s₀ (State.recoverStep s a1) := by
  unfold State.recoverStep; try dsimp only
  repeat' first
    | with_reducible assumption | exact .trans (by decide) hF | with_reducible apply keeps_judge
    | with_reducible apply keeps_setSafeS | split

theorem keeps_countChunk {F : Nat} {s₀ s : State} (hF : Sub 0x100000 F) (h : Keeps F s₀ s) (a1 : Nat) (a2 : Nat) :
    Keeps F s₀ (State.countChunk s a1 a2) := by
  unfold State.countChunk; try dsimp only
  repeat' first
    | with_reducible assumption | with_reducible apply keeps_count64 | split

theorem keeps_completeChunk {F : Nat} {s₀ s : State} (hF : Sub 0xa0101830 F) (h : Keeps F s₀ s) (a1 : Nat) (a2 :
    Chunk) (a3 : ChunkEnd) :
    Keeps F s₀ (State.completeChunk s a1 a2 a3) := by
  unfold State.completeChunk; try dsimp only
  repeat' first
    | with_reducible assumption | exact .trans (by decide) hF | with_reducible apply keeps_setStr
    | with_reducible apply keeps_countChunk | with_reducible apply keeps_count
    | with_reducible apply keeps_postChunk | with_reducible apply keeps_safetyEvent
    | with_reducible apply keeps_recoverStep | split

theorem keeps_endOldest {F : Nat} {s₀ s : State} (hF : Sub 0xa0101830 F) (h : Keeps F s₀ s) (a1 : Nat) (a2 : Nat) :
    Keeps F s₀ (State.endOldest s a1 a2) := by
  unfold State.endOldest; try dsimp only
  repeat' first
    | with_reducible assumption | with_reducible apply keeps_completeChunk | split

theorem keeps_endChunks {F : Nat} {s₀ s : State} (hF : Sub 0xa0101830 F) (h : Keeps F s₀ s) (a1 : Nat) (a2 : Nat)
    (a3 : Chunk → Bool) :
    Keeps F s₀ (State.endChunks s a1 a2 a3) := by
  unfold State.endChunks; try dsimp only
  repeat' first
    | with_reducible assumption | intro _ | with_reducible exact .rfl
    | with_reducible apply keeps_completeChunk | with_reducible apply Keeps.foldl

theorem keeps_endUnstamped {F : Nat} {s₀ : State} (hF : Sub 0xa0101830 F) (a0 : Nat) (a1 : Nat) (a2 : Nat) : ∀ {s :
    State}, Keeps F s₀ s →
    Keeps F s₀ (State.endUnstamped a0 a1 a2 s) := by
  induction a2 with
  | zero => exact fun h => h
  | succ n ih =>
    intro s h
    simp only [State.endUnstamped]
    repeat' first
      | with_reducible assumption | exact .trans (by decide) hF | with_reducible apply ih
      | with_reducible apply keeps_setStr | with_reducible apply keeps_completeChunk | split

theorem keeps_modChunk {F : Nat} {s₀ s : State} (hF : Sub 0x1000 F) (h : Keeps F s₀ s) (a1 : Nat) (a2 : Nat) (a3 :
    Chunk → Chunk) :
    Keeps F s₀ (State.modChunk s a1 a2 a3) := by
  unfold State.modChunk; try dsimp only
  repeat' first
    | with_reducible assumption | with_reducible apply keeps_modStr

theorem keeps_modChunks {F : Nat} {s₀ s : State} (hF : Sub 0x1000 F) (h : Keeps F s₀ s) (a1 : List (Nat × Nat)) (a2
    : Chunk → Chunk) :
    Keeps F s₀ (State.modChunks s a1 a2) := by
  unfold State.modChunks; try dsimp only
  repeat' first
    | with_reducible assumption | intro _ | with_reducible exact .rfl | with_reducible apply keeps_modChunk
    | with_reducible apply Keeps.foldl

end Sys2Proof.Machine
end

