-- ==== Sys2Proof/Laws/KeepsGroup.lean ====
section
/-! SUPPORT. One lemma for each operation of what groups do: residency, the service, repair, scratchpad accesses, engines, runs and rounds: it keeps what `Keeps` says, within its
footprint. -/

namespace Sys2Proof.Machine

open Sys2Proof.Safety

theorem keeps_putSpadRow {F : Nat} {s₀ s : State} (hF : Sub 0x80000 F) (h : Keeps F s₀ s) (a1 : Nat) (a2 : Nat) (a3
    : Nat) (a4 : SRow) :
    Keeps F s₀ (State.putSpadRow s a1 a2 a3 a4) := by
  unfold State.putSpadRow; try dsimp only
  repeat' first
    | with_reducible assumption | with_reducible apply keeps_modClu

theorem keeps_setSlot {F : Nat} {s₀ s : State} (hF : Sub 0x40000 F) (h : Keeps F s₀ s) (a1 : Nat) (a2 : Nat) (a3 :
    Slot) :
    Keeps F s₀ (State.setSlot s a1 a2 a3) := by
  unfold State.setSlot; try dsimp only
  repeat' first
    | with_reducible assumption | with_reducible apply keeps_modGrp

theorem keeps_writeCopy {F : Nat} {s₀ : State} (hF : Sub 0x80000 F) (a1 : Nat) (a2 : Nat) (a3 : Nat) (a4 : Nat) (a5
    : List (List Byte)) : ∀ {s : State}, Keeps F s₀ s →
    Keeps F s₀ (State.writeCopy s a1 a2 a3 a4 a5) := by
  induction a5 generalizing a4 with
  | nil => exact fun h => h
  | cons x r ih =>
    intro s h
    simp only [State.writeCopy]
    repeat' first
      | with_reducible assumption | with_reducible apply ih | with_reducible apply keeps_putSpadRow

theorem keeps_writeHome {F : Nat} {s₀ s : State} (hF : Sub 0x180700820 F) (h : Keeps F s₀ s) (a1 : Nat) (a2 : List
    Byte) (a3 : WriteRetries) :
    Keeps F s₀ (State.writeHome s a1 a2 a3) := by
  unfold State.writeHome; try dsimp only
  repeat' first
    | with_reducible assumption | exact .trans (by decide) hF | with_reducible apply keeps_count
    | with_reducible apply keeps_hostWrite | with_reducible apply keeps_memStore | split

theorem keeps_addSwap {F : Nat} {s₀ s : State} (hF : Sub 0x40000 F) (h : Keeps F s₀ s) (a1 : Nat) (a2 : Swap) :
    Keeps F s₀ (State.addSwap s a1 a2) := by
  unfold State.addSwap; try dsimp only
  repeat' first
    | with_reducible assumption | with_reducible apply keeps_modGrp

theorem keeps_dropSwap {F : Nat} {s₀ s : State} (hF : Sub 0x40000 F) (h : Keeps F s₀ s) (a1 : Nat) (a2 : Nat) :
    Keeps F s₀ (State.dropSwap s a1 a2) := by
  unfold State.dropSwap; try dsimp only
  repeat' first
    | with_reducible assumption | with_reducible apply keeps_modGrp

theorem keeps_evict {F : Nat} {s₀ s : State} (hF : Sub 0x141000 F) (h : Keeps F s₀ s) (a1 : Nat) (a2 : Nat) (a3 :
    Option Nat) :
    Keeps F s₀ (State.evict s a1 a2 a3) := by
  unfold State.evict; try dsimp only
  repeat' first
    | with_reducible assumption | exact .trans (by decide) hF | with_reducible apply keeps_modStr
    | with_reducible apply keeps_setSlot | with_reducible apply keeps_addSwap
    | with_reducible apply keeps_count | split

theorem keeps_opt_beginSwap {F : Nat} {s₀ s s' : State} (hF : Sub 0x141000 F) {a1 : Nat} {a2 : Nat}
    (e : State.beginSwap s a1 a2 = some s') (h : Keeps F s₀ s) : Keeps F s₀ s' := by
  unfold State.beginSwap at e; try dsimp only at e
  (repeat' split at e) <;> first | cases e | skip
  all_goals
  repeat' first
    | with_reducible assumption | exact .trans (by decide) hF | with_reducible apply keeps_addSwap
    | with_reducible apply keeps_setSlot | with_reducible apply keeps_count | with_reducible apply keeps_evict

theorem keeps_enqueueSwaps {F : Nat} {s₀ s : State} (hF : Sub 0x41000 F) (h : Keeps F s₀ s) (a1 : Nat) :
    Keeps F s₀ (State.enqueueSwaps s a1) := by
  unfold State.enqueueSwaps; try dsimp only
  repeat' first
    | with_reducible assumption | exact .trans (by decide) hF | intro _ | with_reducible exact .rfl
    | with_reducible apply keeps_modGrp | with_reducible apply keeps_modStr | with_reducible apply Keeps.foldl

theorem keeps_serveSwaps {F : Nat} {s₀ s : State} (hF : Sub 0x141000 F) (h : Keeps F s₀ s) (a1 : Nat) :
    Keeps F s₀ (State.serveSwaps s a1) := by
  unfold State.serveSwaps; try dsimp only
  repeat' first
    | with_reducible assumption | exact .trans (by decide) hF | intro _ | with_reducible exact .rfl
    | refine keeps_opt_beginSwap ?_ (by with_reducible assumption) ?_ | with_reducible apply keeps_modGrp
    | split | with_reducible apply Keeps.foldl

theorem keeps_requestGo {F : Nat} {s₀ : State} (hF : Sub 0x141000 F) (a0 : Nat) (a1 : Nat) : ∀ {s : State}, Keeps F
    s₀ s →
    Keeps F s₀ (State.requestGo a0 a1 s) := by
  induction a1 with
  | zero => exact fun h => h
  | succ n ih =>
    intro s h
    simp only [State.requestGo]
    repeat' first
      | with_reducible assumption | exact .trans (by decide) hF | with_reducible apply ih
      | with_reducible apply keeps_serveSwaps | with_reducible apply keeps_enqueueSwaps | split

theorem keeps_requestSwaps {F : Nat} {s₀ s : State} (hF : Sub 0x141000 F) (h : Keeps F s₀ s) (a1 : Nat) :
    Keeps F s₀ (State.requestSwaps s a1) := by
  unfold State.requestSwaps; try dsimp only
  repeat' first
    | with_reducible assumption | with_reducible apply keeps_requestGo

theorem keeps_cancelRequest {F : Nat} {s₀ s : State} (hF : Sub 0x40000 F) (h : Keeps F s₀ s) (a1 : Nat) (a2 : Nat) :
    Keeps F s₀ (State.cancelRequest s a1 a2) := by
  unfold State.cancelRequest; try dsimp only
  repeat' first
    | with_reducible assumption | with_reducible apply keeps_modGrp

theorem keeps_writeBack {F : Nat} {s₀ s : State} (hF : Sub 0x141000 F) (h : Keeps F s₀ s) (a1 : Nat) :
    Keeps F s₀ (State.writeBack s a1) := by
  unfold State.writeBack; try dsimp only
  repeat' first
    | with_reducible assumption | exact .trans (by decide) hF | intro _ | with_reducible exact .rfl
    | with_reducible apply keeps_evict | with_reducible apply keeps_setSlot | split
    | with_reducible apply Keeps.foldl

theorem keeps_loseRecord {F : Nat} {s₀ s : State} (hF : Sub 0x180701820 F) (h : Keeps F s₀ s) (a1 : Nat) (a2 : Nat)
    (a3 : Nat) (a4 : WriteRetries) :
    Keeps F s₀ (State.loseRecord s a1 a2 a3 a4) := by
  unfold State.loseRecord; try dsimp only
  repeat' first
    | with_reducible assumption | exact .trans (by decide) hF | with_reducible apply keeps_setStr
    | with_reducible apply keeps_writeHome | with_reducible apply keeps_logEvent
    | with_reducible apply keeps_count

theorem keeps_vacate {F : Nat} {s₀ s : State} (hF : Sub 0x41000 F) (h : Keeps F s₀ s) (a1 : Nat) (a2 : Nat) :
    Keeps F s₀ (State.vacate s a1 a2) := by
  unfold State.vacate; try dsimp only
  repeat' first
    | with_reducible assumption | exact .trans (by decide) hF | intro _ | with_reducible exact .rfl
    | with_reducible apply keeps_setSlot | with_reducible apply keeps_modStr | split
    | with_reducible apply Keeps.foldl

theorem keeps_reload {F : Nat} {s₀ s : State} (hF : Sub 0x141000 F) (h : Keeps F s₀ s) (a1 : Nat) :
    Keeps F s₀ (State.reload s a1) := by
  unfold State.reload; try dsimp only
  repeat' first
    | with_reducible assumption | exact .trans (by decide) hF | with_reducible apply keeps_requestSwaps
    | with_reducible apply keeps_modGrp

theorem keeps_recordFault {F : Nat} {s₀ s : State} (hF : Sub 0x1a0741830 F) (h : Keeps F s₀ s) (a1 : Nat) (a2 :
    Bool) (a3 : WriteRetries) :
    Keeps F s₀ (State.recordFault s a1 a2 a3) := by
  unfold State.recordFault; try dsimp only
  repeat' first
    | with_reducible assumption | exact .trans (by decide) hF | with_reducible apply keeps_vacate
    | with_reducible apply keeps_logEvent | with_reducible apply keeps_reload
    | with_reducible apply keeps_completeChunk | with_reducible apply keeps_requestSwaps
    | with_reducible apply keeps_loseRecord | with_reducible apply keeps_safetyEvent | split

theorem keeps_passOver {F : Nat} {s₀ s : State} (hF : Sub 0x101000 F) (h : Keeps F s₀ s) (a1 : Nat) (a2 : Nat) (a3
    : Nat) (a4 : Int) :
    Keeps F s₀ (State.passOver s a1 a2 a3 a4) := by
  unfold State.passOver; try dsimp only
  repeat' first
    | with_reducible assumption | exact .trans (by decide) hF | with_reducible apply keeps_count
    | with_reducible apply keeps_modChunk

theorem keeps_withdrawRun {F : Nat} {s₀ s : State} (hF : Sub 0x101000 F) (h : Keeps F s₀ s) (a1 : Nat) (a2 : Run)
    (a3 : Bool) :
    Keeps F s₀ (State.withdrawRun s a1 a2 a3) := by
  unfold State.withdrawRun; try dsimp only
  repeat' first
    | with_reducible assumption | exact .trans (by decide) hF | intro _ | with_reducible exact .rfl
    | with_reducible apply keeps_passOver | with_reducible apply keeps_modChunk | split
    | with_reducible apply Keeps.foldl

theorem keeps_withdrawPlan {F : Nat} {s₀ s : State} (hF : Sub 0x141000 F) (h : Keeps F s₀ s) (a1 : Nat) (a2 : Bool) :
    Keeps F s₀ (State.withdrawPlan s a1 a2) := by
  unfold State.withdrawPlan; try dsimp only
  repeat' first
    | with_reducible assumption | exact .trans (by decide) hF | intro _ | with_reducible exact .rfl
    | with_reducible apply keeps_withdrawRun | with_reducible apply keeps_modGrp | split
    | with_reducible apply Keeps.foldl

theorem keeps_shedStale {F : Nat} {s₀ s : State} (hF : Sub 0xa0141830 F) (h : Keeps F s₀ s) (a1 : Nat) :
    Keeps F s₀ (State.shedStale s a1) := by
  unfold State.shedStale; try dsimp only
  repeat' first
    | with_reducible assumption | exact .trans (by decide) hF | intro _ | with_reducible exact .rfl
    | with_reducible apply keeps_completeChunk | with_reducible apply keeps_cancelRequest | split
    | with_reducible apply Keeps.foldl

theorem keeps_planChunk {F : Nat} {s₀ s : State} (hF : Sub 0xa0101830 F) (h : Keeps F s₀ s) (a1 : Nat) (a2 : Nat)
    (a3 : Nat) (a4 : Draft) :
    Keeps F s₀ (State.planChunk s a1 a2 a3 a4).1 := by
  unfold State.planChunk; try dsimp only
  repeat' first
    | with_reducible assumption | exact .trans (by decide) hF | with_reducible apply keeps_passOver
    | with_reducible apply keeps_completeChunk | with_reducible apply keeps_modChunk | split
theorem keeps_pair_planChunk {F : Nat} {s₀ s s' : State} (hF : Sub 0xa0101830 F) {r} {a1 : Nat} {a2 : Nat} {a3 :
    Nat} {a4 : Draft}
    (e : State.planChunk s a1 a2 a3 a4 = (s', r)) (h : Keeps F s₀ s) : Keeps F s₀ s' := by
  have k := keeps_planChunk hF h a1 a2 a3 a4; rw [e] at k; exact k

theorem keeps_makePlan {F : Nat} {s₀ s : State} (hF : Sub 0xa0141830 F) (h : Keeps F s₀ s) (a1 : Nat) :
    Keeps F s₀ (State.makePlan s a1) := by
  unfold State.makePlan; try dsimp only
  repeat' first
    | with_reducible assumption | exact .trans (by decide) hF | intro _ | with_reducible apply keeps_planChunk
    | with_reducible apply keeps_modGrp | with_reducible apply Keeps.foldl_fst

theorem keeps_fitPlan {F : Nat} {s₀ : State} (hF : Sub 0x141000 F) (a0 : Nat) (a1 : Nat) : ∀ {s : State}, Keeps F
    s₀ s →
    Keeps F s₀ (State.fitPlan a0 a1 s) := by
  induction a1 with
  | zero => exact fun h => h
  | succ n ih =>
    intro s h
    simp only [State.fitPlan]
    repeat' first
      | with_reducible assumption | exact .trans (by decide) hF | with_reducible apply ih
      | with_reducible apply keeps_modGrp | with_reducible apply keeps_passOver | split

theorem keeps_reduceU {F : Nat} {s₀ s : State} (hF : Sub 0x141000 F) (h : Keeps F s₀ s) (a1 : Nat) (a2 : Nat) :
    Keeps F s₀ (State.reduceU s a1 a2) := by
  unfold State.reduceU; try dsimp only
  repeat' first
    | with_reducible assumption | exact .trans (by decide) hF | with_reducible apply keeps_modGrp
    | with_reducible apply keeps_fitPlan

theorem keeps_setBudget {F : Nat} {s₀ s : State} (hF : Sub 0x42000 F) (h : Keeps F s₀ s) (a1 : Nat) :
    Keeps F s₀ (State.setBudget s a1) := by
  unfold State.setBudget; try dsimp only
  repeat' first
    | with_reducible assumption | exact .trans (by decide) hF | intro _ | with_reducible exact .rfl
    | with_reducible apply keeps_modGrp | with_reducible apply keeps_setImg | split
    | with_reducible apply Keeps.foldl

theorem keeps_judgeCapacity {F : Nat} {s₀ s : State} (hF : Sub 0x80040820 F) (h : Keeps F s₀ s) (a1 : Nat) :
    Keeps F s₀ (State.judgeCapacity s a1) := by
  unfold State.judgeCapacity; try dsimp only
  repeat' first
    | with_reducible assumption | exact .trans (by decide) hF | with_reducible apply keeps_modGrp
    | with_reducible apply keeps_raiseInts | with_reducible apply keeps_logEvent | split

theorem keeps_setUnit {F : Nat} {s₀ s : State} (hF : Sub 0xa4940820 F) (h : Keeps F s₀ s) (a1 : Nat) (a2 : Nat) (a3
    : UnitState) :
    Keeps F s₀ (State.setUnit s a1 a2 a3) := by
  unfold State.setUnit; try dsimp only
  repeat' first
    | with_reducible assumption | exact .trans (by decide) hF
    | (refine .of fun p => ?_; cases p <;> first | exact .inr (hF.bit rfl) | (dsimp only [Part.same]; first | exact .inl rfl | exact .inl ⟨rfl, rfl, rfl⟩))
    | intro _ | with_reducible exact .rfl | with_reducible apply keeps_modGrp
    | with_reducible apply keeps_modPrt | with_reducible apply keeps_judgeAll
    | with_reducible apply keeps_logEvent | split | exact List.prefix_refl _ | with_reducible apply Keeps.upd

theorem keeps_applyGroupRecords {F : Nat} {s₀ s : State} (hF : Sub 0xc0000 F) (h : Keeps F s₀ s) (a1 : Nat) :
    Keeps F s₀ (State.applyGroupRecords s a1) := by
  unfold State.applyGroupRecords; try dsimp only
  repeat' first
    | with_reducible assumption | exact .trans (by decide) hF | intro _ | with_reducible exact .rfl
    | with_reducible apply keeps_modGrp | with_reducible apply keeps_setClu | split
    | with_reducible apply Keeps.foldl

theorem keeps_queueTests {F : Nat} {s₀ s : State} (hF : Sub 0x20140820 F) (h : Keeps F s₀ s) (a1 : Nat) (a2 : Nat)
    (a3 : List TestSet) (a4 : Bool) (a5 : List Nat) :
    Keeps F s₀ (State.queueTests s a1 a2 a3 a4 a5) := by
  unfold State.queueTests; try dsimp only
  repeat' first
    | with_reducible assumption | exact .trans (by decide) hF | with_reducible apply keeps_judgeAll
    | with_reducible apply keeps_modGrp

theorem keeps_recordCluster {F : Nat} {s₀ s : State} (hF : Sub 0x180000000 F) (h : Keeps F s₀ s) (a1 : Nat) (a2 :
    Nat) (a3 : Option Nat) (a4 : RepairNext) :
    Keeps F s₀ (State.recordCluster s a1 a2 a3 a4) := by
  unfold State.recordCluster; try dsimp only
  repeat' first
    | with_reducible assumption | exact .trans (by decide) hF | with_reducible apply keeps_writeRecord
    | with_reducible apply keeps_logEvent | split

theorem keeps_retire {F : Nat} {s₀ s : State} (hF : Sub 0x1a0141a70 F) (h : Keeps F s₀ s) (a1 : Nat) (a2 : Nat) :
    Keeps F s₀ (State.retire s a1 a2) := by
  unfold State.retire; try dsimp only
  repeat' first
    | with_reducible assumption | exact .trans (by decide) hF | with_reducible apply keeps_modGrp
    | with_reducible apply keeps_finishAll | with_reducible apply keeps_recordCluster
    | with_reducible apply keeps_withdrawPlan | with_reducible apply keeps_judgeAll | split

theorem keeps_endHeld {F : Nat} {s₀ s : State} (hF : Sub 0xa0101830 F) (h : Keeps F s₀ s) (a1 : Nat) :
    Keeps F s₀ (State.endHeld s a1) := by
  unfold State.endHeld; try dsimp only
  repeat' first
    | with_reducible assumption | intro _ | with_reducible exact .rfl
    | with_reducible apply keeps_completeChunk | with_reducible apply Keeps.foldl

theorem keeps_holdGroup {F : Nat} {s₀ s : State} (hF : Sub 0x1a4941a70 F) (h : Keeps F s₀ s) (a1 : Nat) (a2 :
    HeldBy) :
    Keeps F s₀ (State.holdGroup s a1 a2) := by
  unfold State.holdGroup; try dsimp only
  repeat' first
    | with_reducible assumption | exact .trans (by decide) hF | with_reducible apply keeps_setService
    | with_reducible apply keeps_setUnit | with_reducible apply keeps_modGrp
    | with_reducible apply keeps_endHeld | with_reducible apply keeps_finishAll

theorem keeps_clearSeqCounters {F : Nat} {s₀ s : State} (hF : Sub 0x100000 F) (h : Keeps F s₀ s) (a1 : Nat) :
    Keeps F s₀ (State.clearSeqCounters s a1) := by
  unfold State.clearSeqCounters; try dsimp only
  repeat' first
    | with_reducible assumption | intro _ | with_reducible exact .rfl | with_reducible apply keeps_setCtr
    | with_reducible apply Keeps.foldl

theorem keeps_beginGroupReset {F : Nat} {s₀ s : State} (hF : Sub 0x1c0000 F) (h : Keeps F s₀ s) (a1 : Nat) :
    Keeps F s₀ (State.beginGroupReset s a1) := by
  unfold State.beginGroupReset; try dsimp only
  repeat' first
    | with_reducible assumption | exact .trans (by decide) hF | intro _ | with_reducible exact .rfl
    | with_reducible apply keeps_modGrp | with_reducible apply keeps_setClu | with_reducible apply keeps_count
    | with_reducible apply keeps_clearSeqCounters | with_reducible apply Keeps.foldl

theorem keeps_endGroupReset {F : Nat} {s₀ s : State} (hF : Sub 0xc1000 F) (h : Keeps F s₀ s) (a1 : Nat) :
    Keeps F s₀ (State.endGroupReset s a1) := by
  unfold State.endGroupReset; try dsimp only
  repeat' first
    | with_reducible assumption | exact .trans (by decide) hF | intro _ | with_reducible exact .rfl
    | with_reducible apply keeps_modGrp | with_reducible apply keeps_applyGroupRecords
    | with_reducible apply keeps_modStr | with_reducible apply Keeps.foldl

theorem keeps_leaveSlots {F : Nat} {s₀ s : State} (hF : Sub 0x141000 F) (h : Keeps F s₀ s) (a1 : Nat) :
    Keeps F s₀ (State.leaveSlots s a1) := by
  unfold State.leaveSlots; try dsimp only
  repeat' first
    | with_reducible assumption | intro _ | with_reducible exact .rfl | with_reducible apply keeps_evict
    | split | with_reducible apply Keeps.foldl

theorem keeps_progressDisable {F : Nat} {s₀ s : State} (hF : Sub 0x141000 F) (h : Keeps F s₀ s) (a1 : Nat) :
    Keeps F s₀ (State.progressDisable s a1) := by
  unfold State.progressDisable; try dsimp only
  repeat' first
    | with_reducible assumption | with_reducible apply keeps_writeBack | split

theorem keeps_progressRetirement {F : Nat} {s₀ s : State} (hF : Sub 0x1a49c1a70 F) (h : Keeps F s₀ s) (a1 : Nat) :
    Keeps F s₀ (State.progressRetirement s a1) := by
  unfold State.progressRetirement; try dsimp only
  repeat' first
    | with_reducible assumption | exact .trans (by decide) hF
    | (refine .of fun p => ?_; cases p <;> first | exact .inr (hF.bit rfl) | (dsimp only [Part.same]; first | exact .inl rfl | exact .inl ⟨rfl, rfl, rfl⟩))
    | intro _ | with_reducible exact .rfl | with_reducible apply keeps_progressDisable
    | with_reducible apply keeps_leaveSlots | with_reducible apply keeps_writeBack
    | with_reducible apply keeps_holdGroup | with_reducible apply keeps_beginGroupReset | split | dsimp only
    | exact List.prefix_refl _ | with_reducible apply Keeps.upd

theorem keeps_lastingRow {F : Nat} {s₀ s : State} (hF : Sub 0x1a0141a70 F) (h : Keeps F s₀ s) (a1 : Nat) (a2 : Nat)
    (a3 : Nat) (a4 : Nat) :
    Keeps F s₀ (State.lastingRow s a1 a2 a3 a4) := by
  unfold State.lastingRow; try dsimp only
  repeat' first
    | with_reducible assumption | exact .trans (by decide) hF | with_reducible apply keeps_writeRecord
    | with_reducible apply keeps_modGrp | with_reducible apply keeps_retire | split

theorem keeps_logRow {F : Nat} {s₀ s : State} (hF : Sub 0x80000000 F) (h : Keeps F s₀ s) (a1 : Bool) (a2 : Nat) (a3
    : Nat) (a4 : Nat) (a5 : Nat) (a6 : Nat) (a7 : Nat) :
    Keeps F s₀ (State.logRow s a1 a2 a3 a4 a5 a6 a7) := by
  unfold State.logRow; try dsimp only
  repeat' first
    | with_reducible assumption | with_reducible apply keeps_logAs

theorem keeps_verifyFailed {F : Nat} {s₀ s : State} (hF : Sub 0x1a0141a70 F) (h : Keeps F s₀ s) (a1 : Nat) (a2 :
    Nat × Nat × Nat × Bool) :
    Keeps F s₀ (State.verifyFailed s a1 a2) := by
  unfold State.verifyFailed; try dsimp only
  repeat' first
    | with_reducible assumption | exact .trans (by decide) hF | with_reducible apply keeps_lastingRow
    | with_reducible apply keeps_logRow | split

theorem keeps_meetUnscheduled {F : Nat} {s₀ s : State} (hF : Sub 0x1a01c1a70 F) (h : Keeps F s₀ s) (a1 : Nat) (a2 :
    Nat) (a3 : Nat) (a4 : Nat) (a5 : Met) :
    Keeps F s₀ (State.meetUnscheduled s a1 a2 a3 a4 a5) := by
  unfold State.meetUnscheduled; try dsimp only
  repeat' first
    | with_reducible assumption | exact .trans (by decide) hF | with_reducible apply keeps_verifyFailed
    | with_reducible apply keeps_logRow | with_reducible apply keeps_count | with_reducible apply keeps_modClu
    | split

theorem keeps_mapOut {F : Nat} {s₀ s : State} (hF : Sub 0x1a01c1a70 F) (h : Keeps F s₀ s) (a1 : Nat) (a2 : Nat ×
    Nat × Nat) (a3 : Met) :
    Keeps F s₀ (State.mapOut s a1 a2 a3) := by
  unfold State.mapOut; try dsimp only
  repeat' first
    | with_reducible assumption | exact .trans (by decide) hF | with_reducible apply keeps_modGrp
    | with_reducible apply keeps_meetUnscheduled | with_reducible apply keeps_modClu
    | with_reducible apply keeps_logEvent

theorem keeps_applyMapouts {F : Nat} {s₀ s : State} (hF : Sub 0x1a01c1a70 F) (h : Keeps F s₀ s) (a1 : Nat) (a2 :
    Nat) (a3 : List Met) :
    Keeps F s₀ (State.applyMapouts s a1 a2 a3) := by
  unfold State.applyMapouts; try dsimp only
  repeat' first
    | with_reducible assumption | intro _ | with_reducible exact .rfl | with_reducible apply keeps_mapOut
    | with_reducible apply Keeps.foldl

theorem keeps_latentFault {F : Nat} {s₀ s : State} (hF : Sub 0x1a4d41a70 F) (h : Keeps F s₀ s) (a1 : Nat) (a2 : Nat) :
    Keeps F s₀ (State.latentFault s a1 a2) := by
  unfold State.latentFault; try dsimp only
  repeat' first
    | with_reducible assumption | exact .trans (by decide) hF
    | (refine .of fun p => ?_; cases p <;> first | exact .inr (hF.bit rfl) | (dsimp only [Part.same]; first | exact .inl rfl | exact .inl ⟨rfl, rfl, rfl⟩))
    | intro _ | with_reducible exact .rfl | with_reducible apply keeps_logEvent
    | with_reducible apply keeps_retire | with_reducible apply keeps_holdGroup
    | with_reducible apply keeps_markFailing | with_reducible apply keeps_setService
    | with_reducible apply keeps_setUnit | with_reducible apply keeps_modPrt | split | dsimp only
    | exact List.prefix_refl _ | with_reducible apply Keeps.upd

theorem keeps_latentFaults {F : Nat} {s₀ s : State} (hF : Sub 0x1a4d41a70 F) (h : Keeps F s₀ s) (a1 : List (Nat ×
    Nat)) :
    Keeps F s₀ (State.latentFaults s a1) := by
  unfold State.latentFaults; try dsimp only
  repeat' first
    | with_reducible assumption | intro _ | with_reducible exact .rfl | with_reducible apply keeps_latentFault
    | with_reducible apply Keeps.foldl

theorem keeps_addDue {F : Nat} {s₀ s : State} (hF : Sub 0x40000 F) (h : Keeps F s₀ s) (a1 : Nat) (a2 : Due) :
    Keeps F s₀ (State.addDue s a1 a2) := by
  unfold State.addDue; try dsimp only
  repeat' first
    | with_reducible assumption | with_reducible apply keeps_modGrp

theorem keeps_addDues {F : Nat} {s₀ s : State} (hF : Sub 0x40000 F) (h : Keeps F s₀ s) (a1 : Nat) (a2 : List Due) :
    Keeps F s₀ (State.addDues s a1 a2) := by
  unfold State.addDues; try dsimp only
  repeat' first
    | with_reducible assumption | intro _ | with_reducible exact .rfl | with_reducible apply keeps_addDue
    | with_reducible apply Keeps.foldl

theorem keeps_modInfo {F : Nat} {s₀ s : State} (hF : Sub 0x40000 F) (h : Keeps F s₀ s) (a1 : Nat) (a2 : RunInfo →
    RunInfo) :
    Keeps F s₀ (State.modInfo s a1 a2) := by
  unfold State.modInfo; try dsimp only
  repeat' first
    | with_reducible assumption | with_reducible apply keeps_modGrp

theorem keeps_modRun {F : Nat} {s₀ s : State} (hF : Sub 0x40000 F) (h : Keeps F s₀ s) (a1 : Nat) (a2 : RunInfo →
    RunInfo) :
    Keeps F s₀ (State.modRun s a1 a2) := by
  unfold State.modRun; try dsimp only
  repeat' first
    | with_reducible assumption | with_reducible apply keeps_modGrp

theorem keeps_claimBank {F : Nat} {s₀ s : State} (hF : Sub 0xc0000 F) (h : Keeps F s₀ s) (a1 : Nat) (a2 : Nat) (a3
    : Spot) :
    Keeps F s₀ (State.claimBank s a1 a2 a3) := by
  unfold State.claimBank; try dsimp only
  repeat' first
    | with_reducible assumption | exact .trans (by decide) hF | with_reducible apply keeps_setClu
    | with_reducible apply keeps_addDue | split

theorem keeps_checkRequester {F : Nat} {s₀ s : State} (hF : Sub 0x40000 F) (h : Keeps F s₀ s) (a1 : Nat) (a2 : Nat)
    (a3 : Spot) (a4 : Nat) (a5 : Bool) :
    Keeps F s₀ (State.checkRequester s a1 a2 a3 a4 a5) := by
  unfold State.checkRequester; try dsimp only
  repeat' first
    | with_reducible assumption | with_reducible apply keeps_addDue | split

theorem keeps_storeRow {F : Nat} {s₀ s : State} (hF : Sub 0x80000 F) (h : Keeps F s₀ s) (a1 : Nat) (a2 : Spot) (a3
    : Row) :
    Keeps F s₀ (State.storeRow s a1 a2 a3) := by
  unfold State.storeRow; try dsimp only
  repeat' first
    | with_reducible assumption | with_reducible apply keeps_setClu

theorem keeps_writeAt {F : Nat} {s₀ s : State} (hF : Sub 0xc0000 F) (h : Keeps F s₀ s) (a1 : Nat) (a2 : Nat) (a3 :
    Nat) (a4 : Spot) (a5 : Row) :
    Keeps F s₀ (State.writeAt s a1 a2 a3 a4 a5) := by
  unfold State.writeAt; try dsimp only
  repeat' first
    | with_reducible assumption | exact .trans (by decide) hF | with_reducible apply keeps_storeRow
    | with_reducible apply keeps_checkRequester | with_reducible apply keeps_claimBank

theorem keeps_meet {F : Nat} {s₀ s : State} (hF : Sub 0x40000 F) (h : Keeps F s₀ s) (a1 : Nat) (a2 : Nat) (a3 :
    Spot) (a4 : Met) (a5 : Bool) :
    Keeps F s₀ (State.meet s a1 a2 a3 a4 a5) := by
  unfold State.meet; try dsimp only
  repeat' first
    | with_reducible assumption | with_reducible apply keeps_addDue | split

theorem keeps_readAt {F : Nat} {s₀ s : State} (hF : Sub 0xc0000 F) (h : Keeps F s₀ s) (a1 : Nat) (a2 : Nat) (a3 :
    Nat) (a4 : Spot) (a5 : Met) :
    Keeps F s₀ (State.readAt s a1 a2 a3 a4 a5).1 := by
  unfold State.readAt; try dsimp only
  repeat' first
    | with_reducible assumption | exact .trans (by decide) hF | with_reducible apply keeps_checkRequester
    | with_reducible apply keeps_claimBank | with_reducible apply keeps_meet
    | with_reducible apply keeps_setClu
theorem keeps_pair_readAt {F : Nat} {s₀ s s' : State} (hF : Sub 0xc0000 F) {r} {a1 : Nat} {a2 : Nat} {a3 : Nat} {a4
    : Spot} {a5 : Met}
    (e : State.readAt s a1 a2 a3 a4 a5 = (s', r)) (h : Keeps F s₀ s) : Keeps F s₀ s' := by
  have k := keeps_readAt hF h a1 a2 a3 a4 a5; rw [e] at k; exact k

theorem keeps_armDue {F : Nat} {s₀ s : State} (hF : Sub 0x280140a70 F) (h : Keeps F s₀ s) (a1 : Nat) (a2 : Nat) (a3
    : Nat) (a4 : Spot) (a5 : DueKind) :
    Keeps F s₀ (State.armDue s a1 a2 a3 a4 a5) := by
  unfold State.armDue; try dsimp only
  repeat' first
    | with_reducible assumption | exact .trans (by decide) hF | with_reducible apply keeps_fireArmed
    | with_reducible apply keeps_addDue | split

theorem keeps_armAccess {F : Nat} {s₀ s : State} (hF : Sub 0x280140a70 F) (h : Keeps F s₀ s) (a1 : Nat) (a2 : Nat)
    (a3 : Spot) (a4 : Bool) :
    Keeps F s₀ (State.armAccess s a1 a2 a3 a4) := by
  unfold State.armAccess; try dsimp only
  repeat' first
    | with_reducible assumption | with_reducible apply keeps_armDue | split

theorem keeps_engineFault {F : Nat} {s₀ s : State} (hF : Sub 0x280140a70 F) (h : Keeps F s₀ s) (a1 : Nat) (a2 :
    Nat) (a3 : Nat) (a4 : Nat) (a5 : Bool) :
    Keeps F s₀ (State.engineFault s a1 a2 a3 a4 a5) := by
  unfold State.engineFault; try dsimp only
  repeat' first
    | with_reducible assumption | exact .trans (by decide) hF | with_reducible apply keeps_addDue
    | with_reducible apply keeps_fireArmed | split

theorem keeps_kstep {F : Nat} {s₀ s : State} (hF : Sub 0x2801c0a70 F) (h : Keeps F s₀ s) (a1 : Nat) (a2 : Nat) (a3
    : Nat) :
    Keeps F s₀ (State.kstep s a1 a2 a3) := by
  unfold State.kstep; try dsimp only
  repeat' first
    | with_reducible assumption | exact .trans (by decide) hF | with_reducible apply keeps_addDue
    | with_reducible apply keeps_engineFault | with_reducible apply keeps_addDues
    | with_reducible apply keeps_modClu | split

theorem keeps_kcompute {F : Nat} {s₀ s : State} (hF : Sub 0x1c0000 F) (h : Keeps F s₀ s) (a1 : Nat) (a2 : Nat) :
    Keeps F s₀ (State.kcompute s a1 a2) := by
  unfold State.kcompute; try dsimp only
  repeat' first
    | with_reducible assumption | exact .trans (by decide) hF | with_reducible apply keeps_count
    | with_reducible apply keeps_setClu | with_reducible apply keeps_addDue | split

theorem keeps_epiStart {F : Nat} {s₀ s : State} (hF : Sub 0x2801c0a70 F) (h : Keeps F s₀ s) (a1 : Nat) (a2 : Nat)
    (a3 : Nat) (a4 : Nat) :
    Keeps F s₀ (State.epiStart s a1 a2 a3 a4) := by
  unfold State.epiStart; try dsimp only
  repeat' first
    | with_reducible assumption | exact .trans (by decide) hF | with_reducible apply keeps_engineFault
    | with_reducible apply keeps_setClu

theorem keeps_laneDue {F : Nat} {s₀ s : State} (hF : Sub 0x40000 F) (h : Keeps F s₀ s) (a1 : Nat) (a2 : Nat) (a3 :
    VecOp) (a4 : Nat) (a5 : Nat) (a6 : Bool) (a7 : Bool) :
    Keeps F s₀ (State.laneDue s a1 a2 a3 a4 a5 a6 a7) := by
  unfold State.laneDue; try dsimp only
  repeat' first
    | with_reducible assumption | with_reducible apply keeps_addDue

theorem keeps_armLane {F : Nat} {s₀ s : State} (hF : Sub 0x280140a70 F) (h : Keeps F s₀ s) (a1 : Nat) (a2 : Nat)
    (a3 : VecOp) (a4 : Nat) (a5 : Nat) (a6 : Bool) (a7 : Bool) :
    Keeps F s₀ (State.armLane s a1 a2 a3 a4 a5 a6 a7).1 := by
  unfold State.armLane; try dsimp only
  repeat' first
    | with_reducible assumption | exact .trans (by decide) hF | with_reducible apply keeps_fireArmed
    | with_reducible apply keeps_laneDue | split
theorem keeps_pair_armLane {F : Nat} {s₀ s s' : State} (hF : Sub 0x280140a70 F) {r} {a1 : Nat} {a2 : Nat} {a3 :
    VecOp} {a4 : Nat} {a5 : Nat} {a6 : Bool} {a7 : Bool}
    (e : State.armLane s a1 a2 a3 a4 a5 a6 a7 = (s', r)) (h : Keeps F s₀ s) : Keeps F s₀ s' := by
  have k := keeps_armLane hF h a1 a2 a3 a4 a5 a6 a7; rw [e] at k; exact k

theorem keeps_laneFaults {F : Nat} {s₀ s : State} (hF : Sub 0x280140a70 F) (h : Keeps F s₀ s) (a1 : Nat) (a2 : Nat)
    (a3 : VecOp) (a4 : Bool) (a5 : Option Nat) (a6 : Nat) :
    Keeps F s₀ (State.laneFaults s a1 a2 a3 a4 a5 a6).1 := by
  unfold State.laneFaults; try dsimp only
  repeat' first
    | with_reducible assumption | exact .trans (by decide) hF | with_reducible apply keeps_laneDue
    | with_reducible apply keeps_armLane | split
theorem keeps_pair_laneFaults {F : Nat} {s₀ s s' : State} (hF : Sub 0x280140a70 F) {r} {a1 : Nat} {a2 : Nat} {a3 :
    VecOp} {a4 : Bool} {a5 : Option Nat} {a6 : Nat}
    (e : State.laneFaults s a1 a2 a3 a4 a5 a6 = (s', r)) (h : Keeps F s₀ s) : Keeps F s₀ s' := by
  have k := keeps_laneFaults hF h a1 a2 a3 a4 a5 a6; rw [e] at k; exact k

theorem keeps_vstart {F : Nat} {s₀ s : State} (hF : Sub 0x1c0000 F) (h : Keeps F s₀ s) (a1 : Nat) (a2 : Nat) (a3 :
    Nat) :
    Keeps F s₀ (State.vstart s a1 a2 a3) := by
  unfold State.vstart; try dsimp only
  repeat' first
    | with_reducible assumption | exact .trans (by decide) hF | with_reducible apply keeps_count
    | with_reducible apply keeps_modClu | with_reducible apply keeps_addDue | split

theorem keeps_vbeat {F : Nat} {s₀ s : State} (hF : Sub 0x2801c0a70 F) (h : Keeps F s₀ s) (a1 : Nat) (a2 : Nat) (a3
    : VecOp) (a4 : Bool) (a5 : Nat) (a6 : Nat) :
    Keeps F s₀ (State.vbeat s a1 a2 a3 a4 a5 a6).1 := by
  unfold State.vbeat; try dsimp only
  repeat' first
    | with_reducible assumption | exact .trans (by decide) hF | with_reducible apply keeps_laneFaults
    | with_reducible apply keeps_modClu | with_reducible apply keeps_count
theorem keeps_pair_vbeat {F : Nat} {s₀ s s' : State} (hF : Sub 0x2801c0a70 F) {r} {a1 : Nat} {a2 : Nat} {a3 :
    VecOp} {a4 : Bool} {a5 : Nat} {a6 : Nat}
    (e : State.vbeat s a1 a2 a3 a4 a5 a6 = (s', r)) (h : Keeps F s₀ s) : Keeps F s₀ s' := by
  have k := keeps_vbeat hF h a1 a2 a3 a4 a5 a6; rw [e] at k; exact k

theorem keeps_vslot {F : Nat} {s₀ s : State} (hF : Sub 0x2801c0a70 F) (h : Keeps F s₀ s) (a1 : Nat) (a2 : Nat) (a3
    : Bool) (a4 : Nat) :
    Keeps F s₀ (State.vslot s a1 a2 a3 a4) := by
  unfold State.vslot; try dsimp only
  repeat' first
    | with_reducible assumption | exact .trans (by decide) hF | with_reducible apply keeps_addDues
    | with_reducible apply keeps_vbeat | with_reducible apply keeps_modClu | with_reducible apply keeps_addDue
    | split

theorem keeps_modTransfer {F : Nat} {s₀ s : State} (hF : Sub 0x40000 F) (h : Keeps F s₀ s) (a1 : Nat) (a2 : Nat)
    (a3 : Transfer → Transfer) :
    Keeps F s₀ (State.modTransfer s a1 a2 a3) := by
  unfold State.modTransfer; try dsimp only
  repeat' first
    | with_reducible assumption | with_reducible apply keeps_modRun

theorem keeps_writeTransferRow {F : Nat} {s₀ s : State} (hF : Sub 0xc0000 F) (h : Keeps F s₀ s) (a1 : Nat) (a2 :
    Nat) (a3 : Nat) (a4 : Nat) :
    Keeps F s₀ (State.writeTransferRow s a1 a2 a3 a4) := by
  unfold State.writeTransferRow; try dsimp only
  repeat' first
    | with_reducible assumption | exact .trans (by decide) hF | intro _ | with_reducible exact .rfl
    | with_reducible apply keeps_modTransfer | with_reducible apply keeps_writeAt | split
    | with_reducible apply Keeps.foldl

theorem keeps_decodeSpill {F : Nat} {s₀ s : State} (hF : Sub 0x140000 F) (h : Keeps F s₀ s) (a1 : Nat) (a2 : Nat)
    (a3 : Nat) (a4 : Nat) :
    Keeps F s₀ (State.decodeSpill s a1 a2 a3 a4) := by
  unfold State.decodeSpill; try dsimp only
  repeat' first
    | with_reducible assumption | exact .trans (by decide) hF | with_reducible apply keeps_addDue
    | with_reducible apply keeps_modTransfer | with_reducible apply keeps_count
    | with_reducible apply keeps_addDues | split

theorem keeps_putStored {F : Nat} {s₀ s : State} (hF : Sub 0x180740820 F) (h : Keeps F s₀ s) (a1 : Nat) (a2 :
    Image) (a3 : Nat) (a4 : Nat) (a5 : Row) (a6 : Nat) :
    Keeps F s₀ (State.putStored s a1 a2 a3 a4 a5 a6) := by
  unfold State.putStored; try dsimp only
  repeat' first
    | with_reducible assumption | exact .trans (by decide) hF | with_reducible apply keeps_rowWritten
    | with_reducible apply keeps_memPutRow | with_reducible apply keeps_modRun | split

theorem keeps_putSpill {F : Nat} {s₀ s : State} (hF : Sub 0x180740820 F) (h : Keeps F s₀ s) (a1 : Nat) (a2 : Image)
    (a3 : Nat) (a4 : Nat) (a5 : Nat) (a6 : Nat) (a7 : List Row) (a8 : WriteRetries) :
    Keeps F s₀ (State.putSpill s a1 a2 a3 a4 a5 a6 a7 a8) := by
  unfold State.putSpill; try dsimp only
  repeat' first
    | with_reducible assumption | exact .trans (by decide) hF | intro _ | with_reducible exact .rfl
    | with_reducible apply keeps_putStored | with_reducible apply keeps_count | split
    | with_reducible apply Keeps.foldl

theorem keeps_takeStored {F : Nat} {s₀ s : State} (hF : Sub 0x180740820 F) (h : Keeps F s₀ s) (a1 : Nat) (a2 : Nat)
    (a3 : Nat) (a4 : Row) :
    Keeps F s₀ (State.takeStored s a1 a2 a3 a4) := by
  unfold State.takeStored; try dsimp only
  repeat' first
    | with_reducible assumption | exact .trans (by decide) hF | with_reducible apply keeps_modRun
    | with_reducible apply keeps_putStored | with_reducible apply keeps_putSpill | split

theorem keeps_takeRecordRow {F : Nat} {s₀ s : State} (hF : Sub 0x40000 F) (h : Keeps F s₀ s) (a1 : Nat) (a2 : Nat)
    (a3 : Nat) (a4 : Nat) (a5 : Row) :
    Keeps F s₀ (State.takeRecordRow s a1 a2 a3 a4 a5) := by
  unfold State.takeRecordRow; try dsimp only
  repeat' first
    | with_reducible assumption | with_reducible apply keeps_modRun | with_reducible apply keeps_addDue | split

theorem keeps_endRecord {F : Nat} {s₀ s : State} (hF : Sub 0x2801c0a70 F) (h : Keeps F s₀ s) (a1 : Nat) (a2 : Nat)
    (a3 : Nat) :
    Keeps F s₀ (State.endRecord s a1 a2 a3) := by
  unfold State.endRecord; try dsimp only
  repeat' first
    | with_reducible assumption | exact .trans (by decide) hF | with_reducible apply keeps_modRun
    | with_reducible apply keeps_writeAt | with_reducible apply keeps_fireArmed
    | with_reducible apply keeps_addDue | split

theorem keeps_raiseHold {F : Nat} {s₀ s : State} (hF : Sub 0x280140a70 F) (h : Keeps F s₀ s) (a1 : Nat) (a2 :
    HoldSrc) (a3 : Int) :
    Keeps F s₀ (State.raiseHold s a1 a2 a3) := by
  unfold State.raiseHold; try dsimp only
  repeat' first
    | with_reducible assumption | exact .trans (by decide) hF | with_reducible apply keeps_modGrp
    | with_reducible apply keeps_fireArmed | with_reducible apply keeps_count | split

theorem keeps_countHold {F : Nat} {s₀ s : State} (hF : Sub 0x140000 F) (h : Keeps F s₀ s) (a1 : Nat) (a2 : Nat) (a3
    : Nat) :
    Keeps F s₀ (State.countHold s a1 a2 a3) := by
  unfold State.countHold; try dsimp only
  repeat' first
    | with_reducible assumption | exact .trans (by decide) hF | with_reducible apply keeps_modGrp
    | with_reducible apply keeps_countMax | with_reducible apply keeps_count

theorem keeps_countHeld {F : Nat} {s₀ s : State} (hF : Sub 0x140000 F) (h : Keeps F s₀ s) (a1 : Nat) :
    Keeps F s₀ (State.countHeld s a1) := by
  unfold State.countHeld; try dsimp only
  repeat' first
    | with_reducible assumption | exact .trans (by decide) hF | with_reducible apply keeps_countMax
    | with_reducible apply keeps_count | with_reducible apply keeps_modGrp | split

theorem keeps_dropHold {F : Nat} {s₀ s : State} (hF : Sub 0x140000 F) (h : Keeps F s₀ s) (a1 : Nat) (a2 : HoldSrc)
    (a3 : Int) :
    Keeps F s₀ (State.dropHold s a1 a2 a3) := by
  unfold State.dropHold; try dsimp only
  repeat' first
    | with_reducible assumption | exact .trans (by decide) hF | with_reducible apply keeps_modGrp
    | with_reducible apply keeps_setCtr | with_reducible apply keeps_countHold | split

theorem keeps_amendFailure {F : Nat} {s₀ s : State} (hF : Sub 0x80000000 F) (h : Keeps F s₀ s) (a1 : Nat) (a2 : Nat) :
    Keeps F s₀ (State.amendFailure s a1 a2) := by
  unfold State.amendFailure; try dsimp only
  repeat' first
    | with_reducible assumption
    | (refine .of fun p => ?_; cases p <;> first | exact .inr (hF.bit rfl) | (dsimp only [Part.same]; first | exact .inl rfl | exact .inl ⟨rfl, rfl, rfl⟩))
    | intro _ | with_reducible exact .rfl | exact List.prefix_refl _ | with_reducible apply Keeps.upd

theorem keeps_failRun {F : Nat} {s₀ s : State} (hF : Sub 0x1a0141a70 F) (h : Keeps F s₀ s) (a1 : Nat) (a2 : Nat)
    (a3 : Int) (a4 : Bool) :
    Keeps F s₀ (State.failRun s a1 a2 a3 a4) := by
  unfold State.failRun; try dsimp only
  repeat' first
    | with_reducible assumption | exact .trans (by decide) hF | intro _ | with_reducible exact .rfl
    | with_reducible apply keeps_count | with_reducible apply keeps_countHold
    | with_reducible apply keeps_verifyFailed | with_reducible apply keeps_logAs
    | with_reducible apply keeps_modGrp | with_reducible apply keeps_setCtr
    | with_reducible apply keeps_amendFailure | split | with_reducible apply Keeps.foldl

theorem keeps_implicate {F : Nat} {s₀ s : State} (hF : Sub 0x20140820 F) (h : Keeps F s₀ s) (a1 : Nat) (a2 : Nat)
    (a3 : List TestSet) (a4 : Bool) :
    Keeps F s₀ (State.implicate s a1 a2 a3 a4) := by
  unfold State.implicate; try dsimp only
  repeat' first
    | with_reducible assumption | with_reducible apply keeps_queueTests | split

theorem keeps_logSpad {F : Nat} {s₀ s : State} (hF : Sub 0x80000000 F) (h : Keeps F s₀ s) (a1 : Nat) (a2 : Due) (a3
    : Nat) (a4 : Nat) :
    Keeps F s₀ (State.logSpad s a1 a2 a3 a4) := by
  unfold State.logSpad; try dsimp only
  repeat' first
    | with_reducible assumption | with_reducible apply keeps_logRow

theorem keeps_directAt {F : Nat} {s₀ s : State} (hF : Sub 0x2801c0a70 F) (h : Keeps F s₀ s) (a1 : Nat) (a2 : Nat)
    (a3 : Nat) (a4 : Nat) (a5 : WPos) :
    Keeps F s₀ (State.directAt s a1 a2 a3 a4 a5) := by
  unfold State.directAt; try dsimp only
  repeat' first
    | with_reducible assumption | exact .trans (by decide) hF | with_reducible apply keeps_setClu
    | with_reducible apply keeps_engineFault

theorem keeps_fillPosition {F : Nat} {s₀ s : State} (hF : Sub 0x2801c0a70 F) (h : Keeps F s₀ s) (a1 : Nat) (a2 :
    Nat) (a3 : Nat) (a4 : WPos) :
    Keeps F s₀ (State.fillPosition s a1 a2 a3 a4) := by
  unfold State.fillPosition; try dsimp only
  repeat' first
    | with_reducible assumption | exact .trans (by decide) hF | with_reducible apply keeps_modClu
    | with_reducible apply keeps_directAt

theorem keeps_startBank {F : Nat} {s₀ s : State} (hF : Sub 0x280140a70 F) (h : Keeps F s₀ s) (a1 : Nat) (a2 : Nat)
    (a3 : Nat) :
    Keeps F s₀ (State.startBank s a1 a2 a3) := by
  unfold State.startBank; try dsimp only
  repeat' first
    | with_reducible assumption | with_reducible apply keeps_engineFault

theorem keeps_fillBank {F : Nat} {s₀ s : State} (hF : Sub 0x80000 F) (h : Keeps F s₀ s) (a1 : Nat) (a2 : Nat) (a3 :
    Nat) (a4 : List Nat) (a5 : List Int) :
    Keeps F s₀ (State.fillBank s a1 a2 a3 a4 a5) := by
  unfold State.fillBank; try dsimp only
  repeat' first
    | with_reducible assumption | with_reducible apply keeps_modClu

theorem keeps_deliverRow {F : Nat} {s₀ s : State} (hF : Sub 0x1807c0820 F) (h : Keeps F s₀ s) (a1 : Nat) (a2 : Nat)
    (a3 : Nat) (a4 : Sink) (a5 : Row) :
    Keeps F s₀ (State.deliverRow s a1 a2 a3 a4 a5) := by
  unfold State.deliverRow; try dsimp only
  repeat' first
    | with_reducible assumption | exact .trans (by decide) hF | intro _ | with_reducible exact .rfl
    | with_reducible apply keeps_writeAt | with_reducible apply keeps_addDue
    | with_reducible apply keeps_takeStored | with_reducible apply keeps_modRun
    | with_reducible apply keeps_takeRecordRow | with_reducible apply keeps_modClu | split
    | with_reducible apply Keeps.foldl

theorem keeps_countConflict {F : Nat} {s₀ s : State} (hF : Sub 0x140000 F) (h : Keeps F s₀ s) (a1 : Nat) :
    Keeps F s₀ (State.countConflict s a1) := by
  unfold State.countConflict; try dsimp only
  repeat' first
    | with_reducible assumption | exact .trans (by decide) hF | with_reducible apply keeps_modInfo
    | with_reducible apply keeps_count | split

theorem keeps_countTagFault {F : Nat} {s₀ s : State} (hF : Sub 0x140000 F) (h : Keeps F s₀ s) (a1 : Nat) :
    Keeps F s₀ (State.countTagFault s a1) := by
  unfold State.countTagFault; try dsimp only
  repeat' first
    | with_reducible assumption | exact .trans (by decide) hF | with_reducible apply keeps_modInfo
    | with_reducible apply keeps_count | split

theorem keeps_fallDue {F : Nat} {s₀ s : State} (hF : Sub 0x3a07c1a70 F) (h : Keeps F s₀ s) (a1 : Nat) (a2 : Due)
    (a3 : Int) :
    Keeps F s₀ (State.fallDue s a1 a2 a3) := by
  unfold State.fallDue; try dsimp only
  repeat' first
    | with_reducible assumption | exact .trans (by decide) hF | intro _ | with_reducible exact .rfl
    | with_reducible apply keeps_countConflict | with_reducible apply keeps_failRun
    | with_reducible apply keeps_logSpad | with_reducible apply keeps_countTagFault
    | with_reducible apply keeps_count | with_reducible apply keeps_verifyFailed
    | with_reducible apply keeps_raiseHold | with_reducible apply keeps_modGrp
    | with_reducible apply keeps_modClu | with_reducible apply keeps_implicate
    | with_reducible apply keeps_setCtr | with_reducible apply keeps_logAs | with_reducible apply keeps_modInfo
    | with_reducible apply keeps_fillPosition | with_reducible apply keeps_startBank
    | with_reducible apply keeps_fillBank | with_reducible apply keeps_readAt
    | with_reducible apply keeps_deliverRow | with_reducible apply keeps_writeAt
    | with_reducible apply keeps_writeTransferRow | with_reducible apply keeps_decodeSpill
    | with_reducible apply keeps_endRecord | with_reducible apply keeps_kstep
    | with_reducible apply keeps_kcompute | with_reducible apply keeps_vstart
    | with_reducible apply keeps_epiStart | with_reducible apply keeps_vslot | split
    | with_reducible apply Keeps.foldl

theorem keeps_asOf {F : Nat} {s₀ s : State} (_ : Sub 0x0 F) (h : Keeps F s₀ s) (a1 : Nat) (a2 : Int)
    (a3 : State → State) (h3 : ∀ (x0 : State) (s₁ : State), Keeps F s₁ x0 → Keeps F s₁ (a3 x0)) :
    Keeps F s₀ (State.asOf s a1 a2 a3) := by
  have k := h3 { s with now := (a2 + (s.grp a1).clockBase).toNat } _ .rfl
  refine h.trans ⟨rfl, k.pending, k.mem, k.hostMem, k.boot, k.journal, k.owner, k.epoch, .of fun p => ?_⟩
  have e := k.frame.out p
  cases p <;> exact e

theorem keeps_holdRows {F : Nat} {s₀ s : State} (hF : Sub 0x280140a70 F) (h : Keeps F s₀ s) (a1 : Nat) (a2 : Int) :
    Keeps F s₀ (State.holdRows s a1 a2) := by
  unfold State.holdRows; try dsimp only
  repeat' first
    | with_reducible assumption | exact .trans (by decide) hF | with_reducible apply keeps_modRun
    | with_reducible apply keeps_raiseHold | split

theorem keeps_takeTurn {F : Nat} {s₀ s : State} (hF : Sub 0x3a07c1a70 F) (h : Keeps F s₀ s) (a1 : Nat) (a2 : Int)
    (a3 : Turn) :
    Keeps F s₀ (State.takeTurn s a1 a2 a3) := by
  unfold State.takeTurn; try dsimp only
  repeat' first
    | with_reducible assumption | exact .trans (by decide) hF | intro _ | with_reducible exact .rfl
    | with_reducible apply keeps_asOf | with_reducible apply keeps_modInfo | with_reducible apply keeps_fallDue
    | with_reducible apply keeps_countTagFault | with_reducible apply keeps_failRun
    | with_reducible apply keeps_logSpad | with_reducible apply keeps_raiseHold
    | with_reducible apply keeps_holdRows | with_reducible apply keeps_modClu
    | with_reducible apply keeps_modGrp | split | with_reducible apply Keeps.foldl

theorem keeps_settleGo {F : Nat} {s₀ : State} (hF : Sub 0x3a07c1a70 F) (a0 : Nat) : ∀ {s : State}, Keeps F s₀ s →
    Keeps F s₀ (State.settleGo a0 s) := by
  induction a0 with
  | zero => exact fun h => h
  | succ n ih =>
    intro s h
    simp only [State.settleGo]
    repeat' first
      | with_reducible assumption | with_reducible apply ih | with_reducible apply keeps_takeTurn | split

theorem keeps_settle {F : Nat} {s₀ s : State} (hF : Sub 0x3a07c1a70 F) (h : Keeps F s₀ s)  :
    Keeps F s₀ (State.settle s) := by
  unfold State.settle; try dsimp only
  repeat' first
    | with_reducible assumption | with_reducible apply keeps_settleGo

theorem keeps_noteReach {F : Nat} {s₀ s : State} (hF : Sub 0x4 F) (h : Keeps F s₀ s) (a1 : Nat) (a2 : Master) :
    Keeps F s₀ (State.noteReach s a1 a2) := by
  unfold State.noteReach; try dsimp only
  repeat' first
    | with_reducible assumption
    | (refine .of fun p => ?_; cases p <;> first | exact .inr (hF.bit rfl) | (dsimp only [Part.same]; first | exact .inl rfl | exact .inl ⟨rfl, rfl, rfl⟩))
    | intro _ | with_reducible exact .rfl | exact List.prefix_refl _ | with_reducible apply Keeps.upd

theorem keeps_hostCommand {F : Nat} {s : State} (hF : Sub 0x280100bfc F) (a1 : Nat) (a2 : Hdr) (a3 : Instr)
    (a4 : CmdInfo) (a5 : Inflight → State → State)
    (h5 : a4.inRange = true → ∀ (x0 : Inflight) (x1 : State) (s₁ : State), Keeps F s₁ x1 → Keeps F s₁ (a5 x0 x1)) :
    ∃ t, Keeps F (s.advance t) (State.hostCommand s a1 a2 a3 a4 a5) := by
  unfold State.hostCommand
  split
  · exact ⟨a1, .rfl⟩
  · exact ⟨s.ctrlStart a1, keeps_arrive (.trans (by decide) hF) (keeps_noteReach (.trans (by decide) hF) .rfl _ _)
      a2 a3 a4 a5 h5⟩

theorem keeps_fillRun {F : Nat} {s₀ s : State} (hF : Sub 0x41000 F) (h : Keeps F s₀ s) (a1 : Nat) (a2 : Run) :
    Keeps F s₀ (State.fillRun s a1 a2).1 := by
  unfold State.fillRun; try dsimp only
  repeat' first
    | with_reducible assumption | exact .trans (by decide) hF | intro _ | with_reducible apply keeps_modChunk
    | with_reducible apply keeps_modGrp | with_reducible apply Keeps.foldl_fst | split
theorem keeps_pair_fillRun {F : Nat} {s₀ s s' : State} (hF : Sub 0x41000 F) {r} {a1 : Nat} {a2 : Run}
    (e : State.fillRun s a1 a2 = (s', r)) (h : Keeps F s₀ s) : Keeps F s₀ s' := by
  have k := keeps_fillRun hF h a1 a2; rw [e] at k; exact k

theorem keeps_startRun {F : Nat} {s₀ s : State} (hF : Sub 0x1c1000 F) (h : Keeps F s₀ s) (a1 : Nat) (a2 : Run) :
    Keeps F s₀ (State.startRun s a1 a2) := by
  unfold State.startRun; try dsimp only
  repeat' first
    | with_reducible assumption | exact .trans (by decide) hF | intro _ | with_reducible exact .rfl
    | with_reducible apply keeps_fillRun | with_reducible apply keeps_modChunks
    | with_reducible apply keeps_modGrp | with_reducible apply keeps_modClu | with_reducible apply keeps_count
    | split | dsimp only | with_reducible apply Keeps.foldl

theorem keeps_enterGap {F : Nat} {s₀ s : State} (hF : Sub 0x10140000 F) (h : Keeps F s₀ s) (a1 : Nat) (a2 : Nat)
    (a3 : Option Run) :
    Keeps F s₀ (State.enterGap s a1 a2 a3) := by
  unfold State.enterGap; try dsimp only
  repeat' first
    | with_reducible assumption | exact .trans (by decide) hF
    | (refine .of fun p => ?_; cases p <;> first | exact .inr (hF.bit rfl) | (dsimp only [Part.same]; first | exact .inl rfl | exact .inl ⟨rfl, rfl, rfl⟩))
    | intro _ | with_reducible exact .rfl | with_reducible apply keeps_modGrp
    | with_reducible apply keeps_count | split | exact List.prefix_refl _ | with_reducible apply Keeps.upd

theorem keeps_enterRun {F : Nat} {s₀ s : State} (hF : Sub 0x101c1000 F) (h : Keeps F s₀ s) (a1 : Nat) (a2 : Run) :
    Keeps F s₀ (State.enterRun s a1 a2) := by
  unfold State.enterRun; try dsimp only
  repeat' first
    | with_reducible assumption | exact .trans (by decide) hF | with_reducible apply keeps_startRun
    | with_reducible apply keeps_enterGap | split

theorem keeps_enterUnplanned {F : Nat} {s₀ s : State} (hF : Sub 0x101c1000 F) (h : Keeps F s₀ s) (a1 : Nat) (a2 :
    Run) :
    Keeps F s₀ (State.enterUnplanned s a1 a2) := by
  unfold State.enterUnplanned; try dsimp only
  repeat' first
    | with_reducible assumption | with_reducible apply keeps_enterRun

theorem keeps_startSlot {F : Nat} {s₀ s : State} (hF : Sub 0x141000 F) (h : Keeps F s₀ s) (a1 : Nat) :
    Keeps F s₀ (State.startSlot s a1) := by
  unfold State.startSlot; try dsimp only
  repeat' first
    | with_reducible assumption | exact .trans (by decide) hF | with_reducible apply keeps_modGrp
    | with_reducible apply keeps_reduceU | with_reducible apply keeps_count | split

theorem keeps_proceed {F : Nat} {s₀ s : State} (hF : Sub 0x101c1000 F) (h : Keeps F s₀ s) (a1 : Nat) :
    Keeps F s₀ (State.proceed s a1) := by
  unfold State.proceed; try dsimp only
  repeat' first
    | with_reducible assumption | exact .trans (by decide) hF | with_reducible apply keeps_enterUnplanned
    | with_reducible apply keeps_modGrp | with_reducible apply keeps_startSlot
    | with_reducible apply keeps_enterRun | split

theorem keeps_retireVariant {F : Nat} {s₀ s : State} (hF : Sub 0xa0143830 F) (h : Keeps F s₀ s) (a1 : Nat) (a2 :
    Nat) (a3 : Nat) :
    Keeps F s₀ (State.retireVariant s a1 a2 a3) := by
  unfold State.retireVariant; try dsimp only
  repeat' first
    | with_reducible assumption | exact .trans (by decide) hF | intro _ | with_reducible exact .rfl
    | with_reducible apply keeps_setImg | with_reducible apply keeps_raiseInts
    | with_reducible apply keeps_logEvent | with_reducible apply keeps_modGrp
    | with_reducible apply keeps_completeChunk | split | with_reducible apply Keeps.foldl

theorem keeps_failChunks {F : Nat} {s₀ s : State} (hF : Sub 0xa0101830 F) (h : Keeps F s₀ s) (a1 : List (Nat ×
    Nat)) (a2 : Nat) (a3 : Int) :
    Keeps F s₀ (State.failChunks s a1 a2 a3) := by
  unfold State.failChunks; try dsimp only
  repeat' first
    | with_reducible assumption | intro _ | with_reducible exact .rfl
    | with_reducible apply keeps_completeChunk | split | with_reducible apply Keeps.foldl

theorem keeps_scaleOut {F : Nat} {s₀ s : State} (hF : Sub 0x100000 F) (h : Keeps F s₀ s) (a1 : Nat) (a2 : Image)
    (a3 : Nat) (a4 : Nat) :
    Keeps F s₀ (State.scaleOut s a1 a2 a3 a4).1 := by
  unfold State.scaleOut; try dsimp only
  repeat' first
    | with_reducible assumption | with_reducible apply keeps_count | with_reducible apply keeps_setCtr | split
theorem keeps_pair_scaleOut {F : Nat} {s₀ s s' : State} (hF : Sub 0x100000 F) {r} {a1 : Nat} {a2 : Image} {a3 :
    Nat} {a4 : Nat}
    (e : State.scaleOut s a1 a2 a3 a4 = (s', r)) (h : Keeps F s₀ s) : Keeps F s₀ s' := by
  have k := keeps_scaleOut hF h a1 a2 a3 a4; rw [e] at k; exact k

theorem keeps_endRun {F : Nat} {s₀ s : State} (hF : Sub 0x1b4fc1a70 F) (h : Keeps F s₀ s) (a1 : Nat) (a2 : Nat) (a3
    : Nat) :
    Keeps F s₀ (State.endRun s a1 a2 a3) := by
  unfold State.endRun; try dsimp only
  repeat' first
    | with_reducible assumption | exact .trans (by decide) hF | intro _ | with_reducible exact .rfl
    | with_reducible apply keeps_scaleOut | with_reducible apply keeps_modChunk
    | with_reducible apply keeps_count | with_reducible apply keeps_memStore
    | with_reducible apply keeps_modGrp | with_reducible apply keeps_proceed
    | with_reducible apply keeps_enterGap | with_reducible apply keeps_progressRetirement
    | with_reducible apply Keeps.foldl_fst | split | with_reducible apply Keeps.foldl

theorem keeps_endGap {F : Nat} {s₀ s : State} (hF : Sub 0x1b49c1a70 F) (h : Keeps F s₀ s) (a1 : Nat) :
    Keeps F s₀ (State.endGap s a1) := by
  unfold State.endGap; try dsimp only
  repeat' first
    | with_reducible assumption | exact .trans (by decide) hF | with_reducible apply keeps_modGrp
    | with_reducible apply keeps_startRun | with_reducible apply keeps_proceed
    | with_reducible apply keeps_progressRetirement | split

theorem keeps_endQuiesce {F : Nat} {s₀ s : State} (hF : Sub 0x1b4fc3a70 F) (h : Keeps F s₀ s) (a1 : Nat) (a2 :
    WriteRetries) :
    Keeps F s₀ (State.endQuiesce s a1 a2) := by
  unfold State.endQuiesce; try dsimp only
  repeat' first
    | with_reducible assumption | exact .trans (by decide) hF | with_reducible apply keeps_modChunks
    | with_reducible apply keeps_modGrp | with_reducible apply keeps_proceed
    | with_reducible apply keeps_failChunks | with_reducible apply keeps_enterUnplanned
    | with_reducible apply keeps_recordFault | with_reducible apply keeps_retireVariant
    | with_reducible apply keeps_progressRetirement | with_reducible apply keeps_requestSwaps | split

theorem keeps_endRetirement {F : Nat} {s₀ s : State} (hF : Sub 0x80040000 F) (h : Keeps F s₀ s) (a1 : Nat) :
    Keeps F s₀ (State.endRetirement s a1) := by
  unfold State.endRetirement; try dsimp only
  repeat' first
    | with_reducible assumption | exact .trans (by decide) hF | with_reducible apply keeps_logEvent
    | with_reducible apply keeps_modGrp | split

theorem keeps_roundStart {F : Nat} {s₀ s : State} (hF : Sub 0x1a49c3a70 F) (h : Keeps F s₀ s) (a1 : Nat) :
    Keeps F s₀ (State.roundStart s a1) := by
  unfold State.roundStart; try dsimp only
  repeat' first
    | with_reducible assumption | exact .trans (by decide) hF | with_reducible apply keeps_endRetirement
    | with_reducible apply keeps_count | with_reducible apply keeps_modGrp
    | with_reducible apply keeps_withdrawPlan | with_reducible apply keeps_shedStale
    | with_reducible apply keeps_judgeCapacity | with_reducible apply keeps_setBudget
    | with_reducible apply keeps_makePlan | with_reducible apply keeps_requestSwaps
    | with_reducible apply keeps_startSlot | with_reducible apply keeps_judgeAll
    | with_reducible apply keeps_progressRetirement | split

theorem keeps_execRoundStart (s : State) (a0 : Nat) (a1 : Nat) :
    Next 0x1a49c3a70 s (execRoundStart a0 a1 s) := by
  refine Next.of ⟨a0, ?_⟩; try dsimp only
  repeat' first
    | exact .trans (by decide) (Sub.refl _) | with_reducible exact .rfl | with_reducible apply keeps_roundStart

theorem keeps_afterTest {F : Nat} {s₀ s : State} (hF : Sub 0x80001 F) (h : Keeps F s₀ s) (a1 : Nat) (a2 : Nat) (a3
    : TestSet) :
    Keeps F s₀ (State.afterTest s a1 a2 a3) := by
  unfold State.afterTest; try dsimp only
  repeat' first
    | with_reducible assumption | exact .trans (by decide) hF
    | (refine .of fun p => ?_; cases p <;> first | exact .inr (hF.bit rfl) | (dsimp only [Part.same]; first | exact .inl rfl | exact .inl ⟨rfl, rfl, rfl⟩))
    | intro _ | with_reducible exact .rfl | with_reducible apply keeps_modClu | split
    | exact List.prefix_refl _ | with_reducible apply Keeps.upd

theorem keeps_setVerdict {F : Nat} {s₀ s : State} (hF : Sub 0x100000 F) (h : Keeps F s₀ s) (a1 : Nat) (a2 : Nat)
    (a3 : Nat) :
    Keeps F s₀ (State.setVerdict s a1 a2 a3) := by
  unfold State.setVerdict; try dsimp only
  repeat' first
    | with_reducible assumption | with_reducible apply keeps_setCtr

theorem keeps_lastingVerdict {F : Nat} {s₀ s : State} (hF : Sub 0x1a0141a70 F) (h : Keeps F s₀ s) (a1 : Nat) (a2 :
    TestEntry) (a3 : Option (Nat × Nat)) (a4 : Bool) :
    Keeps F s₀ (State.lastingVerdict s a1 a2 a3 a4) := by
  unfold State.lastingVerdict; try dsimp only
  repeat' first
    | with_reducible assumption | exact .trans (by decide) hF | with_reducible apply keeps_logEvent
    | with_reducible apply keeps_setVerdict | with_reducible apply keeps_count
    | with_reducible apply keeps_finishAll | with_reducible apply keeps_lastingRow
    | with_reducible apply keeps_retire | split

theorem keeps_passedVerdict {F : Nat} {s₀ s : State} (hF : Sub 0x1a0141a70 F) (h : Keeps F s₀ s) (a1 : Nat) (a2 :
    TestEntry) :
    Keeps F s₀ (State.passedVerdict s a1 a2) := by
  unfold State.passedVerdict; try dsimp only
  repeat' first
    | with_reducible assumption | exact .trans (by decide) hF
    | (refine .of fun p => ?_; cases p <;> first | exact .inr (hF.bit rfl) | (dsimp only [Part.same]; first | exact .inl rfl | exact .inl ⟨rfl, rfl, rfl⟩))
    | intro _ | with_reducible exact .rfl | with_reducible apply keeps_finishAll
    | with_reducible apply keeps_logEvent | with_reducible apply keeps_count
    | with_reducible apply keeps_lastingVerdict | with_reducible apply keeps_setVerdict | split
    | exact List.prefix_refl _ | with_reducible apply Keeps.upd

theorem keeps_modAlm {F : Nat} {s₀ s : State} (hF : Sub 0x2000 F) (h : Keeps F s₀ s) (a1 : Nat) (a2 : Nat) (a3 :
    AlmEntry → AlmEntry) :
    Keeps F s₀ (State.modAlm s a1 a2 a3) := by
  unfold State.modAlm; try dsimp only
  repeat' first
    | with_reducible assumption | with_reducible apply keeps_setImg | split

theorem keeps_judgeTargeted {F : Nat} {s₀ s : State} (hF : Sub 0x1a0141a70 F) (h : Keeps F s₀ s) (a1 : Nat) (a2 :
    Nat) (a3 : TestSet) (a4 : TestResult) :
    Keeps F s₀ (State.judgeTargeted s a1 a2 a3 a4) := by
  unfold State.judgeTargeted; try dsimp only
  repeat' first
    | with_reducible assumption | exact .trans (by decide) hF | with_reducible apply keeps_count
    | with_reducible apply keeps_modGrp | with_reducible apply keeps_passedVerdict
    | with_reducible apply keeps_lastingVerdict | split

theorem keeps_mismatch {F : Nat} {s₀ s : State} (hF : Sub 0xa0140820 F) (h : Keeps F s₀ s) (a1 : Nat) (a2 : Nat)
    (a3 : TestSet) :
    Keeps F s₀ (State.mismatch s a1 a2 a3) := by
  unfold State.mismatch; try dsimp only
  repeat' first
    | with_reducible assumption | exact .trans (by decide) hF | with_reducible apply keeps_queueTests
    | with_reducible apply keeps_logFrom

theorem keeps_judgeRotation {F : Nat} {s₀ s : State} (hF : Sub 0x1a0143a70 F) (h : Keeps F s₀ s) (a1 : Nat) (a2 :
    Nat) (a3 : TestSet) (a4 : TestResult) :
    Keeps F s₀ (State.judgeRotation s a1 a2 a3 a4) := by
  unfold State.judgeRotation; try dsimp only
  repeat' first
    | with_reducible assumption | exact .trans (by decide) hF | with_reducible apply keeps_count
    | with_reducible apply keeps_modAlm | with_reducible apply keeps_lastingVerdict
    | with_reducible apply keeps_logEvent | with_reducible apply keeps_mismatch | split

theorem keeps_almanacEnd {F : Nat} {s₀ s : State} (hF : Sub 0x1b49c3a71 F) (h : Keeps F s₀ s) (a1 : Nat) (a2 :
    TestResult) (a3 : Nat) (a4 : List Met) :
    Keeps F s₀ (State.almanacEnd s a1 a2 a3 a4) := by
  unfold State.almanacEnd; try dsimp only
  repeat' first
    | with_reducible assumption | exact .trans (by decide) hF | with_reducible apply keeps_applyMapouts
    | with_reducible apply keeps_modGrp | with_reducible apply keeps_afterTest
    | with_reducible apply keeps_reduceU | with_reducible apply keeps_judgeTargeted
    | with_reducible apply keeps_judgeRotation | with_reducible apply keeps_progressRetirement
    | with_reducible apply keeps_proceed | with_reducible apply keeps_judgeAll | split

theorem keeps_execAlmanacSlotEnd (s : State) (a0 : Nat) (a1 : Nat) (a2 : TestResult) (a3 : Nat) (a4 : List Met) :
    Next 0x1b49c3a71 s (execAlmanacSlotEnd a0 a1 a2 a3 s a4) := by
  refine Next.of ⟨a0, ?_⟩; try dsimp only
  repeat' first
    | exact .trans (by decide) (Sub.refl _) | with_reducible exact .rfl | with_reducible apply keeps_almanacEnd

theorem keeps_stampChunk {F : Nat} {s₀ s : State} (hF : Sub 0xa0141830 F) (h : Keeps F s₀ s) (a1 : Nat) (a2 : Int) :
    Keeps F s₀ (State.stampChunk s a1 a2) := by
  unfold State.stampChunk; try dsimp only
  repeat' first
    | with_reducible assumption | exact .trans (by decide) hF | with_reducible apply keeps_setStr
    | with_reducible apply keeps_count | with_reducible apply keeps_completeChunk
    | with_reducible apply keeps_requestSwaps | split

theorem keeps_deliverHeld {F : Nat} {s₀ s : State} (hF : Sub 0xa0141830 F) (h : Keeps F s₀ s) (a1 : Nat) :
    Keeps F s₀ (State.deliverHeld s a1) := by
  unfold State.deliverHeld; try dsimp only
  repeat' first
    | with_reducible assumption | exact .trans (by decide) hF | intro _ | with_reducible exact .rfl
    | with_reducible apply keeps_stampChunk | with_reducible apply keeps_setStr
    | with_reducible apply Keeps.foldl

theorem keeps_noteWrite {F : Nat} {s₀ s : State} (hF : Sub 0x101000 F) (h : Keeps F s₀ s) (a1 : Nat) :
    Keeps F s₀ (State.noteWrite s a1) := by
  unfold State.noteWrite; try dsimp only
  repeat' first
    | with_reducible assumption | exact .trans (by decide) hF | with_reducible apply keeps_countMax
    | with_reducible apply keeps_setStr | split

theorem keeps_notice {F : Nat} {s₀ s : State} (hF : Sub 0xa0141830 F) (h : Keeps F s₀ s) (a1 : Nat) :
    Keeps F s₀ (State.notice s a1) := by
  unfold State.notice; try dsimp only
  repeat' first
    | with_reducible assumption | exact .trans (by decide) hF | with_reducible apply keeps_noteWrite
    | with_reducible apply keeps_modStr | with_reducible apply keeps_stampChunk | split

theorem keeps_execReadinessNotice (s : State) (a0 : Nat) (a1 : Nat) :
    Next 0xa0141830 s (execReadinessNotice a0 a1 s) := by
  refine Next.of ⟨a0, ?_⟩; try dsimp only
  repeat' first
    | exact .trans (by decide) (Sub.refl _) | with_reducible exact .rfl | with_reducible apply keeps_notice

theorem keeps_gapEnd {F : Nat} {s₀ s : State} (hF : Sub 0x1b49c1a70 F) (h : Keeps F s₀ s) (a1 : Nat) :
    Keeps F s₀ (State.gapEnd s a1) := by
  unfold State.gapEnd; try dsimp only
  repeat' first
    | with_reducible assumption | with_reducible apply keeps_endGap | split

theorem keeps_execGapEnd (s : State) (a0 : Nat) (a1 : Nat) :
    Next 0x1b49c1a70 s (execGapEnd a0 a1 s) := by
  refine Next.of ⟨a0, ?_⟩; try dsimp only
  repeat' first
    | exact .trans (by decide) (Sub.refl _) | with_reducible exact .rfl | with_reducible apply keeps_gapEnd

end Sys2Proof.Machine
end

