-- ==== Sys2Proof/Laws/KeepsAudio.lean ====
section
/-! SUPPORT. One lemma for each operation of the serial audio ports: it keeps what `Keeps` says, within its
footprint. -/

namespace Sys2Proof.Machine

open Sys2Proof.Safety

theorem keeps_modPortInt {F : Nat} {s₀ s : State} (hF : Sub 0x800820 F) (h : Keeps F s₀ s) (a1 : Nat) (a2 : Port →
    Port) :
    Keeps F s₀ (State.modPortInt s a1 a2) := by
  unfold State.modPortInt; try dsimp only
  repeat' first
    | with_reducible assumption | exact .trans (by decide) hF | with_reducible apply keeps_modPrt
    | with_reducible apply keeps_raiseInts | split

theorem keeps_portCause {F : Nat} {s₀ s : State} (hF : Sub 0x80800820 F) (h : Keeps F s₀ s) (a1 : Nat) (a2 : BitVec
    4) :
    Keeps F s₀ (State.portCause s a1 a2) := by
  unfold State.portCause; try dsimp only
  repeat' first
    | with_reducible assumption | exact .trans (by decide) hF | with_reducible apply keeps_logEvent
    | with_reducible apply keeps_modPortInt | split

theorem keeps_bindChan {F : Nat} {s₀ s : State} (hF : Sub 0x1000000 F) (h : Keeps F s₀ s) (a1 : BitVec 32) (a2 :
    Nat) (a3 : Bool) :
    Keeps F s₀ (State.bindChan s a1 a2 a3) := by
  unfold State.bindChan; try dsimp only
  repeat' first
    | with_reducible assumption | with_reducible apply keeps_setChn | split

theorem keeps_unbindChan {F : Nat} {s₀ s : State} (hF : Sub 0x1000000 F) (h : Keeps F s₀ s) (a1 : BitVec 32) (a2 :
    Bool) :
    Keeps F s₀ (State.unbindChan s a1 a2) := by
  unfold State.unbindChan; try dsimp only
  repeat' first
    | with_reducible assumption | with_reducible apply keeps_setChn | split

theorem keeps_unbind {F : Nat} {s₀ s : State} (hF : Sub 0x1000000 F) (h : Keeps F s₀ s) (a1 : Nat) :
    Keeps F s₀ (State.unbind s a1) := by
  unfold State.unbind; try dsimp only
  repeat' first
    | with_reducible assumption | with_reducible apply keeps_unbindChan

theorem keeps_deliverOutput {F : Nat} {s₀ s : State} (hF : Sub 0x1101800 F) (h : Keeps F s₀ s) (a1 : Nat) (a2 :
    Nat) (a3 : Nat) (a4 : List Byte) :
    Keeps F s₀ (State.deliverOutput s a1 a2 a3 a4) := by
  unfold State.deliverOutput; try dsimp only
  repeat' first
    | with_reducible assumption | exact .trans (by decide) hF | with_reducible apply keeps_count
    | with_reducible apply keeps_setStr | with_reducible apply keeps_setChn
    | with_reducible apply keeps_hostWriteRelaxed | split

theorem keeps_mapChans {F : Nat} {s₀ s : State} (hF : Sub 0x1000000 F) (h : Keeps F s₀ s) (a1 : Nat) (a2 : Nat) (a3
    : Chan → Chan) :
    Keeps F s₀ (State.mapChans s a1 a2 a3) := by
  unfold State.mapChans; try dsimp only
  repeat' first
    | with_reducible assumption | intro _ | with_reducible exact .rfl | with_reducible apply keeps_setChn
    | with_reducible apply Keeps.foldl

theorem keeps_enterUnderrun {F : Nat} {s₀ s : State} (hF : Sub 0x21900820 F) (h : Keeps F s₀ s) (a1 : Nat) :
    Keeps F s₀ (State.enterUnderrun s a1) := by
  unfold State.enterUnderrun; try dsimp only
  repeat' first
    | with_reducible assumption | exact .trans (by decide) hF | with_reducible apply keeps_mapChans
    | with_reducible apply keeps_modPrt | with_reducible apply keeps_judgeAll
    | with_reducible apply keeps_count | split

theorem keeps_setRateFault {F : Nat} {s₀ s : State} (hF : Sub 0xa1900820 F) (h : Keeps F s₀ s) (a1 : Nat) (a2 :
    Bool) :
    Keeps F s₀ (State.setRateFault s a1 a2) := by
  unfold State.setRateFault; try dsimp only
  repeat' first
    | with_reducible assumption | exact .trans (by decide) hF | with_reducible apply keeps_modPrt
    | with_reducible apply keeps_judgeAll | with_reducible apply keeps_portCause
    | with_reducible apply keeps_enterUnderrun | split

theorem keeps_windowResult {F : Nat} {s₀ s : State} (hF : Sub 0xa1900820 F) (h : Keeps F s₀ s) (a1 : Nat) (a2 :
    Nat) (a3 : Int) :
    Keeps F s₀ (State.windowResult s a1 a2 a3) := by
  unfold State.windowResult; try dsimp only
  repeat' first
    | with_reducible assumption | exact .trans (by decide) hF | with_reducible apply keeps_modPrt
    | with_reducible apply keeps_portCause | with_reducible apply keeps_setRateFault | split

theorem keeps_frameZero {F : Nat} {s₀ s : State} (hF : Sub 0x1801000 F) (h : Keeps F s₀ s) (a1 : Nat) (a2 : Nat) :
    Keeps F s₀ (State.frameZero s a1 a2) := by
  unfold State.frameZero; try dsimp only
  repeat' first
    | with_reducible assumption | exact .trans (by decide) hF | intro _ | with_reducible exact .rfl
    | with_reducible apply keeps_modPrt | with_reducible apply keeps_modStr | with_reducible apply keeps_setChn
    | split | with_reducible apply Keeps.foldl

theorem keeps_frameStart {F : Nat} {s₀ s : State} (hF : Sub 0x21901820 F) (h : Keeps F s₀ s) (a1 : Nat) (a2 : Nat) :
    Keeps F s₀ (State.frameStart s a1 a2) := by
  unfold State.frameStart; try dsimp only
  repeat' first
    | with_reducible assumption | exact .trans (by decide) hF | with_reducible apply keeps_setPrt
    | with_reducible apply keeps_judgeAll | with_reducible apply keeps_frameZero | split

theorem keeps_dueRx {F : Nat} {s₀ s : State} (hF : Sub 0x800000 F) (h : Keeps F s₀ s) (a1 : Nat) :
    Keeps F s₀ (State.dueRx s a1) := by
  unfold State.dueRx; try dsimp only
  repeat' first
    | with_reducible assumption | with_reducible apply keeps_setPrt | split

theorem keeps_dueTx {F : Nat} {s₀ s : State} (hF : Sub 0x800000 F) (h : Keeps F s₀ s) (a1 : Nat) :
    Keeps F s₀ (State.dueTx s a1) := by
  unfold State.dueTx; try dsimp only
  repeat' first
    | with_reducible assumption | with_reducible apply keeps_setPrt | split

theorem keeps_emitRx {F : Nat} {s₀ s : State} (hF : Sub 0x181701820 F) (h : Keeps F s₀ s) (a1 : Nat) (a2 : Nat) (a3
    : Int) (a4 : Bool) (a5 : Bool) :
    Keeps F s₀ (State.emitRx s a1 a2 a3 a4 a5) := by
  unfold State.emitRx; try dsimp only
  repeat' first
    | with_reducible assumption | exact .trans (by decide) hF | with_reducible apply keeps_count
    | with_reducible apply keeps_setChn | with_reducible apply keeps_putRing
    | with_reducible apply keeps_setStr | split

theorem keeps_emitFrame {F : Nat} {s₀ s : State} (hF : Sub 0x181f01820 F) (h : Keeps F s₀ s) (a1 : Nat) (a2 :
    Option Frame) :
    Keeps F s₀ (State.emitFrame s a1 a2) := by
  unfold State.emitFrame; try dsimp only
  repeat' first
    | with_reducible assumption | exact .trans (by decide) hF | intro _ | with_reducible exact .rfl
    | with_reducible apply keeps_emitRx | with_reducible apply keeps_modPrt | split
    | with_reducible apply Keeps.foldl

theorem keeps_underrunTick {F : Nat} {s₀ s : State} (hF : Sub 0x181f01820 F) (h : Keeps F s₀ s) (a1 : Nat) :
    Keeps F s₀ (State.underrunTick s a1) := by
  unfold State.underrunTick; try dsimp only
  repeat' first
    | with_reducible assumption | exact .trans (by decide) hF | with_reducible apply keeps_emitFrame
    | with_reducible apply keeps_setPrt | with_reducible apply keeps_modPrt | split

theorem keeps_normalTick {F : Nat} {s₀ s : State} (hF : Sub 0x1a1f01820 F) (h : Keeps F s₀ s) (a1 : Nat) :
    Keeps F s₀ (State.normalTick s a1) := by
  unfold State.normalTick; try dsimp only
  repeat' first
    | with_reducible assumption | exact .trans (by decide) hF | with_reducible apply keeps_emitFrame
    | with_reducible apply keeps_setPrt | with_reducible apply keeps_underrunTick
    | with_reducible apply keeps_enterUnderrun | with_reducible apply keeps_count
    | with_reducible apply keeps_dueRx | split

theorem keeps_rxTick {F : Nat} {s₀ s : State} (hF : Sub 0x1a1f01820 F) (h : Keeps F s₀ s) (a1 : Nat) :
    Keeps F s₀ (State.rxTick s a1) := by
  unfold State.rxTick; try dsimp only
  repeat' first
    | with_reducible assumption | exact .trans (by decide) hF | with_reducible apply keeps_normalTick
    | with_reducible apply keeps_judgeAll | with_reducible apply keeps_setPrt
    | with_reducible apply keeps_underrunTick | split

theorem keeps_emitTx {F : Nat} {s₀ s : State} (hF : Sub 0x1100000 F) (h : Keeps F s₀ s) (a1 : Nat) (a2 : Nat) :
    Keeps F s₀ (State.emitTx s a1 a2).1 := by
  unfold State.emitTx; try dsimp only
  repeat' first
    | with_reducible assumption | exact .trans (by decide) hF | with_reducible apply keeps_setChn
    | with_reducible apply keeps_count | split
theorem keeps_pair_emitTx {F : Nat} {s₀ s s' : State} (hF : Sub 0x1100000 F) {r} {a1 : Nat} {a2 : Nat}
    (e : State.emitTx s a1 a2 = (s', r)) (h : Keeps F s₀ s) : Keeps F s₀ s' := by
  have k := keeps_emitTx hF h a1 a2; rw [e] at k; exact k

theorem keeps_txTick {F : Nat} {s₀ s : State} (hF : Sub 0x1900000 F) (h : Keeps F s₀ s) (a1 : Nat) :
    Keeps F s₀ (State.txTick s a1) := by
  unfold State.txTick; try dsimp only
  repeat' first
    | with_reducible assumption | exact .trans (by decide) hF | intro _ | with_reducible apply keeps_modPrt
    | with_reducible apply keeps_emitTx | with_reducible apply keeps_count | with_reducible apply keeps_setPrt
    | with_reducible apply keeps_dueTx | with_reducible apply Keeps.foldl_fst | split

theorem keeps_resetPort {F : Nat} {s₀ s : State} (hF : Sub 0x900000 F) (h : Keeps F s₀ s) (a1 : Nat) :
    Keeps F s₀ (State.resetPort s a1) := by
  unfold State.resetPort; try dsimp only
  repeat' first
    | with_reducible assumption | exact .trans (by decide) hF | intro _ | with_reducible exact .rfl
    | with_reducible apply keeps_setCtr | with_reducible apply keeps_modPrt | with_reducible apply Keeps.foldl

theorem keeps_resumePort {F : Nat} {s₀ s : State} (hF : Sub 0x1800000 F) (h : Keeps F s₀ s) (a1 : Nat) :
    Keeps F s₀ (State.resumePort s a1) := by
  unfold State.resumePort; try dsimp only
  repeat' first
    | with_reducible assumption | exact .trans (by decide) hF | with_reducible apply keeps_mapChans
    | with_reducible apply keeps_modPrt

/-- An access to the registers. -/
theorem keeps_access {F : Nat} {s : State} (a1 : Nat) (a2 : Master) (a3 : State → State)
    (h3 : ∀ x0 s₁ : State, Keeps F s₁ x0 → Keeps F s₁ (a3 x0)) :
    ∃ t, Keeps F (s.advance t) (State.access s a1 a2 a3) := by
  refine ⟨s.ctrlStart a1, ?_⟩
  unfold State.access
  split
  · exact h3 _ _ .rfl
  · exact .rfl

/-- A read of the registers. -/
theorem keeps_readAccess {F : Nat} {s : State} (a1 : Nat) (a2 : Master) (a3 : State → State)
    (h3 : ∀ x0 s₁ : State, Keeps F s₁ x0 → Keeps F s₁ (a3 x0)) :
    ∃ t, Keeps F (s.advance t) (State.readAccess s a1 a2 a3) := by
  refine ⟨s.ctrlStart a1, ?_⟩
  unfold State.readAccess
  split
  · exact h3 _ _ .rfl
  · exact .rfl

theorem keeps_applyCfg {F : Nat} {s₀ s : State} (hF : Sub 0x21900820 F) (h : Keeps F s₀ s) (a1 : Nat) (a2 : Port) :
    Keeps F s₀ (State.applyCfg s a1 a2) := by
  unfold State.applyCfg; try dsimp only
  repeat' first
    | with_reducible assumption | exact .trans (by decide) hF | with_reducible apply keeps_setPrt
    | with_reducible apply keeps_mapChans | with_reducible apply keeps_judgeAll | split

theorem keeps_writePortCfg {F : Nat} {s₀ s : State} (hF : Sub 0x21900820 F) (h : Keeps F s₀ s) (a1 : Master) (a2 :
    Nat) (a3 : Nat) :
    Keeps F s₀ (State.writePortCfg s a1 a2 a3) := by
  unfold State.writePortCfg; try dsimp only
  repeat' first
    | with_reducible assumption | exact .trans (by decide) hF | with_reducible apply keeps_applyCfg
    | with_reducible apply keeps_setPrt | split

theorem keeps_execPortCfgWrite (s : State) (a0 : Nat) (a1 : Master) (a2 : Nat) (a3 : Reg) :
    Next 0x21900820 s (execPortCfgWrite a0 a1 a2 a3 s) := by
  refine Next.of (keeps_access _ _ _ fun x0 s₁ h => ?_)
  try dsimp only
  repeat' first
    | with_reducible assumption | exact .trans (by decide) (Sub.refl _)
    | with_reducible apply keeps_writePortCfg

theorem keeps_writeRxMask {F : Nat} {s₀ s : State} (hF : Sub 0x800000 F) (h : Keeps F s₀ s) (a1 : Master) (a2 :
    Nat) (a3 : Reg) :
    Keeps F s₀ (State.writeRxMask s a1 a2 a3) := by
  unfold State.writeRxMask; try dsimp only
  repeat' first
    | with_reducible assumption | with_reducible apply keeps_modPrt | split

theorem keeps_writeTxMask {F : Nat} {s₀ s : State} (hF : Sub 0x800000 F) (h : Keeps F s₀ s) (a1 : Master) (a2 :
    Nat) (a3 : Reg) :
    Keeps F s₀ (State.writeTxMask s a1 a2 a3) := by
  unfold State.writeTxMask; try dsimp only
  repeat' first
    | with_reducible assumption | with_reducible apply keeps_modPrt | split

theorem keeps_execRxMaskWrite (s : State) (a0 : Nat) (a1 : Master) (a2 : Nat) (a3 : Reg) :
    Next 0x800000 s (execRxMaskWrite a0 a1 a2 a3 s) := by
  refine Next.of (keeps_access _ _ _ fun x0 s₁ h => ?_)
  try dsimp only
  repeat' first
    | with_reducible assumption | exact .trans (by decide) (Sub.refl _)
    | with_reducible apply keeps_writeRxMask

theorem keeps_execTxMaskWrite (s : State) (a0 : Nat) (a1 : Master) (a2 : Nat) (a3 : Reg) :
    Next 0x800000 s (execTxMaskWrite a0 a1 a2 a3 s) := by
  refine Next.of (keeps_access _ _ _ fun x0 s₁ h => ?_)
  try dsimp only
  repeat' first
    | with_reducible assumption | exact .trans (by decide) (Sub.refl _)
    | with_reducible apply keeps_writeTxMask

theorem keeps_writeMembers {F : Nat} {s₀ s : State} (hF : Sub 0x2000000 F) (h : Keeps F s₀ s) (a1 : Master) (a2 :
    Nat) (a3 : Nat) :
    Keeps F s₀ (State.writeMembers s a1 a2 a3) := by
  unfold State.writeMembers; try dsimp only
  repeat' first
    | with_reducible assumption | with_reducible apply keeps_setEqx | split

theorem keeps_armEqx {F : Nat} {s₀ s : State} (hF : Sub 0x2800000 F) (h : Keeps F s₀ s) (a1 : Master) (a2 : Nat) :
    Keeps F s₀ (State.armEqx s a1 a2) := by
  unfold State.armEqx; try dsimp only
  repeat' first
    | with_reducible assumption | exact .trans (by decide) hF | intro _ | with_reducible exact .rfl
    | with_reducible apply keeps_modPrt | with_reducible apply keeps_setEqx | split
    | with_reducible apply Keeps.foldl

theorem keeps_fireEqx {F : Nat} {s₀ s : State} (hF : Sub 0x2800000 F) (h : Keeps F s₀ s) (a1 : Master) (a2 : Nat) :
    Keeps F s₀ (State.fireEqx s a1 a2) := by
  unfold State.fireEqx; try dsimp only
  repeat' first
    | with_reducible assumption | exact .trans (by decide) hF | intro _ | with_reducible exact .rfl
    | with_reducible apply keeps_modPrt | with_reducible apply keeps_setEqx | split
    | with_reducible apply Keeps.foldl

theorem keeps_disarmEqx {F : Nat} {s₀ s : State} (hF : Sub 0x2800000 F) (h : Keeps F s₀ s) (a1 : Master) (a2 : Nat) :
    Keeps F s₀ (State.disarmEqx s a1 a2) := by
  unfold State.disarmEqx; try dsimp only
  repeat' first
    | with_reducible assumption | exact .trans (by decide) hF | intro _ | with_reducible exact .rfl
    | with_reducible apply keeps_setEqx | with_reducible apply keeps_modPrt | split
    | with_reducible apply Keeps.foldl

theorem keeps_execMembersWrite (s : State) (a0 : Nat) (a1 : Master) (a2 : Nat) (a3 : Reg) :
    Next 0x2000000 s (execMembersWrite a0 a1 a2 a3 s) := by
  refine Next.of (keeps_access _ _ _ fun x0 s₁ h => ?_)
  try dsimp only
  repeat' first
    | with_reducible assumption | exact .trans (by decide) (Sub.refl _)
    | with_reducible apply keeps_writeMembers

theorem keeps_execArm (s : State) (a0 : Nat) (a1 : Master) (a2 : Nat) :
    Next 0x2800000 s (execArm a0 a1 a2 s) := by
  refine Next.of (keeps_access _ _ _ fun x0 s₁ h => ?_)
  try dsimp only
  repeat' first
    | with_reducible assumption | exact .trans (by decide) (Sub.refl _) | with_reducible apply keeps_armEqx

theorem keeps_execFire (s : State) (a0 : Nat) (a1 : Master) (a2 : Nat) :
    Next 0x2800000 s (execFire a0 a1 a2 s) := by
  refine Next.of (keeps_access _ _ _ fun x0 s₁ h => ?_)
  try dsimp only
  repeat' first
    | with_reducible assumption | exact .trans (by decide) (Sub.refl _) | with_reducible apply keeps_fireEqx

theorem keeps_execDisarm (s : State) (a0 : Nat) (a1 : Master) (a2 : Nat) :
    Next 0x2800000 s (execDisarm a0 a1 a2 s) := by
  refine Next.of (keeps_access _ _ _ fun x0 s₁ h => ?_)
  try dsimp only
  repeat' first
    | with_reducible assumption | exact .trans (by decide) (Sub.refl _) | with_reducible apply keeps_disarmEqx

theorem keeps_restartMasters {F : Nat} {s₀ s : State} (hF : Sub 0x800000 F) (h : Keeps F s₀ s) (a1 : Nat) :
    Keeps F s₀ (State.restartMasters s a1) := by
  unfold State.restartMasters; try dsimp only
  repeat' first
    | with_reducible assumption | intro _ | with_reducible exact .rfl | with_reducible apply keeps_setPrt
    | split | with_reducible apply Keeps.foldl

theorem keeps_execEquinoxMasterRestart (s : State) (a0 : Nat) (a1 : Nat) :
    Next 0x800000 s (execEquinoxMasterRestart a0 a1 s) := by
  refine Next.of ⟨a0, ?_⟩; try dsimp only
  repeat' first
    | exact .trans (by decide) (Sub.refl _) | with_reducible exact .rfl
    | with_reducible apply keeps_restartMasters

theorem keeps_triggerEqx {F : Nat} {s₀ s : State} (hF : Sub 0x2800000 F) (h : Keeps F s₀ s) (a1 : Nat) :
    Keeps F s₀ (State.triggerEqx s a1) := by
  unfold State.triggerEqx; try dsimp only
  repeat' first
    | with_reducible assumption | exact .trans (by decide) hF | intro _ | with_reducible exact .rfl
    | with_reducible apply keeps_modPrt | with_reducible apply keeps_setEqx | split
    | with_reducible apply Keeps.foldl

theorem keeps_execEquinoxTrigger (s : State) (a0 : Nat) (a1 : Nat) :
    Next 0x2800000 s (execEquinoxTrigger a0 a1 s) := by
  refine Next.of ⟨a0, ?_⟩; try dsimp only
  repeat' first
    | exact .trans (by decide) (Sub.refl _) | with_reducible exact .rfl | with_reducible apply keeps_triggerEqx

theorem keeps_offsetWindow {F : Nat} {s₀ s : State} (hF : Sub 0x800000 F) (h : Keeps F s₀ s) (a1 : Nat) :
    Keeps F s₀ (State.offsetWindow s a1) := by
  unfold State.offsetWindow; try dsimp only
  repeat' first
    | with_reducible assumption | intro _ | with_reducible exact .rfl | with_reducible apply keeps_modPrt
    | split | with_reducible apply Keeps.foldl

theorem keeps_execEqxOffsetWindow (s : State) (a0 : Nat) (a1 : Nat) :
    Next 0x800000 s (execEqxOffsetWindow a0 a1 s) := by
  refine Next.of ⟨a0, ?_⟩; try dsimp only
  repeat' first
    | exact .trans (by decide) (Sub.refl _) | with_reducible exact .rfl
    | with_reducible apply keeps_offsetWindow

theorem keeps_edgeStart {F : Nat} {s₀ s : State} (hF : Sub 0x20900820 F) (h : Keeps F s₀ s) (a1 : Nat) (a2 : Nat) :
    Keeps F s₀ (State.edgeStart s a1 a2) := by
  unfold State.edgeStart; try dsimp only
  repeat' first
    | with_reducible assumption | exact .trans (by decide) hF | with_reducible apply keeps_judgeAll
    | with_reducible apply keeps_setPrt | split

theorem keeps_receiveFrame {F : Nat} {s₀ s : State} (hF : Sub 0x21901820 F) (h : Keeps F s₀ s) (a1 : Nat) (a2 :
    Nat) (a3 : List (BitVec 32)) :
    Keeps F s₀ (State.receiveFrame s a1 a2 a3) := by
  unfold State.receiveFrame; try dsimp only
  repeat' first
    | with_reducible assumption | exact .trans (by decide) hF | with_reducible apply keeps_edgeStart
    | with_reducible apply keeps_frameStart | with_reducible apply keeps_count
    | with_reducible apply keeps_setPrt | split

theorem keeps_tapFrame {F : Nat} {s₀ s : State} (hF : Sub 0x40000000 F) (h : Keeps F s₀ s) (a1 : Nat) :
    Keeps F s₀ (State.tapFrame s a1) := by
  unfold State.tapFrame; try dsimp only
  repeat' first
    | with_reducible assumption
    | (refine .of fun p => ?_; cases p <;> first | exact .inr (hF.bit rfl) | (dsimp only [Part.same]; first | exact .inl rfl | exact .inl ⟨rfl, rfl, rfl⟩))
    | intro _ | with_reducible exact .rfl | split | exact List.prefix_refl _ | with_reducible apply Keeps.upd

theorem keeps_execReceiveFrame (s : State) (a0 : Nat) (a1 : Nat) (a2 : Nat) (a3 : List (BitVec 32)) :
    Next 0x61901820 s (execReceiveFrame a0 a1 a2 a3 s) := by
  refine Next.of ⟨a0, ?_⟩; try dsimp only
  repeat' first
    | exact .trans (by decide) (Sub.refl _) | with_reducible exact .rfl
    | with_reducible apply keeps_receiveFrame | with_reducible apply keeps_tapFrame

theorem keeps_sendFrame {F : Nat} {s₀ s : State} (hF : Sub 0x21901820 F) (h : Keeps F s₀ s) (a1 : Nat) :
    Keeps F s₀ (State.sendFrame s a1) := by
  unfold State.sendFrame; try dsimp only
  repeat' first
    | with_reducible assumption | exact .trans (by decide) hF | with_reducible apply keeps_emit
    | with_reducible apply keeps_edgeStart | with_reducible apply keeps_frameStart
    | with_reducible apply keeps_setPrt | with_reducible apply keeps_count | split

theorem keeps_execTransmitFrameStart (s : State) (a0 : Nat) (a1 : Nat) :
    Next 0x21901820 s (execTransmitFrameStart a0 a1 s) := by
  refine Next.of ⟨a0, ?_⟩; try dsimp only
  repeat' first
    | exact .trans (by decide) (Sub.refl _) | with_reducible exact .rfl | with_reducible apply keeps_sendFrame

theorem keeps_paceTick {F : Nat} {s₀ s : State} (hF : Sub 0x1a1f01820 F) (h : Keeps F s₀ s) (a1 : Nat) :
    Keeps F s₀ (State.paceTick s a1) := by
  unfold State.paceTick; try dsimp only
  repeat' first
    | with_reducible assumption | exact .trans (by decide) hF | with_reducible apply keeps_txTick
    | with_reducible apply keeps_rxTick | with_reducible apply keeps_setPrt | split

theorem keeps_execPaceTick (s : State) (a0 : Nat) (a1 : Nat) :
    Next 0x1a1f01820 s (execPaceTick a0 a1 s) := by
  refine Next.of ⟨a0, ?_⟩; try dsimp only
  repeat' first
    | exact .trans (by decide) (Sub.refl _) | with_reducible exact .rfl | with_reducible apply keeps_paceTick

theorem keeps_windowEnd {F : Nat} {s₀ s : State} (hF : Sub 0xa1900820 F) (h : Keeps F s₀ s) (a1 : Nat) :
    Keeps F s₀ (State.windowEnd s a1) := by
  unfold State.windowEnd; try dsimp only
  repeat' first
    | with_reducible assumption | exact .trans (by decide) hF | with_reducible apply keeps_setPrt
    | with_reducible apply keeps_windowResult | split

theorem keeps_execRateWindowEnd (s : State) (a0 : Nat) (a1 : Nat) :
    Next 0xa1900820 s (execRateWindowEnd a0 a1 s) := by
  refine Next.of ⟨a0, ?_⟩; try dsimp only
  repeat' first
    | exact .trans (by decide) (Sub.refl _) | with_reducible exact .rfl | with_reducible apply keeps_windowEnd

theorem keeps_subWindowEnd {F : Nat} {s₀ s : State} (hF : Sub 0x2a1900a70 F) (h : Keeps F s₀ s) (a1 : Nat) :
    Keeps F s₀ (State.subWindowEnd s a1) := by
  unfold State.subWindowEnd; try dsimp only
  repeat' first
    | with_reducible assumption | exact .trans (by decide) hF | intro _ | with_reducible apply keeps_setPrt
    | with_reducible apply keeps_fireArmed | with_reducible apply keeps_asInjected
    | with_reducible apply keeps_setRateFault | split

theorem keeps_execSubWindowEnd (s : State) (a0 : Nat) (a1 : Nat) :
    Next 0x2a1900a70 s (execSubWindowEnd a0 a1 s) := by
  refine Next.of ⟨a0, ?_⟩; try dsimp only
  repeat' first
    | exact .trans (by decide) (Sub.refl _) | with_reducible exact .rfl
    | with_reducible apply keeps_subWindowEnd

theorem keeps_setNoClock {F : Nat} {s₀ s : State} (hF : Sub 0xa0900820 F) (h : Keeps F s₀ s) (a1 : Nat) :
    Keeps F s₀ (State.setNoClock s a1) := by
  unfold State.setNoClock; try dsimp only
  repeat' first
    | with_reducible assumption | exact .trans (by decide) hF | with_reducible apply keeps_judgeAll
    | with_reducible apply keeps_portCause | with_reducible apply keeps_modPrt

theorem keeps_loseClock {F : Nat} {s₀ s : State} (hF : Sub 0x2a0900a70 F) (h : Keeps F s₀ s) (a1 : Nat) :
    Keeps F s₀ (State.loseClock s a1) := by
  unfold State.loseClock; try dsimp only
  repeat' first
    | with_reducible assumption | exact .trans (by decide) hF | intro _ | with_reducible apply keeps_fireArmed
    | with_reducible apply keeps_asInjected | with_reducible apply keeps_setNoClock | split

theorem keeps_execNoClock (s : State) (a0 : Nat) (a1 : Nat) :
    Next 0x2a0900a70 s (execNoClock a0 a1 s) := by
  refine Next.of ⟨a0, ?_⟩; try dsimp only
  repeat' first
    | exact .trans (by decide) (Sub.refl _) | with_reducible exact .rfl | with_reducible apply keeps_loseClock

end Sys2Proof.Machine
end

