-- ==== Sys2Proof/Laws/KeepsRun.lean ====
section
/-! SUPPORT. One lemma for each operation of the events of a run: transfers, actions, words: it keeps what `Keeps` says, within its
footprint. -/

namespace Sys2Proof.Machine

open Sys2Proof.Safety

theorem keeps_quiesceEnd {F : Nat} {s₀ s : State} (hF : Sub 0x1b4fc3a70 F) (h : Keeps F s₀ s) (a1 : Nat) (a2 :
    WriteRetries) :
    Keeps F s₀ (State.quiesceEnd s a1 a2) := by
  unfold State.quiesceEnd; try dsimp only
  repeat' first
    | with_reducible assumption | with_reducible apply keeps_endQuiesce | split

theorem keeps_execQuiesceEnd (s : State) (a0 : Nat) (a1 : Nat) (a2 : WriteRetries) :
    Next 0x1b4fc3a70 s (execQuiesceEnd a0 a1 s a2) := by
  refine Next.of ⟨a0, ?_⟩; try dsimp only
  repeat' first
    | exact .trans (by decide) (Sub.refl _) | with_reducible exact .rfl | with_reducible apply keeps_quiesceEnd

theorem keeps_holdTimeout {F : Nat} {s₀ s : State} (hF : Sub 0x3a07c1a70 F) (h : Keeps F s₀ s) (a1 : Nat) :
    Keeps F s₀ (State.holdTimeout s a1) := by
  unfold State.holdTimeout; try dsimp only
  repeat' first
    | with_reducible assumption | exact .trans (by decide) hF | with_reducible apply keeps_takeTurn
    | with_reducible apply keeps_failRun | split

theorem keeps_execHoldTimeout (s : State) (a0 : Nat) (a1 : Nat) :
    Next 0x3a07c1a70 s (execHoldTimeout a0 a1 s) := by
  refine Next.of ⟨a0, ?_⟩; try dsimp only
  repeat' first
    | exact .trans (by decide) (Sub.refl _) | with_reducible exact .rfl
    | with_reducible apply keeps_holdTimeout

theorem keeps_scrubHoldEnd {F : Nat} {s₀ s : State} (hF : Sub 0x1a0141a70 F) (h : Keeps F s₀ s) (a1 : Nat) :
    Keeps F s₀ (State.scrubHoldEnd s a1) := by
  unfold State.scrubHoldEnd; try dsimp only
  repeat' first
    | with_reducible assumption | exact .trans (by decide) hF | intro _ | with_reducible exact .rfl
    | with_reducible apply keeps_modGrp | with_reducible apply keeps_count
    | with_reducible apply keeps_dropHold | with_reducible apply keeps_verifyFailed | split
    | with_reducible apply Keeps.foldl

theorem keeps_execScrubHoldEnd (s : State) (a0 : Nat) (a1 : Nat) :
    Next 0x1a0141a70 s (execScrubHoldEnd a0 a1 s) := by
  refine Next.of ⟨a0, ?_⟩; try dsimp only
  repeat' first
    | exact .trans (by decide) (Sub.refl _) | with_reducible exact .rfl
    | with_reducible apply keeps_scrubHoldEnd

theorem keeps_stepLane {F : Nat} {s₀ s : State} (hF : Sub 0x40000 F) (h : Keeps F s₀ s) (a1 : Nat) (a2 : Nat) (a3 :
    Nat) (a4 : Nat) :
    Keeps F s₀ (State.stepLane s a1 a2 a3 a4) := by
  unfold State.stepLane; try dsimp only
  repeat' first
    | with_reducible assumption | with_reducible apply keeps_modGrp

theorem keeps_switchCopy {F : Nat} {s₀ s : State} (hF : Sub 0x41000 F) (h : Keeps F s₀ s) (a1 : Nat) (a2 : Nat) :
    Keeps F s₀ (State.switchCopy s a1 a2) := by
  unfold State.switchCopy; try dsimp only
  repeat' first
    | with_reducible assumption | exact .trans (by decide) hF | with_reducible apply keeps_setStr
    | with_reducible apply keeps_setSlot | split

theorem keeps_commitState {F : Nat} {s₀ s : State} (hF : Sub 0x41000 F) (h : Keeps F s₀ s) (a1 : Nat) (a2 : Nat)
    (a3 : Nat) :
    Keeps F s₀ (State.commitState s a1 a2 a3) := by
  unfold State.commitState; try dsimp only
  repeat' first
    | with_reducible assumption | exact .trans (by decide) hF | with_reducible apply keeps_stepLane
    | with_reducible apply keeps_switchCopy | split

theorem keeps_execCommitState (s : State) (a0 : Nat) (a1 : Nat) (a2 : Nat) (a3 : Nat) :
    Next 0x41000 s (execCommitState a0 a1 a2 a3 s) := by
  refine Next.of ⟨a0, ?_⟩; try dsimp only
  repeat' first
    | exact .trans (by decide) (Sub.refl _) | with_reducible exact .rfl
    | with_reducible apply keeps_commitState

theorem keeps_commitOutput {F : Nat} {s₀ s : State} (hF : Sub 0x1141800 F) (h : Keeps F s₀ s) (a1 : Nat) (a2 : Nat)
    (a3 : Nat) :
    Keeps F s₀ (State.commitOutput s a1 a2 a3) := by
  unfold State.commitOutput; try dsimp only
  repeat' first
    | with_reducible assumption | exact .trans (by decide) hF | with_reducible apply keeps_deliverOutput
    | with_reducible apply keeps_stepLane | split

theorem keeps_execCommitOutput (s : State) (a0 : Nat) (a1 : Nat) (a2 : Nat) (a3 : Nat) :
    Next 0x1141800 s (execCommitOutput a0 a1 a2 a3 s) := by
  refine Next.of ⟨a0, ?_⟩; try dsimp only
  repeat' first
    | exact .trans (by decide) (Sub.refl _) | with_reducible exact .rfl
    | with_reducible apply keeps_commitOutput

theorem keeps_countFlagged {F : Nat} {s₀ s : State} (hF : Sub 0x100000 F) (h : Keeps F s₀ s) (a1 : Nat) (a2 : Chunk) :
    Keeps F s₀ (State.countFlagged s a1 a2) := by
  unfold State.countFlagged; try dsimp only
  repeat' first
    | with_reducible assumption | with_reducible apply keeps_count | split

theorem keeps_completionStamp {F : Nat} {s₀ s : State} (hF : Sub 0x1a49c1a70 F) (h : Keeps F s₀ s) (a1 : Nat) (a2 :
    Nat) (a3 : Nat) :
    Keeps F s₀ (State.completionStamp s a1 a2 a3) := by
  unfold State.completionStamp; try dsimp only
  repeat' first
    | with_reducible assumption | exact .trans (by decide) hF | with_reducible apply keeps_completeChunk
    | with_reducible apply keeps_countFlagged | with_reducible apply keeps_progressRetirement
    | with_reducible apply keeps_requestSwaps | with_reducible apply keeps_stepLane | split

theorem keeps_execCompletionStamp (s : State) (a0 : Nat) (a1 : Nat) (a2 : Nat) (a3 : Nat) :
    Next 0x1a49c1a70 s (execCompletionStamp a0 a1 a2 a3 s) := by
  refine Next.of ⟨a0, ?_⟩; try dsimp only
  repeat' first
    | exact .trans (by decide) (Sub.refl _) | with_reducible exact .rfl
    | with_reducible apply keeps_completionStamp

theorem keeps_fillSlot {F : Nat} {s₀ s : State} (hF : Sub 0x1c1000 F) (h : Keeps F s₀ s) (a1 : Nat) (a2 : Nat) (a3
    : Nat) (a4 : List Byte) :
    Keeps F s₀ (State.fillSlot s a1 a2 a3 a4) := by
  unfold State.fillSlot; try dsimp only
  repeat' first
    | with_reducible assumption | exact .trans (by decide) hF | with_reducible apply keeps_setSlot
    | with_reducible apply keeps_writeCopy | with_reducible apply keeps_setStr
    | with_reducible apply keeps_count

theorem keeps_stateBlockFailed {F : Nat} {s₀ s : State} (hF : Sub 0x80100000 F) (h : Keeps F s₀ s) (a1 : Nat) (a2 :
    Nat) :
    Keeps F s₀ (State.stateBlockFailed s a1 a2) := by
  unfold State.stateBlockFailed; try dsimp only
  repeat' first
    | with_reducible assumption | exact .trans (by decide) hF | with_reducible apply keeps_logEvent
    | with_reducible apply keeps_count | split

theorem keeps_homeReads {F : Nat} {s₀ s : State} (hF : Sub 0x180500820 F) (h : Keeps F s₀ s) (a1 : Nat) (a2 :
    MemReads) :
    Keeps F s₀ (State.homeReads s a1 a2).1 := by
  unfold State.homeReads; try dsimp only
  repeat' first
    | with_reducible assumption | with_reducible apply keeps_meetRows | split
theorem keeps_pair_homeReads {F : Nat} {s₀ s s' : State} (hF : Sub 0x180500820 F) {r} {a1 : Nat} {a2 : MemReads}
    (e : State.homeReads s a1 a2 = (s', r)) (h : Keeps F s₀ s) : Keeps F s₀ s' := by
  have k := keeps_homeReads hF h a1 a2; rw [e] at k; exact k

theorem keeps_fireCodec {F : Nat} {s₀ s : State} (hF : Sub 0x280100a70 F) (h : Keeps F s₀ s)  :
    Keeps F s₀ (State.fireCodec s).2 := by
  unfold State.fireCodec; try dsimp only
  repeat' first
    | with_reducible assumption | with_reducible apply keeps_fireArmed | split
theorem keeps_pair_fireCodec {F : Nat} {s₀ s s' : State} (hF : Sub 0x280100a70 F) {r}
    (e : State.fireCodec s = (r, s')) (h : Keeps F s₀ s) : Keeps F s₀ s' := by
  have k := keeps_fireCodec hF h ; rw [e] at k; exact k

theorem keeps_swapInDone {F : Nat} {s₀ s : State} (hF : Sub 0x3a4fc1a70 F) (h : Keeps F s₀ s) (a1 : Nat) (a2 : Nat)
    (a3 : TransferFault) (a4 : MemReads) (a5 : WriteRetries) :
    Keeps F s₀ (State.swapInDone s a1 a2 a3 a4 a5) := by
  unfold State.swapInDone; try dsimp only
  repeat' first
    | with_reducible assumption | exact .trans (by decide) hF | intro _ | with_reducible apply keeps_fireCodec
    | with_reducible apply keeps_homeReads | with_reducible apply keeps_asInjected
    | with_reducible apply keeps_stateBlockFailed | with_reducible apply keeps_fillSlot
    | with_reducible apply keeps_dropSwap | with_reducible apply keeps_recordFault
    | with_reducible apply keeps_modStr | with_reducible apply keeps_modGrp
    | with_reducible apply keeps_judgeAll | with_reducible apply keeps_progressRetirement
    | with_reducible apply keeps_requestSwaps | with_reducible apply keeps_dropHold | split

theorem keeps_execSwapInDone (s : State) (a0 : Nat) (a1 : Nat) (a2 : Nat) (a3 : TransferFault) (a4 : MemReads) (a5
    : WriteRetries) :
    Next 0x3a4fc1a70 s (execSwapInDone a0 a1 a2 a3 s a4 a5) := by
  refine Next.of ⟨a0, ?_⟩; try dsimp only
  repeat' first
    | exact .trans (by decide) (Sub.refl _) | with_reducible exact .rfl | with_reducible apply keeps_swapInDone

theorem keeps_passSlot {F : Nat} {s₀ s : State} (hF : Sub 0x40000 F) (h : Keeps F s₀ s) (a1 : Nat) (a2 : Nat) (a3 :
    Option Nat) :
    Keeps F s₀ (State.passSlot s a1 a2 a3) := by
  unfold State.passSlot; try dsimp only
  repeat' first
    | with_reducible assumption | with_reducible apply keeps_addSwap | with_reducible apply keeps_setSlot
    | split

theorem keeps_copyReads {F : Nat} {s₀ s : State} (hF : Sub 0x1a01c1a70 F) (h : Keeps F s₀ s) (a1 : Nat) (a2 : Nat)
    (a3 : Nat) (a4 : List (Nat × Met)) :
    Keeps F s₀ (State.copyReads s a1 a2 a3 a4).1 := by
  unfold State.copyReads; try dsimp only
  repeat' first
    | with_reducible assumption | intro _ | with_reducible apply keeps_meetUnscheduled
    | with_reducible apply Keeps.foldl_fst
theorem keeps_pair_copyReads {F : Nat} {s₀ s s' : State} (hF : Sub 0x1a01c1a70 F) {r} {a1 : Nat} {a2 : Nat} {a3 :
    Nat} {a4 : List (Nat × Met)}
    (e : State.copyReads s a1 a2 a3 a4 = (s', r)) (h : Keeps F s₀ s) : Keeps F s₀ s' := by
  have k := keeps_copyReads hF h a1 a2 a3 a4; rw [e] at k; exact k

theorem keeps_swapOutDone {F : Nat} {s₀ s : State} (hF : Sub 0x1a4fc1a70 F) (h : Keeps F s₀ s) (a1 : Nat) (a2 :
    Nat) (a3 : List (Nat × Met)) (a4 : Bool) (a5 : WriteRetries) :
    Keeps F s₀ (State.swapOutDone s a1 a2 a3 a4 a5) := by
  unfold State.swapOutDone; try dsimp only
  repeat' first
    | with_reducible assumption | exact .trans (by decide) hF | with_reducible apply keeps_copyReads
    | with_reducible apply keeps_recordFault | with_reducible apply keeps_passSlot
    | with_reducible apply keeps_dropSwap | with_reducible apply keeps_writeHome
    | with_reducible apply keeps_count | with_reducible apply keeps_judgeAll
    | with_reducible apply keeps_progressRetirement | with_reducible apply keeps_requestSwaps
    | with_reducible apply keeps_dropHold | split

theorem keeps_execSwapOutDone (s : State) (a0 : Nat) (a1 : Nat) (a2 : Nat) (a3 : List (Nat × Met)) (a4 : Bool) (a5
    : WriteRetries) :
    Next 0x1a4fc1a70 s (execSwapOutDone a0 a1 a2 a3 a4 s a5) := by
  refine Next.of ⟨a0, ?_⟩; try dsimp only
  repeat' first
    | exact .trans (by decide) (Sub.refl _) | with_reducible exact .rfl
    | with_reducible apply keeps_swapOutDone

theorem keeps_passEntry {F : Nat} {s₀ s : State} (hF : Sub 0x40000 F) (h : Keeps F s₀ s) (a1 : Nat) :
    Keeps F s₀ (State.passEntry s a1) := by
  unfold State.passEntry; try dsimp only
  repeat' first
    | with_reducible assumption | with_reducible apply keeps_modRun

theorem keeps_onAction {F : Nat} {s₀ s : State} (hF : Sub 0x40000 F) (h : Keeps F s₀ s) (a1 : Nat) (a2 : Nat) (a3 :
    RunInfo → Action → State → State) (h3 : ∀ (x0 : RunInfo) (x1 : Action) (x2 : State) (s₁ : State), Keeps F s₁ x2
    → Keeps F s₁ (a3 x0 x1 x2)) :
    Keeps F s₀ (State.onAction s a1 a2 a3) := by
  unfold State.onAction; try dsimp only
  repeat' first
    | with_reducible assumption | apply h3 | with_reducible apply keeps_passEntry | split

theorem keeps_failIssue {F : Nat} {s₀ s : State} (hF : Sub 0x40000 F) (h : Keeps F s₀ s) (a1 : Nat) (a2 : Nat) (a3
    : Bool) :
    Keeps F s₀ (State.failIssue s a1 a2 a3) := by
  unfold State.failIssue; try dsimp only
  repeat' first
    | with_reducible assumption | with_reducible apply keeps_modRun | with_reducible apply keeps_addDue

theorem keeps_opt_guardFail {F : Nat} {s₀ s s' : State} (hF : Sub 0x280140a70 F) {a1 : Nat} {a2 : Nat} {a3 : Bool}
    {a4 : Nat}
    (e : State.guardFail s a1 a2 a3 a4 = some s') (h : Keeps F s₀ s) : Keeps F s₀ s' := by
  unfold State.guardFail at e; try dsimp only at e
  (repeat' split at e) <;> first | cases e | skip
  all_goals
  repeat' first
    | with_reducible assumption | exact .trans (by decide) hF | with_reducible apply keeps_failIssue
    | with_reducible apply keeps_fireArmed

theorem keeps_loadSeg {F : Nat} {s₀ s : State} (hF : Sub 0x280140a70 F) (h : Keeps F s₀ s) (a1 : Nat) :
    Keeps F s₀ (State.loadSeg s a1) := by
  unfold State.loadSeg; try dsimp only
  repeat' first
    | with_reducible assumption | exact .trans (by decide) hF | intro _ | with_reducible apply keeps_onAction
    | refine keeps_opt_guardFail ?_ (by with_reducible assumption) ?_ | with_reducible apply keeps_modRun
    | split

theorem keeps_execLoadSeg (s : State) (a0 : Nat) (a1 : Nat) :
    Next 0x280140a70 s (execLoadSeg a0 a1 s) := by
  refine Next.of ⟨a0, ?_⟩; try dsimp only
  repeat' first
    | exact .trans (by decide) (Sub.refl _) | with_reducible exact .rfl | with_reducible apply keeps_loadSeg

theorem keeps_segmentArrival {F : Nat} {s₀ s : State} (hF : Sub 0x2801c0a70 F) (h : Keeps F s₀ s) (a1 : Nat) (a2 :
    Bool) :
    Keeps F s₀ (State.segmentArrival s a1 a2) := by
  unfold State.segmentArrival; try dsimp only
  repeat' first
    | with_reducible assumption | exact .trans (by decide) hF | intro _ | with_reducible exact .rfl
    | with_reducible apply keeps_modRun | refine keeps_opt_guardFail ?_ (by with_reducible assumption) ?_
    | with_reducible apply keeps_modClu | split | with_reducible apply Keeps.foldl

theorem keeps_execSegmentArrival (s : State) (a0 : Nat) (a1 : Nat) (a2 : Bool) :
    Next 0x2801c0a70 s (execSegmentArrival a0 a1 a2 s) := by
  refine Next.of ⟨a0, ?_⟩; try dsimp only
  repeat' first
    | exact .trans (by decide) (Sub.refl _) | with_reducible exact .rfl
    | with_reducible apply keeps_segmentArrival

theorem keeps_start {F : Nat} {s₀ s : State} (hF : Sub 0x2801c0a70 F) (h : Keeps F s₀ s) (a1 : Nat) :
    Keeps F s₀ (State.start s a1) := by
  unfold State.start; try dsimp only
  repeat' first
    | with_reducible assumption | exact .trans (by decide) hF | intro _ | with_reducible exact .rfl
    | with_reducible apply keeps_onAction | refine keeps_opt_guardFail ?_ (by with_reducible assumption) ?_
    | with_reducible apply keeps_modClu | split | with_reducible apply Keeps.foldl

theorem keeps_execStart (s : State) (a0 : Nat) (a1 : Nat) :
    Next 0x2801c0a70 s (execStart a0 a1 s) := by
  refine Next.of ⟨a0, ?_⟩; try dsimp only
  repeat' first
    | exact .trans (by decide) (Sub.refl _) | with_reducible exact .rfl | with_reducible apply keeps_start

theorem keeps_barrier {F : Nat} {s₀ s : State} (hF : Sub 0x280140a70 F) (h : Keeps F s₀ s) (a1 : Nat) :
    Keeps F s₀ (State.barrier s a1) := by
  unfold State.barrier; try dsimp only
  repeat' first
    | with_reducible assumption | exact .trans (by decide) hF | intro _ | with_reducible apply keeps_onAction
    | refine keeps_opt_guardFail ?_ (by with_reducible assumption) ?_ | with_reducible apply Keeps.getD

theorem keeps_execBarrier (s : State) (a0 : Nat) (a1 : Nat) :
    Next 0x280140a70 s (execBarrier a0 a1 s) := by
  refine Next.of ⟨a0, ?_⟩; try dsimp only
  repeat' first
    | exact .trans (by decide) (Sub.refl _) | with_reducible exact .rfl | with_reducible apply keeps_barrier

theorem keeps_startTransfer {F : Nat} {s₀ s : State} (hF : Sub 0x280140a70 F) (h : Keeps F s₀ s) (a1 : Nat) (a2 :
    Transfer) :
    Keeps F s₀ (State.startTransfer s a1 a2) := by
  unfold State.startTransfer; try dsimp only
  repeat' first
    | with_reducible assumption | exact .trans (by decide) hF | with_reducible apply keeps_armAccess
    | with_reducible apply keeps_modRun | split

theorem keeps_fetch {F : Nat} {s₀ s : State} (hF : Sub 0x280140a70 F) (h : Keeps F s₀ s) (a1 : Nat) :
    Keeps F s₀ (State.fetch s a1) := by
  unfold State.fetch; try dsimp only
  repeat' first
    | with_reducible assumption | exact .trans (by decide) hF | intro _ | with_reducible apply keeps_onAction
    | with_reducible apply keeps_failIssue | with_reducible apply keeps_startTransfer
    | with_reducible apply keeps_modRun | split

theorem keeps_execFetch (s : State) (a0 : Nat) (a1 : Nat) :
    Next 0x280140a70 s (execFetch a0 a1 s) := by
  refine Next.of ⟨a0, ?_⟩; try dsimp only
  repeat' first
    | exact .trans (by decide) (Sub.refl _) | with_reducible exact .rfl | with_reducible apply keeps_fetch

theorem keeps_input {F : Nat} {s₀ s : State} (hF : Sub 0x280140a70 F) (h : Keeps F s₀ s) (a1 : Nat) :
    Keeps F s₀ (State.input s a1) := by
  unfold State.input; try dsimp only
  repeat' first
    | with_reducible assumption | exact .trans (by decide) hF | intro _ | with_reducible apply keeps_onAction
    | with_reducible apply keeps_startTransfer | split

theorem keeps_execInput (s : State) (a0 : Nat) (a1 : Nat) :
    Next 0x280140a70 s (execInput a0 a1 s) := by
  refine Next.of ⟨a0, ?_⟩; try dsimp only
  repeat' first
    | exact .trans (by decide) (Sub.refl _) | with_reducible exact .rfl | with_reducible apply keeps_input

theorem keeps_readPaced {F : Nat} {s₀ s : State} (hF : Sub 0x280140a70 F) (h : Keeps F s₀ s) (a1 : Nat) (a2 : Nat)
    (a3 : Nat) (a4 : Nat) (a5 : Nat) (a6 : Nat) (a7 : Ecc) (a8 : Nat → Sink) :
    Keeps F s₀ (State.readPaced s a1 a2 a3 a4 a5 a6 a7 a8) := by
  unfold State.readPaced; try dsimp only
  repeat' first
    | with_reducible assumption | exact .trans (by decide) hF | with_reducible apply keeps_addDues
    | with_reducible apply keeps_armAccess

theorem keeps_storeRetries {F : Nat} {s₀ s : State} (hF : Sub 0x280100a70 F) (h : Keeps F s₀ s) (a1 : Nat) (a2 :
    WriteRetries) :
    Keeps F s₀ (State.storeRetries s a1 a2).1 := by
  unfold State.storeRetries; try dsimp only
  repeat' first
    | with_reducible assumption | with_reducible apply keeps_fireArmed
theorem keeps_pair_storeRetries {F : Nat} {s₀ s s' : State} (hF : Sub 0x280100a70 F) {r} {a1 : Nat} {a2 :
    WriteRetries}
    (e : State.storeRetries s a1 a2 = (s', r)) (h : Keeps F s₀ s) : Keeps F s₀ s' := by
  have k := keeps_storeRetries hF h a1 a2; rw [e] at k; exact k

theorem keeps_store {F : Nat} {s₀ s : State} (hF : Sub 0x280140a70 F) (h : Keeps F s₀ s) (a1 : Nat) (a2 : Ecc) (a3
    : WriteRetries) :
    Keeps F s₀ (State.store s a1 a2 a3) := by
  unfold State.store; try dsimp only
  repeat' first
    | with_reducible assumption | exact .trans (by decide) hF | intro _ | with_reducible apply keeps_onAction
    | with_reducible apply keeps_failIssue | with_reducible apply keeps_storeRetries
    | with_reducible apply keeps_modRun | with_reducible apply keeps_readPaced | split

theorem keeps_execStore (s : State) (a0 : Nat) (a1 : Nat) (a2 : Ecc) (a3 : WriteRetries) :
    Next 0x280140a70 s (execStore a0 a1 a2 a3 s) := by
  refine Next.of ⟨a0, ?_⟩; try dsimp only
  repeat' first
    | exact .trans (by decide) (Sub.refl _) | with_reducible exact .rfl | with_reducible apply keeps_store

theorem keeps_storeBufferDrain {F : Nat} {s₀ s : State} (hF : Sub 0x140000 F) (h : Keeps F s₀ s) (a1 : Nat) :
    Keeps F s₀ (State.storeBufferDrain s a1) := by
  unfold State.storeBufferDrain; try dsimp only
  repeat' first
    | with_reducible assumption | exact .trans (by decide) hF | with_reducible apply keeps_dropHold
    | with_reducible apply keeps_modGrp | split

theorem keeps_execStoreBufferDrain (s : State) (a0 : Nat) (a1 : Nat) :
    Next 0x140000 s (execStoreBufferDrain a0 a1 s) := by
  refine Next.of ⟨a0, ?_⟩; try dsimp only
  repeat' first
    | exact .trans (by decide) (Sub.refl _) | with_reducible exact .rfl
    | with_reducible apply keeps_storeBufferDrain

theorem keeps_output {F : Nat} {s₀ s : State} (hF : Sub 0x280140a70 F) (h : Keeps F s₀ s) (a1 : Nat) (a2 : Ecc) :
    Keeps F s₀ (State.output s a1 a2) := by
  unfold State.output; try dsimp only
  repeat' first
    | with_reducible assumption | exact .trans (by decide) hF | intro _ | with_reducible apply keeps_onAction
    | with_reducible apply keeps_readPaced

theorem keeps_execOutput (s : State) (a0 : Nat) (a1 : Nat) (a2 : Ecc) :
    Next 0x280140a70 s (execOutput a0 a1 a2 s) := by
  refine Next.of ⟨a0, ?_⟩; try dsimp only
  repeat' first
    | exact .trans (by decide) (Sub.refl _) | with_reducible exact .rfl | with_reducible apply keeps_output

theorem keeps_xfer {F : Nat} {s₀ s : State} (hF : Sub 0x280140a70 F) (h : Keeps F s₀ s) (a1 : Nat) (a2 : Ecc) :
    Keeps F s₀ (State.xfer s a1 a2) := by
  unfold State.xfer; try dsimp only
  repeat' first
    | with_reducible assumption | exact .trans (by decide) hF | intro _ | with_reducible apply keeps_onAction
    | with_reducible apply keeps_addDues | with_reducible apply keeps_armAccess

theorem keeps_execXfer (s : State) (a0 : Nat) (a1 : Nat) (a2 : Ecc) :
    Next 0x280140a70 s (execXfer a0 a1 a2 s) := by
  refine Next.of ⟨a0, ?_⟩; try dsimp only
  repeat' first
    | exact .trans (by decide) (Sub.refl _) | with_reducible exact .rfl | with_reducible apply keeps_xfer

theorem keeps_moveRecord {F : Nat} {s₀ s : State} (hF : Sub 0x40000 F) (h : Keeps F s₀ s) (a1 : Nat) (a2 : RunInfo)
    (a3 : Action) (a4 : Bool) (a5 : Ecc) :
    Keeps F s₀ (State.moveRecord s a1 a2 a3 a4 a5) := by
  unfold State.moveRecord; try dsimp only
  repeat' first
    | with_reducible assumption | with_reducible apply keeps_modRun | with_reducible apply keeps_addDues
    | split

theorem keeps_onSlotAction {F : Nat} {s₀ s : State} (hF : Sub 0x280140a70 F) (h : Keeps F s₀ s) (a1 : Nat) (a2 :
    Nat) (a3 : Bool) (a4 : Ecc) :
    Keeps F s₀ (State.onSlotAction s a1 a2 a3 a4) := by
  unfold State.onSlotAction; try dsimp only
  repeat' first
    | with_reducible assumption | exact .trans (by decide) hF | intro _ | with_reducible apply keeps_raiseHold
    | with_reducible apply keeps_onAction | with_reducible apply keeps_moveRecord | split

theorem keeps_stateIn {F : Nat} {s₀ s : State} (hF : Sub 0x280140a70 F) (h : Keeps F s₀ s) (a1 : Nat) (a2 : Ecc) :
    Keeps F s₀ (State.stateIn s a1 a2) := by
  unfold State.stateIn; try dsimp only
  repeat' first
    | with_reducible assumption | with_reducible apply keeps_onSlotAction

theorem keeps_execStateIn (s : State) (a0 : Nat) (a1 : Nat) (a2 : Ecc) :
    Next 0x280140a70 s (execStateIn a0 a1 a2 s) := by
  refine Next.of ⟨a0, ?_⟩; try dsimp only
  repeat' first
    | exact .trans (by decide) (Sub.refl _) | with_reducible exact .rfl | with_reducible apply keeps_stateIn

theorem keeps_stateOut {F : Nat} {s₀ s : State} (hF : Sub 0x280140a70 F) (h : Keeps F s₀ s) (a1 : Nat) (a2 : Ecc) :
    Keeps F s₀ (State.stateOut s a1 a2) := by
  unfold State.stateOut; try dsimp only
  repeat' first
    | with_reducible assumption | with_reducible apply keeps_onSlotAction

theorem keeps_execStateOut (s : State) (a0 : Nat) (a1 : Nat) (a2 : Ecc) :
    Next 0x280140a70 s (execStateOut a0 a1 a2 s) := by
  refine Next.of ⟨a0, ?_⟩; try dsimp only
  repeat' first
    | exact .trans (by decide) (Sub.refl _) | with_reducible exact .rfl | with_reducible apply keeps_stateOut

theorem keeps_finishCycle {F : Nat} {s₀ : State} (hF : Sub 0x3a07c1a70 F) (a0 : Nat) (a1 : Nat) : ∀ {s : State},
    Keeps F s₀ s →
    Keeps F s₀ (State.finishCycle a0 a1 s) := by
  induction a1 with
  | zero => exact fun h => h
  | succ n ih =>
    intro s h
    simp only [State.finishCycle]
    repeat' first
      | with_reducible assumption | with_reducible apply ih | with_reducible apply keeps_takeTurn | split

theorem keeps_endAction {F : Nat} {s₀ s : State} (hF : Sub 0x3b4fc1a70 F) (h : Keeps F s₀ s) (a1 : Nat) :
    Keeps F s₀ (State.endAction s a1) := by
  unfold State.endAction; try dsimp only
  repeat' first
    | with_reducible assumption | exact .trans (by decide) hF | intro _ | with_reducible apply keeps_onAction
    | with_reducible apply keeps_failIssue | with_reducible apply keeps_finishCycle
    | with_reducible apply keeps_endRun | split

theorem keeps_execEndRun (s : State) (a0 : Nat) (a1 : Nat) :
    Next 0x3b4fc1a70 s (execEndRun a0 a1 s) := by
  refine Next.of ⟨a0, ?_⟩; try dsimp only
  repeat' first
    | exact .trans (by decide) (Sub.refl _) | with_reducible exact .rfl | with_reducible apply keeps_endAction

theorem keeps_bufferRow {F : Nat} {s₀ s : State} (hF : Sub 0x40000 F) (h : Keeps F s₀ s) (a1 : Nat) (a2 : Transfer)
    (a3 : Nat) :
    Keeps F s₀ (State.bufferRow s a1 a2 a3) := by
  unfold State.bufferRow; try dsimp only
  repeat' first
    | with_reducible assumption | with_reducible apply keeps_modTransfer | with_reducible apply keeps_addDue
    | split

theorem keeps_dropRows {F : Nat} {s₀ s : State} (hF : Sub 0x140000 F) (h : Keeps F s₀ s) (a1 : Nat) :
    Keeps F s₀ (State.dropRows s a1) := by
  unfold State.dropRows; try dsimp only
  repeat' first
    | with_reducible assumption | exact .trans (by decide) hF | with_reducible apply keeps_dropHold
    | with_reducible apply keeps_modRun | split

theorem keeps_rowArrives {F : Nat} {s₀ s : State} (hF : Sub 0x140000 F) (h : Keeps F s₀ s) (a1 : Nat) (a2 :
    Transfer) (a3 : Nat) :
    Keeps F s₀ (State.rowArrives s a1 a2 a3) := by
  unfold State.rowArrives; try dsimp only
  repeat' first
    | with_reducible assumption | exact .trans (by decide) hF | with_reducible apply keeps_count
    | with_reducible apply keeps_dropRows | with_reducible apply keeps_bufferRow | split

theorem keeps_armedRead {F : Nat} {s₀ s : State} (hF : Sub 0x280100a70 F) (h : Keeps F s₀ s) (a1 : Nat) (a2 :
    RowVerdict) :
    Keeps F s₀ (State.armedRead s a1 a2).1 := by
  unfold State.armedRead; try dsimp only
  repeat' first
    | with_reducible assumption | with_reducible apply keeps_fireArmed
theorem keeps_pair_armedRead {F : Nat} {s₀ s s' : State} (hF : Sub 0x280100a70 F) {r} {a1 : Nat} {a2 : RowVerdict}
    (e : State.armedRead s a1 a2 = (s', r)) (h : Keeps F s₀ s) : Keeps F s₀ s' := by
  have k := keeps_armedRead hF h a1 a2; rw [e] at k; exact k

theorem keeps_memoryRowArrival {F : Nat} {s₀ s : State} (hF : Sub 0x380540a70 F) (h : Keeps F s₀ s) (a1 : Nat) (a2
    : Nat) (a3 : RowRead) :
    Keeps F s₀ (State.memoryRowArrival s a1 a2 a3) := by
  unfold State.memoryRowArrival; try dsimp only
  repeat' first
    | with_reducible assumption | exact .trans (by decide) hF | with_reducible apply keeps_armedRead
    | with_reducible apply keeps_modTransfer | with_reducible apply keeps_memCorrected
    | with_reducible apply keeps_rowArrives | split

theorem keeps_execMemoryRowArrival (s : State) (a0 : Nat) (a1 : Nat) (a2 : Nat) (a3 : RowRead) :
    Next 0x380540a70 s (execMemoryRowArrival a0 a1 a2 a3 s) := by
  refine Next.of ⟨a0, ?_⟩; try dsimp only
  repeat' first
    | exact .trans (by decide) (Sub.refl _) | with_reducible exact .rfl
    | with_reducible apply keeps_memoryRowArrival

theorem keeps_rowDue {F : Nat} {s₀ s : State} (hF : Sub 0x280140a70 F) (h : Keeps F s₀ s) (a1 : Nat) :
    Keeps F s₀ (State.rowDue s a1) := by
  unfold State.rowDue; try dsimp only
  repeat' first
    | with_reducible assumption | with_reducible apply keeps_holdRows | split

theorem keeps_execRowDue (s : State) (a0 : Nat) (a1 : Nat) :
    Next 0x280140a70 s (execRowDue a0 a1 s) := by
  refine Next.of ⟨a0, ?_⟩; try dsimp only
  repeat' first
    | exact .trans (by decide) (Sub.refl _) | with_reducible exact .rfl | with_reducible apply keeps_rowDue

theorem keeps_expand {F : Nat} {s₀ s : State} (hF : Sub 0x40000 F) (h : Keeps F s₀ s) (a1 : Nat) :
    Keeps F s₀ (State.expand s a1) := by
  unfold State.expand; try dsimp only
  repeat' first
    | with_reducible assumption | intro _ | with_reducible apply keeps_onAction
    | with_reducible apply keeps_failIssue | with_reducible apply keeps_modRun
    | with_reducible apply keeps_addDue | split

theorem keeps_execExpand (s : State) (a0 : Nat) (a1 : Nat) :
    Next 0x40000 s (execExpand a0 a1 s) := by
  refine Next.of ⟨a0, ?_⟩; try dsimp only
  repeat' first
    | exact .trans (by decide) (Sub.refl _) | with_reducible exact .rfl | with_reducible apply keeps_expand

theorem keeps_putExpand {F : Nat} {s₀ s : State} (hF : Sub 0x40000 F) (h : Keeps F s₀ s) (a1 : Nat) (a2 : Expand)
    (a3 : List Expand) :
    Keeps F s₀ (State.putExpand s a1 a2 a3) := by
  unfold State.putExpand; try dsimp only
  repeat' first
    | with_reducible assumption | with_reducible apply keeps_modRun

theorem keeps_armBlock {F : Nat} {s₀ s : State} (hF : Sub 0x280140a70 F) (h : Keeps F s₀ s) (a1 : Nat) (a2 : Nat)
    (a3 : Nat) (a4 : Nat) (a5 : Nat) :
    Keeps F s₀ (State.armBlock s a1 a2 a3 a4 a5) := by
  unfold State.armBlock; try dsimp only
  repeat' first
    | with_reducible assumption | exact .trans (by decide) hF | intro _ | with_reducible exact .rfl
    | with_reducible apply keeps_fireArmed | with_reducible apply keeps_addDue | split
    | with_reducible apply Keeps.foldl

theorem keeps_deliverTiles {F : Nat} {s₀ s : State} (hF : Sub 0x40000 F) (h : Keeps F s₀ s) (a1 : Nat) (a2 :
    Expand) (a3 : Tensor) (a4 : Nat) (a5 : WeightBlock) :
    Keeps F s₀ (State.deliverTiles s a1 a2 a3 a4 a5) := by
  unfold State.deliverTiles; try dsimp only
  repeat' first
    | with_reducible assumption | intro _ | with_reducible exact .rfl | with_reducible apply keeps_addDue
    | with_reducible apply Keeps.foldl

theorem keeps_decodeNext {F : Nat} {s₀ s : State} (hF : Sub 0x280140a70 F) (h : Keeps F s₀ s) (a1 : Nat) (a2 :
    RunInfo) (a3 : Expand) (a4 : Tensor) :
    Keeps F s₀ (State.decodeNext s a1 a2 a3 a4) := by
  unfold State.decodeNext; try dsimp only
  repeat' first
    | with_reducible assumption | exact .trans (by decide) hF | with_reducible apply keeps_armBlock
    | with_reducible apply keeps_addDue | with_reducible apply keeps_count
    | with_reducible apply keeps_putExpand | with_reducible apply keeps_deliverTiles | split

theorem keeps_holdExpander {F : Nat} {s₀ s : State} (hF : Sub 0x280140a70 F) (h : Keeps F s₀ s) (a1 : Nat) (a2 :
    Expand) (a3 : Bool) (a4 : List Nat) :
    Keeps F s₀ (State.holdExpander s a1 a2 a3 a4) := by
  unfold State.holdExpander; try dsimp only
  repeat' first
    | with_reducible assumption | exact .trans (by decide) hF | with_reducible apply keeps_putExpand
    | with_reducible apply keeps_raiseHold | split

theorem keeps_meetBlockRow {F : Nat} {s₀ s : State} (hF : Sub 0x180500820 F) (h : Keeps F s₀ s) (a1 : Nat) (a2 :
    RowVerdict) (a3 : Option RowRead) :
    Keeps F s₀ (State.meetBlockRow s a1 a2 a3).1 := by
  unfold State.meetBlockRow; try dsimp only
  repeat' first
    | with_reducible assumption | exact .trans (by decide) hF | with_reducible apply keeps_memCorrected
    | with_reducible apply keeps_storedError | with_reducible apply keeps_count | split
theorem keeps_pair_meetBlockRow {F : Nat} {s₀ s s' : State} (hF : Sub 0x180500820 F) {r} {a1 : Nat} {a2 :
    RowVerdict} {a3 : Option RowRead}
    (e : State.meetBlockRow s a1 a2 a3 = (s', r)) (h : Keeps F s₀ s) : Keeps F s₀ s' := by
  have k := keeps_meetBlockRow hF h a1 a2 a3; rw [e] at k; exact k

theorem keeps_meetBlock {F : Nat} {s₀ s : State} (hF : Sub 0x380500a70 F) (h : Keeps F s₀ s) (a1 : Nat) (a2 : List
    Nat) (a3 : List (Nat × RowRead × Option RowRead)) :
    Keeps F s₀ (State.meetBlock s a1 a2 a3).1 := by
  unfold State.meetBlock; try dsimp only
  repeat' first
    | with_reducible assumption | exact .trans (by decide) hF | intro _ | with_reducible apply keeps_armedRead
    | with_reducible apply keeps_meetBlockRow | with_reducible apply Keeps.foldl_fst | split
theorem keeps_pair_meetBlock {F : Nat} {s₀ s s' : State} (hF : Sub 0x380500a70 F) {r} {a1 : Nat} {a2 : List Nat}
    {a3 : List (Nat × RowRead × Option RowRead)}
    (e : State.meetBlock s a1 a2 a3 = (s', r)) (h : Keeps F s₀ s) : Keeps F s₀ s' := by
  have k := keeps_meetBlock hF h a1 a2 a3; rw [e] at k; exact k

theorem keeps_blockDecode {F : Nat} {s₀ s : State} (hF : Sub 0x380540a70 F) (h : Keeps F s₀ s) (a1 : Nat) (a2 :
    Bool) (a3 : List (Nat × RowRead × Option RowRead)) :
    Keeps F s₀ (State.blockDecode s a1 a2 a3) := by
  unfold State.blockDecode; try dsimp only
  repeat' first
    | with_reducible assumption | exact .trans (by decide) hF | with_reducible apply keeps_meetBlock
    | with_reducible apply keeps_addDue | with_reducible apply keeps_holdExpander
    | with_reducible apply keeps_decodeNext | split

theorem keeps_execBlockDecode (s : State) (a0 : Nat) (a1 : Nat) (a2 : Bool) (a3 : List (Nat × RowRead × Option
    RowRead)) :
    Next 0x380540a70 s (execBlockDecode a0 a1 a2 a3 s) := by
  refine Next.of ⟨a0, ?_⟩; try dsimp only
  repeat' first
    | exact .trans (by decide) (Sub.refl _) | with_reducible exact .rfl
    | with_reducible apply keeps_blockDecode

theorem keeps_expanderGoesOn {F : Nat} {s₀ s : State} (hF : Sub 0x140000 F) (h : Keeps F s₀ s) (a1 : Nat) (a2 :
    Expand) (a3 : Expand) :
    Keeps F s₀ (State.expanderGoesOn s a1 a2 a3) := by
  unfold State.expanderGoesOn; try dsimp only
  repeat' first
    | with_reducible assumption | exact .trans (by decide) hF | with_reducible apply keeps_putExpand
    | with_reducible apply keeps_dropHold | with_reducible apply keeps_count | split

theorem keeps_expanderBlockArrival {F : Nat} {s₀ s : State} (hF : Sub 0x140000 F) (h : Keeps F s₀ s) (a1 : Nat) :
    Keeps F s₀ (State.expanderBlockArrival s a1) := by
  unfold State.expanderBlockArrival; try dsimp only
  repeat' first
    | with_reducible assumption | with_reducible apply keeps_expanderGoesOn | split

theorem keeps_execExpanderBlockArrival (s : State) (a0 : Nat) (a1 : Nat) :
    Next 0x140000 s (execExpanderBlockArrival a0 a1 s) := by
  refine Next.of ⟨a0, ?_⟩; try dsimp only
  repeat' first
    | exact .trans (by decide) (Sub.refl _) | with_reducible exact .rfl
    | with_reducible apply keeps_expanderBlockArrival

theorem keeps_reread {F : Nat} {s₀ s : State} (hF : Sub 0x180500820 F) (h : Keeps F s₀ s) (a1 : Nat) (a2 : RowRead) :
    Keeps F s₀ (State.reread s a1 a2).1 := by
  unfold State.reread; try dsimp only
  repeat' first
    | with_reducible assumption | exact .trans (by decide) hF | with_reducible apply keeps_storedError
    | with_reducible apply keeps_count | with_reducible apply keeps_memCorrected | split
theorem keeps_pair_reread {F : Nat} {s₀ s s' : State} (hF : Sub 0x180500820 F) {r} {a1 : Nat} {a2 : RowRead}
    (e : State.reread s a1 a2 = (s', r)) (h : Keeps F s₀ s) : Keeps F s₀ s' := by
  have k := keeps_reread hF h a1 a2; rw [e] at k; exact k

theorem keeps_rowFails {F : Nat} {s₀ s : State} (hF : Sub 0x1a0141a70 F) (h : Keeps F s₀ s) (a1 : Nat) (a2 :
    Transfer) (a3 : Nat) :
    Keeps F s₀ (State.rowFails s a1 a2 a3) := by
  unfold State.rowFails; try dsimp only
  repeat' first
    | with_reducible assumption | exact .trans (by decide) hF | with_reducible apply keeps_failRun
    | with_reducible apply keeps_addDue | with_reducible apply keeps_modTransfer | split

theorem keeps_rereadArrival {F : Nat} {s₀ s : State} (hF : Sub 0x1a0541a70 F) (h : Keeps F s₀ s) (a1 : Nat) (a2 :
    RowRead) :
    Keeps F s₀ (State.rereadArrival s a1 a2) := by
  unfold State.rereadArrival; try dsimp only
  repeat' first
    | with_reducible assumption | exact .trans (by decide) hF | with_reducible apply keeps_reread
    | with_reducible apply keeps_failRun | with_reducible apply keeps_rowFails
    | with_reducible apply keeps_rowArrives | with_reducible apply keeps_expanderGoesOn | split

theorem keeps_execRereadArrival (s : State) (a0 : Nat) (a1 : Nat) (a2 : RowRead) :
    Next 0x1a0541a70 s (execRereadArrival a0 a1 a2 s) := by
  refine Next.of ⟨a0, ?_⟩; try dsimp only
  repeat' first
    | exact .trans (by decide) (Sub.refl _) | with_reducible exact .rfl
    | with_reducible apply keeps_rereadArrival

theorem keeps_onWord {F : Nat} {s₀ s : State} (hF : Sub 0x80000 F) (h : Keeps F s₀ s) (a1 : Nat) (a2 : Nat) (a3 :
    Nat) (a4 : Nat) (a5 : Nat → Nat → MWord → State → State) (h5 : ∀ (x0 : Nat) (x1 : Nat) (x2 : MWord) (x3 :
    State) (s₁ : State), Keeps F s₁ x3 → Keeps F s₁ (a5 x0 x1 x2 x3)) :
    Keeps F s₀ (State.onWord s a1 a2 a3 a4 a5) := by
  unfold State.onWord; try dsimp only
  repeat' first
    | with_reducible assumption | apply h5 | with_reducible apply keeps_modClu | split

theorem keeps_controlNop {F : Nat} {s₀ s : State} (hF : Sub 0x80000 F) (h : Keeps F s₀ s) (a1 : Nat) (a2 : Nat) :
    Keeps F s₀ (State.controlNop s a1 a2) := by
  unfold State.controlNop; try dsimp only
  repeat' first
    | with_reducible assumption | intro _ | with_reducible apply keeps_onWord

theorem keeps_execControlNop (s : State) (a0 : Nat) (a1 : Nat) (a2 : Nat) :
    Next 0x80000 s (execControlNop a0 a1 a2 s) := by
  refine Next.of ⟨a0, ?_⟩; try dsimp only
  repeat' first
    | exact .trans (by decide) (Sub.refl _) | with_reducible exact .rfl | with_reducible apply keeps_controlNop

theorem keeps_waitWord {F : Nat} {s₀ s : State} (hF : Sub 0x80000 F) (h : Keeps F s₀ s) (a1 : Nat) (a2 : Nat) :
    Keeps F s₀ (State.waitWord s a1 a2) := by
  unfold State.waitWord; try dsimp only
  repeat' first
    | with_reducible assumption | intro _ | with_reducible apply keeps_onWord
    | with_reducible apply keeps_modClu

theorem keeps_execWait (s : State) (a0 : Nat) (a1 : Nat) (a2 : Nat) :
    Next 0x80000 s (execWait a0 a1 a2 s) := by
  refine Next.of ⟨a0, ?_⟩; try dsimp only
  repeat' first
    | exact .trans (by decide) (Sub.refl _) | with_reducible exact .rfl | with_reducible apply keeps_waitWord

theorem keeps_loopWord {F : Nat} {s₀ s : State} (hF : Sub 0x80000 F) (h : Keeps F s₀ s) (a1 : Nat) (a2 : Nat) :
    Keeps F s₀ (State.loopWord s a1 a2) := by
  unfold State.loopWord; try dsimp only
  repeat' first
    | with_reducible assumption | with_reducible apply keeps_modClu | split

theorem keeps_execLoop (s : State) (a0 : Nat) (a1 : Nat) (a2 : Nat) :
    Next 0x80000 s (execLoop a0 a1 a2 s) := by
  refine Next.of ⟨a0, ?_⟩; try dsimp only
  repeat' first
    | exact .trans (by decide) (Sub.refl _) | with_reducible exact .rfl | with_reducible apply keeps_loopWord

theorem keeps_haltWord {F : Nat} {s₀ s : State} (hF : Sub 0x80000 F) (h : Keeps F s₀ s) (a1 : Nat) (a2 : Nat) :
    Keeps F s₀ (State.haltWord s a1 a2) := by
  unfold State.haltWord; try dsimp only
  repeat' first
    | with_reducible assumption | intro _ | with_reducible apply keeps_onWord
    | with_reducible apply keeps_modClu

theorem keeps_execHalt (s : State) (a0 : Nat) (a1 : Nat) (a2 : Nat) :
    Next 0x80000 s (execHalt a0 a1 a2 s) := by
  refine Next.of ⟨a0, ?_⟩; try dsimp only
  repeat' first
    | exact .trans (by decide) (Sub.refl _) | with_reducible exact .rfl | with_reducible apply keeps_haltWord

theorem keeps_setaWord {F : Nat} {s₀ s : State} (hF : Sub 0x2801c0a70 F) (h : Keeps F s₀ s) (a1 : Nat) (a2 : Nat) :
    Keeps F s₀ (State.setaWord s a1 a2) := by
  unfold State.setaWord; try dsimp only
  repeat' first
    | with_reducible assumption | exact .trans (by decide) hF | intro _ | with_reducible apply keeps_onWord
    | with_reducible apply keeps_modClu | with_reducible apply keeps_engineFault

theorem keeps_execSeta (s : State) (a0 : Nat) (a1 : Nat) (a2 : Nat) :
    Next 0x2801c0a70 s (execSeta a0 a1 a2 s) := by
  refine Next.of ⟨a0, ?_⟩; try dsimp only
  repeat' first
    | exact .trans (by decide) (Sub.refl _) | with_reducible exact .rfl | with_reducible apply keeps_setaWord

theorem keeps_setbWord {F : Nat} {s₀ s : State} (hF : Sub 0x2801c0a70 F) (h : Keeps F s₀ s) (a1 : Nat) (a2 : Nat) :
    Keeps F s₀ (State.setbWord s a1 a2) := by
  unfold State.setbWord; try dsimp only
  repeat' first
    | with_reducible assumption | exact .trans (by decide) hF | intro _ | with_reducible apply keeps_onWord
    | with_reducible apply keeps_modClu | with_reducible apply keeps_engineFault

theorem keeps_execSetb (s : State) (a0 : Nat) (a1 : Nat) (a2 : Nat) :
    Next 0x2801c0a70 s (execSetb a0 a1 a2 s) := by
  refine Next.of ⟨a0, ?_⟩; try dsimp only
  repeat' first
    | exact .trans (by decide) (Sub.refl _) | with_reducible exact .rfl | with_reducible apply keeps_setbWord

theorem keeps_mmaWord {F : Nat} {s₀ s : State} (hF : Sub 0x2801c0a70 F) (h : Keeps F s₀ s) (a1 : Nat) (a2 : Nat)
    (a3 : Ecc) :
    Keeps F s₀ (State.mmaWord s a1 a2 a3) := by
  unfold State.mmaWord; try dsimp only
  repeat' first
    | with_reducible assumption | exact .trans (by decide) hF | intro _ | with_reducible apply keeps_onWord
    | with_reducible apply keeps_engineFault | with_reducible apply keeps_modClu
    | with_reducible apply keeps_addDue | with_reducible apply keeps_armAccess

theorem keeps_execMma (s : State) (a0 : Nat) (a1 : Nat) (a2 : Nat) (a3 : Ecc) :
    Next 0x2801c0a70 s (execMma a0 a1 a2 a3 s) := by
  refine Next.of ⟨a0, ?_⟩; try dsimp only
  repeat' first
    | exact .trans (by decide) (Sub.refl _) | with_reducible exact .rfl | with_reducible apply keeps_mmaWord

theorem keeps_mepiWord {F : Nat} {s₀ s : State} (hF : Sub 0x2801c0a70 F) (h : Keeps F s₀ s) (a1 : Nat) (a2 : Nat)
    (a3 : Ecc) :
    Keeps F s₀ (State.mepiWord s a1 a2 a3) := by
  unfold State.mepiWord; try dsimp only
  repeat' first
    | with_reducible assumption | exact .trans (by decide) hF | intro _ | with_reducible apply keeps_onWord
    | with_reducible apply keeps_engineFault | with_reducible apply keeps_modClu
    | with_reducible apply keeps_armAccess | with_reducible apply keeps_addDues

theorem keeps_execMepi (s : State) (a0 : Nat) (a1 : Nat) (a2 : Nat) (a3 : Ecc) :
    Next 0x2801c0a70 s (execMepi a0 a1 a2 a3 s) := by
  refine Next.of ⟨a0, ?_⟩; try dsimp only
  repeat' first
    | exact .trans (by decide) (Sub.refl _) | with_reducible exact .rfl | with_reducible apply keeps_mepiWord

theorem keeps_failNow {F : Nat} {s₀ s : State} (hF : Sub 0x1a0141a70 F) (h : Keeps F s₀ s) (a1 : Nat) (a2 : Nat)
    (a3 : Nat) (a4 : Bool) :
    Keeps F s₀ (State.failNow s a1 a2 a3 a4) := by
  unfold State.failNow; try dsimp only
  repeat' first
    | with_reducible assumption | exact .trans (by decide) hF | with_reducible apply keeps_addDue
    | with_reducible apply keeps_failRun | split

theorem keeps_badVerdict {F : Nat} {s₀ s : State} (hF : Sub 0x1a0141a70 F) (h : Keeps F s₀ s) (a1 : Nat) (a2 : Nat)
    (a3 : Nat) (a4 : Nat) (a5 : Nat) (a6 : Bool) :
    Keeps F s₀ (State.badVerdict s a1 a2 a3 a4 a5 a6) := by
  unfold State.badVerdict; try dsimp only
  repeat' first
    | with_reducible assumption | exact .trans (by decide) hF | with_reducible apply keeps_setCtr
    | with_reducible apply keeps_count | with_reducible apply keeps_logAs | with_reducible apply keeps_failNow
    | with_reducible apply keeps_implicate

theorem keeps_armedVerdict {F : Nat} {s₀ s : State} (hF : Sub 0x280100a70 F) (h : Keeps F s₀ s) (a1 : Nat) (a2 :
    Nat) (a3 : Bool) :
    Keeps F s₀ (State.armedVerdict s a1 a2 a3).1 := by
  unfold State.armedVerdict; try dsimp only
  repeat' first
    | with_reducible assumption | intro _ | with_reducible apply keeps_fireArmed
    | with_reducible apply Keeps.foldl_fst | split
theorem keeps_pair_armedVerdict {F : Nat} {s₀ s s' : State} (hF : Sub 0x280100a70 F) {r} {a1 : Nat} {a2 : Nat} {a3
    : Bool}
    (e : State.armedVerdict s a1 a2 a3 = (s', r)) (h : Keeps F s₀ s) : Keeps F s₀ s' := by
  have k := keeps_armedVerdict hF h a1 a2 a3; rw [e] at k; exact k

theorem keeps_pushTile {F : Nat} {s₀ s : State} (hF : Sub 0x2801c0a70 F) (h : Keeps F s₀ s) (a1 : Nat) (a2 : Nat)
    (a3 : Nat) (a4 : Nat) (a5 : ParamSet) (a6 : Result) :
    Keeps F s₀ (State.pushTile s a1 a2 a3 a4 a5 a6) := by
  unfold State.pushTile; try dsimp only
  repeat' first
    | with_reducible assumption | exact .trans (by decide) hF | with_reducible apply keeps_engineFault
    | with_reducible apply keeps_setClu | with_reducible apply keeps_count
    | with_reducible apply keeps_countMax | split

theorem keeps_epilogueEnd {F : Nat} {s₀ s : State} (hF : Sub 0x3a01c1a70 F) (h : Keeps F s₀ s) (a1 : Nat) (a2 :
    Nat) (a3 : Nat) (a4 : Nat) :
    Keeps F s₀ (State.epilogueEnd s a1 a2 a3 a4) := by
  unfold State.epilogueEnd; try dsimp only
  repeat' first
    | with_reducible assumption | exact .trans (by decide) hF | with_reducible apply keeps_armedVerdict
    | with_reducible apply keeps_count | with_reducible apply keeps_modClu
    | with_reducible apply keeps_badVerdict | with_reducible apply keeps_pushTile | split

theorem keeps_execEpilogueEnd (s : State) (a0 : Nat) (a1 : Nat) (a2 : Nat) (a3 : Nat) (a4 : Nat) :
    Next 0x3a01c1a70 s (execEpilogueEnd a0 a1 a2 a3 a4 s) := by
  refine Next.of ⟨a0, ?_⟩; try dsimp only
  repeat' first
    | exact .trans (by decide) (Sub.refl _) | with_reducible exact .rfl
    | with_reducible apply keeps_epilogueEnd

theorem keeps_formationEnd {F : Nat} {s₀ s : State} (hF : Sub 0x3a01c1a70 F) (h : Keeps F s₀ s) (a1 : Nat) (a2 :
    Nat) (a3 : Nat) (a4 : Bool) :
    Keeps F s₀ (State.formationEnd s a1 a2 a3 a4) := by
  unfold State.formationEnd; try dsimp only
  repeat' first
    | with_reducible assumption | exact .trans (by decide) hF | with_reducible apply keeps_fireArmed
    | with_reducible apply keeps_modClu | with_reducible apply keeps_badVerdict
    | with_reducible apply keeps_count | with_reducible apply keeps_directAt | split

theorem keeps_factorFormationEnd {F : Nat} {s₀ s : State} (hF : Sub 0x3a01c1a70 F) (h : Keeps F s₀ s) (a1 : Nat)
    (a2 : Nat) (a3 : Bool) :
    Keeps F s₀ (State.factorFormationEnd s a1 a2 a3) := by
  unfold State.factorFormationEnd; try dsimp only
  repeat' first
    | with_reducible assumption | with_reducible apply keeps_formationEnd | split

theorem keeps_execFactorFormationEnd (s : State) (a0 : Nat) (a1 : Nat) (a2 : Nat) (a3 : Bool) :
    Next 0x3a01c1a70 s (execFactorFormationEnd a0 a1 a2 a3 s) := by
  refine Next.of ⟨a0, ?_⟩; try dsimp only
  repeat' first
    | exact .trans (by decide) (Sub.refl _) | with_reducible exact .rfl
    | with_reducible apply keeps_factorFormationEnd

theorem keeps_mfacWord {F : Nat} {s₀ s : State} (hF : Sub 0x3a01c1a70 F) (h : Keeps F s₀ s) (a1 : Nat) (a2 : Nat) :
    Keeps F s₀ (State.mfacWord s a1 a2) := by
  unfold State.mfacWord; try dsimp only
  repeat' first
    | with_reducible assumption | exact .trans (by decide) hF | intro _ | with_reducible apply keeps_onWord
    | with_reducible apply keeps_formationEnd | with_reducible apply keeps_modClu
    | with_reducible apply keeps_engineFault | split

theorem keeps_execMfac (s : State) (a0 : Nat) (a1 : Nat) (a2 : Nat) :
    Next 0x3a01c1a70 s (execMfac a0 a1 a2 s) := by
  refine Next.of ⟨a0, ?_⟩; try dsimp only
  repeat' first
    | exact .trans (by decide) (Sub.refl _) | with_reducible exact .rfl | with_reducible apply keeps_mfacWord

theorem keeps_finishVec {F : Nat} {s₀ s : State} (hF : Sub 0x180000 F) (h : Keeps F s₀ s) (a1 : Nat) (a2 : Nat) (a3
    : Nat) :
    Keeps F s₀ (State.finishVec s a1 a2 a3) := by
  unfold State.finishVec; try dsimp only
  repeat' first
    | with_reducible assumption | exact .trans (by decide) hF | with_reducible apply keeps_count
    | with_reducible apply keeps_modClu | split

theorem keeps_lastSlot {F : Nat} {s₀ s : State} (hF : Sub 0x2801c0a70 F) (h : Keeps F s₀ s) (a1 : Nat) (a2 : Nat)
    (a3 : Nat) :
    Keeps F s₀ (State.lastSlot s a1 a2 a3) := by
  unfold State.lastSlot; try dsimp only
  repeat' first
    | with_reducible assumption | exact .trans (by decide) hF | with_reducible apply keeps_vslot
    | with_reducible apply keeps_modRun | split

theorem keeps_issueVec {F : Nat} {s₀ s : State} (hF : Sub 0x2801c0a70 F) (h : Keeps F s₀ s) (a1 : Nat) (a2 : Nat)
    (a3 : Nat) (a4 : Nat) (a5 : VecIssue) (a6 : Bool) :
    Keeps F s₀ (State.issueVec s a1 a2 a3 a4 a5 a6) := by
  unfold State.issueVec; try dsimp only
  repeat' first
    | with_reducible assumption | exact .trans (by decide) hF | with_reducible apply keeps_finishVec
    | with_reducible apply keeps_lastSlot | with_reducible apply keeps_engineFault
    | with_reducible apply keeps_addDues | with_reducible apply keeps_armAccess
    | with_reducible apply keeps_addDue | with_reducible apply keeps_modClu | split

theorem keeps_ewWord {F : Nat} {s₀ s : State} (hF : Sub 0x2801c0a70 F) (h : Keeps F s₀ s) (a1 : Nat) (a2 : Nat) (a3
    : Ecc) (a4 : LaneUpset) :
    Keeps F s₀ (State.ewWord s a1 a2 a3 a4) := by
  unfold State.ewWord; try dsimp only
  repeat' first
    | with_reducible assumption | exact .trans (by decide) hF | intro _ | with_reducible apply keeps_onWord
    | with_reducible apply keeps_issueVec

theorem keeps_execEw (s : State) (a0 : Nat) (a1 : Nat) (a2 : Nat) (a3 : Ecc) (a4 : LaneUpset) :
    Next 0x2801c0a70 s (execEw a0 a1 a2 a3 a4 s) := by
  refine Next.of ⟨a0, ?_⟩; try dsimp only
  repeat' first
    | exact .trans (by decide) (Sub.refl _) | with_reducible exact .rfl | with_reducible apply keeps_ewWord

theorem keeps_cvtWord {F : Nat} {s₀ s : State} (hF : Sub 0x2801c0a70 F) (h : Keeps F s₀ s) (a1 : Nat) (a2 : Nat)
    (a3 : Ecc) (a4 : LaneUpset) :
    Keeps F s₀ (State.cvtWord s a1 a2 a3 a4) := by
  unfold State.cvtWord; try dsimp only
  repeat' first
    | with_reducible assumption | exact .trans (by decide) hF | intro _ | with_reducible apply keeps_onWord
    | with_reducible apply keeps_issueVec

theorem keeps_execCvt (s : State) (a0 : Nat) (a1 : Nat) (a2 : Nat) (a3 : Ecc) (a4 : LaneUpset) :
    Next 0x2801c0a70 s (execCvt a0 a1 a2 a3 a4 s) := by
  refine Next.of ⟨a0, ?_⟩; try dsimp only
  repeat' first
    | exact .trans (by decide) (Sub.refl _) | with_reducible exact .rfl | with_reducible apply keeps_cvtWord

theorem keeps_redWord {F : Nat} {s₀ s : State} (hF : Sub 0x2801c0a70 F) (h : Keeps F s₀ s) (a1 : Nat) (a2 : Nat)
    (a3 : Ecc) (a4 : LaneUpset) :
    Keeps F s₀ (State.redWord s a1 a2 a3 a4) := by
  unfold State.redWord; try dsimp only
  repeat' first
    | with_reducible assumption | exact .trans (by decide) hF | intro _ | with_reducible apply keeps_onWord
    | with_reducible apply keeps_issueVec

theorem keeps_execRed (s : State) (a0 : Nat) (a1 : Nat) (a2 : Nat) (a3 : Ecc) (a4 : LaneUpset) :
    Next 0x2801c0a70 s (execRed a0 a1 a2 a3 a4 s) := by
  refine Next.of ⟨a0, ?_⟩; try dsimp only
  repeat' first
    | exact .trans (by decide) (Sub.refl _) | with_reducible exact .rfl | with_reducible apply keeps_redWord

theorem keeps_ldlutWord {F : Nat} {s₀ s : State} (hF : Sub 0x2801c0a70 F) (h : Keeps F s₀ s) (a1 : Nat) (a2 : Nat)
    (a3 : Ecc) :
    Keeps F s₀ (State.ldlutWord s a1 a2 a3) := by
  unfold State.ldlutWord; try dsimp only
  repeat' first
    | with_reducible assumption | exact .trans (by decide) hF | intro _ | with_reducible apply keeps_onWord
    | with_reducible apply keeps_issueVec

theorem keeps_execLdlut (s : State) (a0 : Nat) (a1 : Nat) (a2 : Nat) (a3 : Ecc) :
    Next 0x2801c0a70 s (execLdlut a0 a1 a2 a3 s) := by
  refine Next.of ⟨a0, ?_⟩; try dsimp only
  repeat' first
    | exact .trans (by decide) (Sub.refl _) | with_reducible exact .rfl | with_reducible apply keeps_ldlutWord

theorem keeps_scanWord {F : Nat} {s₀ s : State} (hF : Sub 0x2801c0a70 F) (h : Keeps F s₀ s) (a1 : Nat) (a2 : Nat)
    (a3 : Ecc) (a4 : LaneUpset) :
    Keeps F s₀ (State.scanWord s a1 a2 a3 a4) := by
  unfold State.scanWord; try dsimp only
  repeat' first
    | with_reducible assumption | exact .trans (by decide) hF | intro _ | with_reducible apply keeps_onWord
    | with_reducible apply keeps_issueVec

theorem keeps_execScan (s : State) (a0 : Nat) (a1 : Nat) (a2 : Nat) (a3 : Ecc) (a4 : LaneUpset) :
    Next 0x2801c0a70 s (execScan a0 a1 a2 a3 a4 s) := by
  refine Next.of ⟨a0, ?_⟩; try dsimp only
  repeat' first
    | exact .trans (by decide) (Sub.refl _) | with_reducible exact .rfl | with_reducible apply keeps_scanWord

theorem keeps_vectorOperationEnd {F : Nat} {s₀ s : State} (hF : Sub 0x180000 F) (h : Keeps F s₀ s) (a1 : Nat) (a2 :
    Nat) :
    Keeps F s₀ (State.vectorOperationEnd s a1 a2) := by
  unfold State.vectorOperationEnd; try dsimp only
  repeat' first
    | with_reducible assumption | with_reducible apply keeps_finishVec | split

theorem keeps_execVectorOperationEnd (s : State) (a0 : Nat) (a1 : Nat) (a2 : Nat) :
    Next 0x180000 s (execVectorOperationEnd a0 a1 a2 s) := by
  refine Next.of ⟨a0, ?_⟩; try dsimp only
  repeat' first
    | exact .trans (by decide) (Sub.refl _) | with_reducible exact .rfl
    | with_reducible apply keeps_vectorOperationEnd

end Sys2Proof.Machine
end

