-- ==== Sys2Proof/Laws/KeepsHost.lean ====
section
/-! SUPPORT. One lemma for each operation of election, rings, links, power and registers: it keeps what `Keeps` says, within its
footprint. -/

namespace Sys2Proof.Machine

open Sys2Proof.Safety

theorem keeps_effNop {F : Nat} {s₀ s : State} (hF : Sub 0x80100a70 F) (h : Keeps F s₀ s) (a0 : Inflight) :
    Keeps F s₀ (effNop a0 s) := by
  unfold effNop; try dsimp only
  repeat' first
    | with_reducible assumption | with_reducible apply keeps_finish

theorem keeps_execNop (s : State) (a0 : Nat) (a1 : Hdr) :
    Next 0x280100bfc s (execNop a0 a1 s) := by
  refine Next.of (keeps_hostCommand (by decide) _ _ _ _ _ fun _ x0 x1 s₁ h => ?_)
  repeat' first
    | with_reducible assumption | exact .trans (by decide) (Sub.refl _) | with_reducible apply keeps_effNop

theorem keeps_effDeviceQuery {F : Nat} {s₀ s : State} (hF : Sub 0x80100a70 F) (h : Keeps F s₀ s) (a0 : Inflight) :
    Keeps F s₀ (effDeviceQuery a0 s) := by
  unfold effDeviceQuery; try dsimp only
  repeat' first
    | with_reducible assumption | with_reducible apply keeps_finish

theorem keeps_execDeviceQuery (s : State) (a0 : Nat) (a1 : Hdr) :
    Next 0x280100bfc s (execDeviceQuery a0 a1 s) := by
  refine Next.of (keeps_hostCommand (by decide) _ _ _ _ _ fun _ x0 x1 s₁ h => ?_)
  repeat' first
    | with_reducible assumption | exact .trans (by decide) (Sub.refl _)
    | with_reducible apply keeps_effDeviceQuery

theorem keeps_effClaim {F : Nat} {s₀ s : State} (hF : Sub 0x80100a74 F) (h : Keeps F s₀ s) (a0 : Bool)
    (a1 : Inflight) : Keeps F s₀ (effClaim a0 a1 s) :=
  keeps_finish (.trans (by decide) hF)
    (keeps_setOwner (.trans (by decide) hF) h _ _ _ (by cases a1.hdr.master <;> simp [Master.num])) _ _ _

theorem keeps_execClaim (s : State) (a0 : Nat) (a1 : Hdr) (a2 : Bool) (a3 : Bool) :
    Next 0x280100bfc s (execClaim a0 a1 a2 a3 s) := by
  refine Next.of (keeps_hostCommand (by decide) _ _ _ _ _ fun _ x0 x1 s₁ h => ?_)
  repeat' first
    | with_reducible assumption | exact .trans (by decide) (Sub.refl _) | with_reducible apply keeps_effClaim

theorem keeps_effRelease {F : Nat} {s₀ s : State} (hF : Sub 0x80100a74 F) (h : Keeps F s₀ s) (a0 : Inflight) :
    Keeps F s₀ (effRelease a0 s) :=
  keeps_finish (.trans (by decide) hF) (keeps_setOwner (.trans (by decide) hF) h _ _ _ (by omega)) _ _ _

theorem keeps_execRelease (s : State) (a0 : Nat) (a1 : Hdr) :
    Next 0x280100bfc s (execRelease a0 a1 s) := by
  refine Next.of (keeps_hostCommand (by decide) _ _ _ _ _ fun _ x0 x1 s₁ h => ?_)
  repeat' first
    | with_reducible assumption | exact .trans (by decide) (Sub.refl _) | with_reducible apply keeps_effRelease

theorem keeps_effGrant {F : Nat} {s₀ s : State} (hF : Sub 0x80100a74 F) (h : Keeps F s₀ s) (a0 : Nat) (a1 : Bool)
    (a2 : Inflight) (ha : a0 ≤ 3) : Keeps F s₀ (effGrant a0 a1 a2 s) :=
  keeps_finish (.trans (by decide) hF) (keeps_setOwner (.trans (by decide) hF) h _ _ _ ha) _ _ _

theorem keeps_execGrant (s : State) (a0 : Nat) (a1 : Hdr) (a2 : Nat) (a3 : Bool) :
    Next 0x280100bfc s (execGrant a0 a1 a2 a3 s) := by
  refine Next.of (keeps_hostCommand (by decide) _ _ _ _ _ fun hr x0 x1 s₁ h => keeps_effGrant (by decide) h _ _ _ ?_)
  simp [infoGrant] at hr
  omega

theorem keeps_effOwnerQuery {F : Nat} {s₀ s : State} (hF : Sub 0x80100a70 F) (h : Keeps F s₀ s) (a0 : Inflight) :
    Keeps F s₀ (effOwnerQuery a0 s) := by
  unfold effOwnerQuery; try dsimp only
  repeat' first
    | with_reducible assumption | with_reducible apply keeps_finish

theorem keeps_execOwnerQuery (s : State) (a0 : Nat) (a1 : Hdr) :
    Next 0x280100bfc s (execOwnerQuery a0 a1 s) := by
  refine Next.of (keeps_hostCommand (by decide) _ _ _ _ _ fun _ x0 x1 s₁ h => ?_)
  repeat' first
    | with_reducible assumption | exact .trans (by decide) (Sub.refl _)
    | with_reducible apply keeps_effOwnerQuery

theorem keeps_leaseExpiry {F : Nat} {s₀ s : State} (hF : Sub 0x80000824 F) (h : Keeps F s₀ s)  :
    Keeps F s₀ (State.leaseExpiry s) := by
  unfold State.leaseExpiry; try dsimp only
  repeat' first
    | with_reducible assumption | with_reducible apply keeps_expireLease | split

theorem keeps_execLeaseExpiry (s : State) (a0 : Nat) :
    Next 0x80000824 s (execLeaseExpiry a0 s) := by
  refine Next.of ⟨a0, ?_⟩; try dsimp only
  repeat' first
    | exact .trans (by decide) (Sub.refl _) | with_reducible exact .rfl
    | with_reducible apply keeps_leaseExpiry

theorem keeps_doorbellError {F : Nat} {s₀ s : State} (hF : Sub 0x80100000 F) (h : Keeps F s₀ s) (a1 : Nat) (a2 :
    Bool) :
    Keeps F s₀ (State.doorbellError s a1 a2) := by
  unfold State.doorbellError; try dsimp only
  repeat' first
    | with_reducible assumption | exact .trans (by decide) hF | with_reducible apply keeps_logAs
    | with_reducible apply keeps_count

theorem keeps_sqDoorbell {F : Nat} {s₀ s : State} (hF : Sub 0x280100a78 F) (h : Keeps F s₀ s) (a1 : Nat) (a2 : Nat) :
    Keeps F s₀ (State.sqDoorbell s a1 a2) := by
  unfold State.sqDoorbell; try dsimp only
  repeat' first
    | with_reducible assumption | exact .trans (by decide) hF | with_reducible apply keeps_fireArmed
    | with_reducible apply keeps_setSq | with_reducible apply keeps_doorbellError | split

theorem keeps_execSqTail (s : State) (a0 : Nat) (a1 : Nat) (a2 : Nat) :
    Next 0x280100a78 s (execSqTail a0 a1 a2 s) := by
  refine Next.of (keeps_access _ _ _ fun x0 s₁ h => ?_)
  try dsimp only
  repeat' first
    | with_reducible assumption | exact .trans (by decide) (Sub.refl _) | with_reducible apply keeps_sqDoorbell

theorem keeps_cqDoorbell {F : Nat} {s₀ s : State} (hF : Sub 0x280100a70 F) (h : Keeps F s₀ s) (a1 : Nat) (a2 : Nat) :
    Keeps F s₀ (State.cqDoorbell s a1 a2) := by
  unfold State.cqDoorbell; try dsimp only
  repeat' first
    | with_reducible assumption | exact .trans (by decide) hF | with_reducible apply keeps_fireArmed
    | with_reducible apply keeps_postBacklog | with_reducible apply keeps_setCq
    | with_reducible apply keeps_doorbellError | split

theorem keeps_execCqHead (s : State) (a0 : Nat) (a1 : Nat) (a2 : Nat) :
    Next 0x280100a70 s (execCqHead a0 a1 a2 s) := by
  refine Next.of (keeps_access _ _ _ fun x0 s₁ h => ?_)
  try dsimp only
  repeat' first
    | with_reducible assumption | exact .trans (by decide) (Sub.refl _) | with_reducible apply keeps_cqDoorbell

theorem keeps_sqEnable {F : Nat} {s₀ s : State} (hF : Sub 0x8 F) (h : Keeps F s₀ s) (a1 : Nat) (a2 : Reg) :
    Keeps F s₀ (State.sqEnable s a1 a2) := by
  unfold State.sqEnable; try dsimp only
  repeat' first
    | with_reducible assumption | with_reducible apply keeps_setSq | split

theorem keeps_execRingSqEnable (s : State) (a0 : Nat) (a1 : Nat) (a2 : Reg) :
    Next 0x8 s (execRingSqEnable a0 a1 a2 s) := by
  refine Next.of (keeps_access _ _ _ fun x0 s₁ h => ?_)
  try dsimp only
  repeat' first
    | with_reducible assumption | exact .trans (by decide) (Sub.refl _) | with_reducible apply keeps_sqEnable

theorem keeps_sqDisable {F : Nat} {s₀ s : State} (hF : Sub 0x8 F) (h : Keeps F s₀ s) (a1 : Nat) (a2 : Reg) :
    Keeps F s₀ (State.sqDisable s a1 a2) := by
  unfold State.sqDisable; try dsimp only
  repeat' first
    | with_reducible assumption | with_reducible apply keeps_setSq | split

theorem keeps_execRingSqDisable (s : State) (a0 : Nat) (a1 : Nat) (a2 : Reg) :
    Next 0x8 s (execRingSqDisable a0 a1 a2 s) := by
  refine Next.of (keeps_access _ _ _ fun x0 s₁ h => ?_)
  try dsimp only
  repeat' first
    | with_reducible assumption | exact .trans (by decide) (Sub.refl _) | with_reducible apply keeps_sqDisable

theorem keeps_cqEnable {F : Nat} {s₀ s : State} (hF : Sub 0x830 F) (h : Keeps F s₀ s) (a1 : Nat) (a2 : Reg) :
    Keeps F s₀ (State.cqEnable s a1 a2) := by
  unfold State.cqEnable; try dsimp only
  repeat' first
    | with_reducible assumption | exact .trans (by decide) hF | with_reducible apply keeps_setCq
    | with_reducible apply keeps_postBacklog | split

theorem keeps_execRingCqEnable (s : State) (a0 : Nat) (a1 : Nat) (a2 : Reg) :
    Next 0x830 s (execRingCqEnable a0 a1 a2 s) := by
  refine Next.of (keeps_access _ _ _ fun x0 s₁ h => ?_)
  try dsimp only
  repeat' first
    | with_reducible assumption | exact .trans (by decide) (Sub.refl _) | with_reducible apply keeps_cqEnable

theorem keeps_cqDisable {F : Nat} {s₀ s : State} (hF : Sub 0x10 F) (h : Keeps F s₀ s) (a1 : Nat) (a2 : Reg) :
    Keeps F s₀ (State.cqDisable s a1 a2) := by
  unfold State.cqDisable; try dsimp only
  repeat' first
    | with_reducible assumption | with_reducible apply keeps_setCq | split

theorem keeps_execRingCqDisable (s : State) (a0 : Nat) (a1 : Nat) (a2 : Reg) :
    Next 0x10 s (execRingCqDisable a0 a1 a2 s) := by
  refine Next.of (keeps_access _ _ _ fun x0 s₁ h => ?_)
  try dsimp only
  repeat' first
    | with_reducible assumption | exact .trans (by decide) (Sub.refl _) | with_reducible apply keeps_cqDisable

theorem keeps_coalesce {F : Nat} {s₀ s : State} (hF : Sub 0x830 F) (h : Keeps F s₀ s) (a1 : Nat) :
    Keeps F s₀ (State.coalesce s a1) := by
  unfold State.coalesce; try dsimp only
  repeat' first
    | with_reducible assumption | with_reducible apply keeps_signalCq | split

theorem keeps_execCoalesceTimeout (s : State) (a0 : Nat) (a1 : Nat) :
    Next 0x830 s (execCoalesceTimeout a0 a1 s) := by
  refine Next.of ⟨a0, ?_⟩; try dsimp only
  repeat' first
    | exact .trans (by decide) (Sub.refl _) | with_reducible exact .rfl | with_reducible apply keeps_coalesce

theorem keeps_disableRings {F : Nat} {s₀ s : State} (hF : Sub 0x18 F) (h : Keeps F s₀ s)  :
    Keeps F s₀ (State.disableRings s) := by
  unfold State.disableRings; try dsimp only
  repeat' first
    | with_reducible assumption
    | (refine .of fun p => ?_; cases p <;> first | exact .inr (hF.bit rfl) | (dsimp only [Part.same]; first | exact .inl rfl | exact .inl ⟨rfl, rfl, rfl⟩))
    | intro _ | with_reducible exact .rfl | exact List.prefix_refl _ | with_reducible apply Keeps.upd

theorem keeps_linkFalls {F : Nat} {s₀ s : State} (hF : Sub 0x100038 F) (h : Keeps F s₀ s)  :
    Keeps F s₀ (State.linkFalls s) := by
  unfold State.linkFalls; try dsimp only
  repeat' first
    | with_reducible assumption | exact .trans (by decide) hF
    | (refine .of fun p => ?_; cases p <;> first | exact .inr (hF.bit rfl) | (dsimp only [Part.same]; first | exact .inl rfl | exact .inl ⟨rfl, rfl, rfl⟩))
    | intro _ | with_reducible exact .rfl | with_reducible apply keeps_count
    | with_reducible apply keeps_disableRings | split | exact List.prefix_refl _
    | with_reducible apply Keeps.upd

theorem keeps_execLinkDown (s : State) (a0 : Nat) :
    Next 0x100038 s (execLinkDown a0 s) := by
  refine Next.of ⟨a0, ?_⟩; try dsimp only
  repeat' first
    | exact .trans (by decide) (Sub.refl _) | with_reducible exact .rfl | with_reducible apply keeps_linkFalls

theorem keeps_linkRises {F : Nat} {s₀ s : State} (hF : Sub 0x20 F) (h : Keeps F s₀ s) (a1 : Nat) (a2 : Nat) (a3 :
    Bool) :
    Keeps F s₀ (State.linkRises s a1 a2 a3) := by
  unfold State.linkRises; try dsimp only
  repeat' first
    | with_reducible assumption
    | (refine .of fun p => ?_; cases p <;> first | exact .inr (hF.bit rfl) | (dsimp only [Part.same]; first | exact .inl rfl | exact .inl ⟨rfl, rfl, rfl⟩))
    | intro _ | with_reducible exact .rfl | split | exact List.prefix_refl _ | with_reducible apply Keeps.upd

theorem keeps_execLinkUp (s : State) (a0 : Nat) (a1 : Nat) (a2 : Nat) (a3 : Bool) :
    Next 0x20 s (execLinkUp a0 a1 a2 a3 s) := by
  refine Next.of ⟨a0, ?_⟩; try dsimp only
  repeat' first
    | exact .trans (by decide) (Sub.refl _) | with_reducible exact .rfl | with_reducible apply keeps_linkRises

theorem keeps_dropBacklogs {F : Nat} {s₀ s : State} (hF : Sub 0x100010 F) (h : Keeps F s₀ s)  :
    Keeps F s₀ (State.dropBacklogs s) := by
  unfold State.dropBacklogs; try dsimp only
  repeat' first
    | with_reducible assumption | exact .trans (by decide) hF | intro _ | with_reducible exact .rfl
    | with_reducible apply keeps_count | with_reducible apply keeps_setCq | split
    | with_reducible apply Keeps.foldl

theorem keeps_resetFunction {F : Nat} {s₀ s : State} (hF : Sub 0x100038 F) (h : Keeps F s₀ s)  :
    Keeps F s₀ (State.resetFunction s) := by
  unfold State.resetFunction; try dsimp only
  repeat' first
    | with_reducible assumption | exact .trans (by decide) hF
    | (refine .of fun p => ?_; cases p <;> first | exact .inr (hF.bit rfl) | (dsimp only [Part.same]; first | exact .inl rfl | exact .inl ⟨rfl, rfl, rfl⟩))
    | intro _ | with_reducible exact .rfl | with_reducible apply keeps_dropBacklogs
    | with_reducible apply keeps_disableRings | exact List.prefix_refl _ | with_reducible apply Keeps.upd

theorem keeps_execFunctionLevelReset (s : State) (a0 : Nat) :
    Next 0x100038 s (execFunctionLevelReset a0 s) := by
  refine Next.of ⟨a0, ?_⟩; try dsimp only
  repeat' first
    | exact .trans (by decide) (Sub.refl _) | with_reducible exact .rfl
    | with_reducible apply keeps_resetFunction | split

theorem keeps_perstFalls {F : Nat} {s₀ s : State} (hF : Sub 0x10003a F) (h : Keeps F s₀ s)  :
    Keeps F s₀ (State.perstFalls s) := by
  unfold State.perstFalls; try dsimp only
  repeat' first
    | with_reducible assumption | exact .trans (by decide) hF
    | (refine .of fun p => ?_; cases p <;> first | exact .inr (hF.bit rfl) | (dsimp only [Part.same]; first | exact .inl rfl | exact .inl ⟨rfl, rfl, rfl⟩))
    | intro _ | with_reducible exact .rfl | with_reducible apply keeps_resetFunction
    | with_reducible apply keeps_linkFalls | split | exact List.prefix_refl _ | with_reducible apply Keeps.upd

theorem keeps_execPerstNLow (s : State) (a0 : Nat) :
    Next 0x10003a s (execPerstNLow a0 s) := by
  refine Next.of ⟨a0, ?_⟩; try dsimp only
  repeat' first
    | exact .trans (by decide) (Sub.refl _) | with_reducible exact .rfl | with_reducible apply keeps_perstFalls

theorem keeps_perstRises {F : Nat} {s₀ s : State} (hF : Sub 0x2 F) (h : Keeps F s₀ s)  :
    Keeps F s₀ (State.perstRises s) := by
  unfold State.perstRises; try dsimp only
  repeat' first
    | with_reducible assumption
    | (refine .of fun p => ?_; cases p <;> first | exact .inr (hF.bit rfl) | (dsimp only [Part.same]; first | exact .inl rfl | exact .inl ⟨rfl, rfl, rfl⟩))
    | intro _ | with_reducible exact .rfl | exact List.prefix_refl _ | with_reducible apply Keeps.upd

theorem keeps_execPerstNHigh (s : State) (a0 : Nat) :
    Next 0x2 s (execPerstNHigh a0 s) := by
  refine Next.of ⟨a0, ?_⟩; try dsimp only
  repeat' first
    | exact .trans (by decide) (Sub.refl _) | with_reducible exact .rfl | with_reducible apply keeps_perstRises

theorem keeps_configRequest {F : Nat} {s₀ s : State} (hF : Sub 0x20 F) (h : Keeps F s₀ s) (a1 : ConfigReq) :
    Keeps F s₀ (State.configRequest s a1) := by
  unfold State.configRequest; try dsimp only
  repeat' first
    | with_reducible assumption | exact .trans (by decide) hF
    | (refine .of fun p => ?_; cases p <;> first | exact .inr (hF.bit rfl) | (dsimp only [Part.same]; first | exact .inl rfl | exact .inl ⟨rfl, rfl, rfl⟩))
    | intro _ | with_reducible exact .rfl | with_reducible apply keeps_emit | split | exact List.prefix_refl _
    | with_reducible apply Keeps.upd

theorem keeps_execConfigurationRequest (s : State) (a0 : Nat) (a1 : ConfigReq) :
    Next 0x20 s (execConfigurationRequest a0 s a1) := by
  refine Next.of ⟨a0, ?_⟩; try dsimp only
  repeat' first
    | exact .trans (by decide) (Sub.refl _) | with_reducible exact .rfl
    | with_reducible apply keeps_configRequest

theorem keeps_clearInts {F : Nat} {s₀ s : State} (hF : Sub 0x820 F) (h : Keeps F s₀ s) (a1 : Reg) (a2 : BitVec 12) :
    Keeps F s₀ (State.clearInts s a1 a2) := by
  unfold State.clearInts; try dsimp only
  repeat' first
    | with_reducible assumption
    | (refine .of fun p => ?_; cases p <;> first | exact .inr (hF.bit rfl) | (dsimp only [Part.same]; first | exact .inl rfl | exact .inl ⟨rfl, rfl, rfl⟩))
    | intro _ | with_reducible exact .rfl | with_reducible apply keeps_raiseInts
    | with_reducible apply keeps_sendMsi | with_reducible apply Keeps.foldl | exact List.prefix_refl _
    | with_reducible apply Keeps.upd

theorem keeps_devIntWrite {F : Nat} {s₀ s : State} (hF : Sub 0x820 F) (h : Keeps F s₀ s) (a1 : Master) (a2 : Reg)
    (a3 : BitVec 12) :
    Keeps F s₀ (State.devIntWrite s a1 a2 a3) := by
  unfold State.devIntWrite; try dsimp only
  repeat' first
    | with_reducible assumption | with_reducible apply keeps_clearInts | split

theorem keeps_execDevIntClear (s : State) (a0 : Nat) (a1 : Master) (a2 : Reg) (a3 : BitVec 12) :
    Next 0x820 s (execDevIntClear a0 a1 a2 a3 s) := by
  refine Next.of ⟨s.ctrlStart a0, ?_⟩; try dsimp only [State.atCtrl]
  repeat' first
    | exact .trans (by decide) (Sub.refl _) | with_reducible exact .rfl
    | with_reducible apply keeps_devIntWrite

theorem keeps_writeIntEn {F : Nat} {s₀ s : State} (hF : Sub 0x820 F) (h : Keeps F s₀ s) (a1 : Reg) :
    Keeps F s₀ (State.writeIntEn s a1) := by
  unfold State.writeIntEn; try dsimp only
  repeat' first
    | with_reducible assumption
    | (refine .of fun p => ?_; cases p <;> first | exact .inr (hF.bit rfl) | (dsimp only [Part.same]; first | exact .inl rfl | exact .inl ⟨rfl, rfl, rfl⟩))
    | intro _ | with_reducible exact .rfl | with_reducible apply keeps_sendCauses | exact List.prefix_refl _
    | with_reducible apply Keeps.upd

theorem keeps_devIntEnWrite {F : Nat} {s₀ s : State} (hF : Sub 0x820 F) (h : Keeps F s₀ s) (a1 : Master) (a2 : Reg) :
    Keeps F s₀ (State.devIntEnWrite s a1 a2) := by
  unfold State.devIntEnWrite; try dsimp only
  repeat' first
    | with_reducible assumption | with_reducible apply keeps_writeIntEn | split

theorem keeps_execDevIntEnWrite (s : State) (a0 : Nat) (a1 : Master) (a2 : Reg) :
    Next 0x820 s (execDevIntEnWrite a0 a1 a2 s) := by
  refine Next.of (keeps_access _ _ _ fun x0 s₁ h => ?_)
  try dsimp only
  repeat' first
    | with_reducible assumption | exact .trans (by decide) (Sub.refl _)
    | with_reducible apply keeps_devIntEnWrite

theorem keeps_flushMsi {F : Nat} {s₀ s : State} (hF : Sub 0x820 F) (h : Keeps F s₀ s) (a1 : Nat) :
    Keeps F s₀ (State.flushMsi s a1) := by
  unfold State.flushMsi; try dsimp only
  repeat' first
    | with_reducible assumption
    | (refine .of fun p => ?_; cases p <;> first | exact .inr (hF.bit rfl) | (dsimp only [Part.same]; first | exact .inl rfl | exact .inl ⟨rfl, rfl, rfl⟩))
    | intro _ | with_reducible exact .rfl | with_reducible apply keeps_sendMsi | split
    | exact List.prefix_refl _ | with_reducible apply Keeps.upd

theorem keeps_unmask {F : Nat} {s₀ s : State} (hF : Sub 0x820 F) (h : Keeps F s₀ s) (a1 : Nat) :
    Keeps F s₀ (State.unmask s a1) := by
  unfold State.unmask; try dsimp only
  repeat' first
    | with_reducible assumption
    | (refine .of fun p => ?_; cases p <;> first | exact .inr (hF.bit rfl) | (dsimp only [Part.same]; first | exact .inl rfl | exact .inl ⟨rfl, rfl, rfl⟩))
    | intro _ | with_reducible exact .rfl | with_reducible apply keeps_flushMsi | split
    | exact List.prefix_refl _ | with_reducible apply Keeps.upd

theorem keeps_execMsixUnmask (s : State) (a0 : Nat) (a1 : Nat) :
    Next 0x820 s (execMsixUnmask a0 a1 s) := by
  refine Next.of (keeps_access _ _ _ fun x0 s₁ h => ?_)
  try dsimp only
  repeat' first
    | with_reducible assumption | exact .trans (by decide) (Sub.refl _) | with_reducible apply keeps_unmask

theorem keeps_effPowerQuery {F : Nat} {s₀ s : State} (hF : Sub 0x80100a70 F) (h : Keeps F s₀ s) (a0 : Inflight) :
    Keeps F s₀ (effPowerQuery a0 s) := by
  unfold effPowerQuery; try dsimp only
  repeat' first
    | with_reducible assumption | with_reducible apply keeps_finish

theorem keeps_execPowerQuery (s : State) (a0 : Nat) (a1 : Hdr) :
    Next 0x280100bfc s (execPowerQuery a0 a1 s) := by
  refine Next.of (keeps_hostCommand (by decide) _ _ _ _ _ fun _ x0 x1 s₁ h => ?_)
  repeat' first
    | with_reducible assumption | exact .trans (by decide) (Sub.refl _)
    | with_reducible apply keeps_effPowerQuery

theorem keeps_abandonGroup {F : Nat} {s₀ s : State} (hF : Sub 0x41000 F) (h : Keeps F s₀ s) (a1 : Nat) :
    Keeps F s₀ (State.abandonGroup s a1) := by
  unfold State.abandonGroup; try dsimp only
  repeat' first
    | with_reducible assumption | exact .trans (by decide) hF | intro _ | with_reducible exact .rfl
    | with_reducible apply keeps_modStr | with_reducible apply keeps_modGrp | with_reducible apply Keeps.foldl

theorem keeps_abandonGroups {F : Nat} {s₀ s : State} (hF : Sub 0x41000 F) (h : Keeps F s₀ s)  :
    Keeps F s₀ (State.abandonGroups s) := by
  unfold State.abandonGroups; try dsimp only
  repeat' first
    | with_reducible assumption | intro _ | with_reducible exact .rfl | with_reducible apply keeps_abandonGroup
    | with_reducible apply Keeps.foldl

theorem keeps_declareStop {F : Nat} {s₀ s : State} (hF : Sub 0xa0041002 F) (h : Keeps F s₀ s) (a1 : Nat) :
    Keeps F s₀ (State.declareStop s a1) := by
  unfold State.declareStop; try dsimp only
  repeat' first
    | with_reducible assumption | exact .trans (by decide) hF
    | (refine .of fun p => ?_; cases p <;> first | exact .inr (hF.bit rfl) | (dsimp only [Part.same]; first | exact .inl rfl | exact .inl ⟨rfl, rfl, rfl⟩))
    | intro _ | with_reducible exact .rfl | with_reducible apply keeps_emit
    | with_reducible apply keeps_logEvent | with_reducible apply keeps_abandonGroups | split
    | exact List.prefix_refl _ | with_reducible apply Keeps.upd

theorem keeps_sensorRead {F : Nat} {s₀ s : State} (hF : Sub 0xb0041002 F) (h : Keeps F s₀ s) (a1 : List Nat) :
    Keeps F s₀ (State.sensorRead s a1) := by
  unfold State.sensorRead; try dsimp only
  repeat' first
    | with_reducible assumption | exact .trans (by decide) hF
    | (refine .of fun p => ?_; cases p <;> first | exact .inr (hF.bit rfl) | (dsimp only [Part.same]; first | exact .inl rfl | exact .inl ⟨rfl, rfl, rfl⟩))
    | intro _ | with_reducible exact .rfl | with_reducible apply keeps_modGrp
    | with_reducible apply keeps_declareStop | split | with_reducible apply Keeps.foldl
    | exact List.prefix_refl _ | with_reducible apply Keeps.upd

theorem keeps_execSensorRead (s : State) (a0 : Nat) (a1 : List Nat) :
    Next 0xb0041002 s (execSensorRead a0 a1 s) := by
  refine Next.of ⟨a0, ?_⟩; try dsimp only
  repeat' first
    | exact .trans (by decide) (Sub.refl _) | with_reducible exact .rfl | with_reducible apply keeps_sensorRead

theorem keeps_declareMismatch {F : Nat} {s₀ s : State} (hF : Sub 0x90100820 F) (h : Keeps F s₀ s) (a1 : Bool) :
    Keeps F s₀ (State.declareMismatch s a1) := by
  unfold State.declareMismatch; try dsimp only
  repeat' first
    | with_reducible assumption | exact .trans (by decide) hF
    | (refine .of fun p => ?_; cases p <;> first | exact .inr (hF.bit rfl) | (dsimp only [Part.same]; first | exact .inl rfl | exact .inl ⟨rfl, rfl, rfl⟩))
    | intro _ | with_reducible exact .rfl | with_reducible apply keeps_raiseInts
    | with_reducible apply keeps_logAs | with_reducible apply keeps_count | exact List.prefix_refl _
    | with_reducible apply Keeps.upd

theorem keeps_recalibrate {F : Nat} {s₀ s : State} (hF : Sub 0x190000820 F) (h : Keeps F s₀ s)  :
    Keeps F s₀ (State.recalibrate s) := by
  unfold State.recalibrate; try dsimp only
  repeat' first
    | with_reducible assumption | exact .trans (by decide) hF
    | (refine .of fun p => ?_; cases p <;> first | exact .inr (hF.bit rfl) | (dsimp only [Part.same]; first | exact .inl rfl | exact .inl ⟨rfl, rfl, rfl⟩))
    | intro _ | with_reducible exact .rfl | with_reducible apply keeps_setService
    | with_reducible apply keeps_writeRecord | with_reducible apply keeps_logEvent | split
    | exact List.prefix_refl _ | with_reducible apply Keeps.upd

theorem keeps_judgeModel {F : Nat} {s₀ s : State} (hF : Sub 0x190100820 F) (h : Keeps F s₀ s) (a1 : Nat) (a2 : Nat) :
    Keeps F s₀ (State.judgeModel s a1 a2) := by
  unfold State.judgeModel; try dsimp only
  repeat' first
    | with_reducible assumption | exact .trans (by decide) hF
    | (refine .of fun p => ?_; cases p <;> first | exact .inr (hF.bit rfl) | (dsimp only [Part.same]; first | exact .inl rfl | exact .inl ⟨rfl, rfl, rfl⟩))
    | intro _ | with_reducible exact .rfl | with_reducible apply keeps_recalibrate
    | with_reducible apply keeps_declareMismatch | split | exact List.prefix_refl _
    | with_reducible apply Keeps.upd

theorem keeps_powerInterval {F : Nat} {s₀ s : State} (hF : Sub 0x390140a72 F) (h : Keeps F s₀ s) (a1 : Nat) (a2 :
    List (List Nat)) (a3 : Nat) (a4 : List Nat) (a5 : List Nat) :
    Keeps F s₀ (State.powerInterval s a1 a2 a3 a4 a5) := by
  unfold State.powerInterval; try dsimp only
  repeat' first
    | with_reducible assumption | exact .trans (by decide) hF
    | (refine .of fun p => ?_; cases p <;> first | exact .inr (hF.bit rfl) | (dsimp only [Part.same]; first | exact .inl rfl | exact .inl ⟨rfl, rfl, rfl⟩))
    | intro _ | with_reducible exact .rfl | with_reducible apply keeps_countMax
    | with_reducible apply keeps_modGrp | with_reducible apply keeps_judgeModel
    | with_reducible apply keeps_fireArmed | with_reducible apply keeps_declareMismatch | split
    | with_reducible apply Keeps.foldl | exact List.prefix_refl _ | with_reducible apply Keeps.upd

theorem keeps_execPowerInterval (s : State) (a0 : Nat) (a1 : Nat) (a2 : List (List Nat)) (a3 : Nat) (a4 : List Nat)
    (a5 : List Nat) :
    Next 0x390140a72 s (execPowerInterval a0 a1 a2 a3 a4 a5 s) := by
  refine Next.of ⟨a0, ?_⟩; try dsimp only
  repeat' first
    | exact .trans (by decide) (Sub.refl _) | with_reducible exact .rfl
    | with_reducible apply keeps_powerInterval

theorem keeps_capUpdate {F : Nat} {s₀ s : State} (hF : Sub 0x10100820 F) (h : Keeps F s₀ s)  :
    Keeps F s₀ (State.capUpdate s) := by
  unfold State.capUpdate; try dsimp only
  repeat' first
    | with_reducible assumption | exact .trans (by decide) hF
    | (refine .of fun p => ?_; cases p <;> first | exact .inr (hF.bit rfl) | (dsimp only [Part.same]; first | exact .inl rfl | exact .inl ⟨rfl, rfl, rfl⟩))
    | intro _ | with_reducible exact .rfl | with_reducible apply keeps_raiseInts
    | with_reducible apply keeps_count | split | exact List.prefix_refl _ | with_reducible apply Keeps.upd

theorem keeps_upToDate {F : Nat} {s₀ s : State} (hF : Sub 0x140000 F) (h : Keeps F s₀ s)  :
    Keeps F s₀ (State.upToDate s) := by
  unfold State.upToDate; try dsimp only
  repeat' first
    | with_reducible assumption | intro _ | with_reducible exact .rfl | with_reducible apply keeps_countHeld
    | with_reducible apply Keeps.foldl

theorem keeps_readWord {F : Nat} {s₀ s : State} (hF : Sub 0x100400 F) (h : Keeps F s₀ s) (a1 : Master) (a2 : Nat)
    (a3 : Nat) :
    Keeps F s₀ (State.readWord s a1 a2 a3).2 := by
  unfold State.readWord; try dsimp only
  repeat' first
    | with_reducible assumption | exact .trans (by decide) hF
    | (refine .of fun p => ?_; cases p <;> first | exact .inr (hF.bit rfl) | (dsimp only [Part.same]; first | exact .inl rfl | exact .inl ⟨rfl, rfl, rfl⟩))
    | intro _ | with_reducible exact .rfl | with_reducible apply keeps_setCtr | split | dsimp only
    | exact List.prefix_refl _ | with_reducible apply Keeps.upd
theorem keeps_pair_readWord {F : Nat} {s₀ s s' : State} (hF : Sub 0x100400 F) {r} {a1 : Master} {a2 : Nat} {a3 : Nat}
    (e : State.readWord s a1 a2 a3 = (r, s')) (h : Keeps F s₀ s) : Keeps F s₀ s' := by
  have k := keeps_readWord hF h a1 a2 a3; rw [e] at k; exact k

theorem keeps_readOut {F : Nat} {s₀ s : State} (hF : Sub 0x140400 F) (h : Keeps F s₀ s) (a1 : Master) (a2 : Nat)
    (a3 : Nat) (a4 : Nat) :
    Keeps F s₀ (State.readOut s a1 a2 a3 a4) := by
  unfold State.readOut; try dsimp only
  repeat' first
    | with_reducible assumption | exact .trans (by decide) hF | with_reducible apply keeps_readWord
    | with_reducible apply keeps_upToDate | with_reducible apply keeps_emit | split

theorem keeps_readClear {F : Nat} {s₀ s : State} (hF : Sub 0x140400 F) (h : Keeps F s₀ s) (a1 : Master) (a2 : Nat)
    (a3 : Nat) (a4 : Nat) :
    Keeps F s₀ (State.readClear s a1 a2 a3 a4) := by
  unfold State.readClear; try dsimp only
  repeat' first
    | with_reducible assumption | with_reducible apply keeps_readOut

theorem keeps_execReadClear (s : State) (a0 : Nat) (a1 : Master) (a2 : Nat) (a3 : Nat) (a4 : Nat) :
    Next 0x140400 s (execReadClear a0 a1 a2 a3 s a4) := by
  refine Next.of (keeps_readAccess _ _ _ fun x0 s₁ h => ?_)
  try dsimp only
  repeat' first
    | with_reducible assumption | exact .trans (by decide) (Sub.refl _) | with_reducible apply keeps_readClear

theorem keeps_pairLoRead {F : Nat} {s₀ s : State} (hF : Sub 0x140400 F) (h : Keeps F s₀ s) (a1 : Master) (a2 : Nat)
    (a3 : Nat) (a4 : Nat) :
    Keeps F s₀ (State.pairLoRead s a1 a2 a3 a4) := by
  unfold State.pairLoRead; try dsimp only
  repeat' first
    | with_reducible assumption | with_reducible apply keeps_readOut

theorem keeps_execPairLoRead (s : State) (a0 : Nat) (a1 : Master) (a2 : Nat) (a3 : Nat) (a4 : Nat) :
    Next 0x140400 s (execPairLoRead a0 a1 a2 a3 s a4) := by
  refine Next.of (keeps_readAccess _ _ _ fun x0 s₁ h => ?_)
  try dsimp only
  repeat' first
    | with_reducible assumption | exact .trans (by decide) (Sub.refl _) | with_reducible apply keeps_pairLoRead

theorem keeps_writeSafeCfg {F : Nat} {s₀ s : State} (hF : Sub 0x28100820 F) (h : Keeps F s₀ s) (a1 : Nat) (a2 : Nat) :
    Keeps F s₀ (State.writeSafeCfg s a1 a2) := by
  unfold State.writeSafeCfg; try dsimp only
  repeat' first
    | with_reducible assumption | exact .trans (by decide) hF
    | (refine .of fun p => ?_; cases p <;> first | exact .inr (hF.bit rfl) | (dsimp only [Part.same]; first | exact .inl rfl | exact .inl ⟨rfl, rfl, rfl⟩))
    | intro _ | with_reducible exact .rfl | with_reducible apply keeps_judge
    | with_reducible apply keeps_setSafeS | split | with_reducible apply Keeps.foldl | exact List.prefix_refl _
    | with_reducible apply Keeps.upd

theorem keeps_writeCfg {F : Nat} {s₀ s : State} (hF : Sub 0x38100820 F) (h : Keeps F s₀ s) (a1 : Nat) (a2 : Nat) :
    Keeps F s₀ (State.writeCfg s a1 a2) := by
  unfold State.writeCfg; try dsimp only
  repeat' first
    | with_reducible assumption | exact .trans (by decide) hF
    | (refine .of fun p => ?_; cases p <;> first | exact .inr (hF.bit rfl) | (dsimp only [Part.same]; first | exact .inl rfl | exact .inl ⟨rfl, rfl, rfl⟩))
    | intro _ | with_reducible exact .rfl | with_reducible apply keeps_writeSafeCfg | split
    | exact List.prefix_refl _ | with_reducible apply Keeps.upd

theorem keeps_writePort {F : Nat} {s₀ s : State} (hF : Sub 0x800820 F) (h : Keeps F s₀ s) (a1 : Nat) (a2 : Nat) (a3
    : Nat) :
    Keeps F s₀ (State.writePort s a1 a2 a3) := by
  unfold State.writePort; try dsimp only
  repeat' first
    | with_reducible assumption | exact .trans (by decide) hF | with_reducible apply keeps_modPrt
    | with_reducible apply keeps_modPortInt | split

theorem keeps_writeEqxCtl {F : Nat} {s₀ s : State} (hF : Sub 0x2800000 F) (h : Keeps F s₀ s) (a1 : Master) (a2 :
    Nat) (a3 : Nat) :
    Keeps F s₀ (State.writeEqxCtl s a1 a2 a3) := by
  unfold State.writeEqxCtl; try dsimp only
  repeat' first
    | with_reducible assumption | exact .trans (by decide) hF | with_reducible apply keeps_setEqx
    | with_reducible apply keeps_armEqx | with_reducible apply keeps_fireEqx
    | with_reducible apply keeps_disarmEqx | split

theorem keeps_writeEqx {F : Nat} {s₀ s : State} (hF : Sub 0x2800000 F) (h : Keeps F s₀ s) (a1 : Master) (a2 : Nat)
    (a3 : Nat) (a4 : Nat) :
    Keeps F s₀ (State.writeEqx s a1 a2 a3 a4) := by
  unfold State.writeEqx; try dsimp only
  repeat' first
    | with_reducible assumption | exact .trans (by decide) hF | with_reducible apply keeps_writeMembers
    | with_reducible apply keeps_writeEqxCtl | with_reducible apply keeps_setEqx | split

theorem keeps_writeSqWord {F : Nat} {s₀ s : State} (hF : Sub 0x8 F) (h : Keeps F s₀ s) (a1 : Nat) (a2 : Nat) (a3 :
    Nat) :
    Keeps F s₀ (State.writeSqWord s a1 a2 a3) := by
  unfold State.writeSqWord; try dsimp only
  repeat' first
    | with_reducible assumption | with_reducible apply keeps_setSq | with_reducible apply keeps_sqEnable
    | with_reducible apply keeps_sqDisable | split

theorem keeps_writeCqWord {F : Nat} {s₀ s : State} (hF : Sub 0x830 F) (h : Keeps F s₀ s) (a1 : Nat) (a2 : Nat) (a3
    : Nat) :
    Keeps F s₀ (State.writeCqWord s a1 a2 a3) := by
  unfold State.writeCqWord; try dsimp only
  repeat' first
    | with_reducible assumption | exact .trans (by decide) hF | with_reducible apply keeps_setCq
    | with_reducible apply keeps_cqEnable | with_reducible apply keeps_cqDisable | split

theorem keeps_writeMsix {F : Nat} {s₀ s : State} (hF : Sub 0x820 F) (h : Keeps F s₀ s) (a1 : Nat) (a2 : Nat) (a3 :
    Nat) :
    Keeps F s₀ (State.writeMsix s a1 a2 a3) := by
  unfold State.writeMsix; try dsimp only
  repeat' first
    | with_reducible assumption
    | (refine .of fun p => ?_; cases p <;> first | exact .inr (hF.bit rfl) | (dsimp only [Part.same]; first | exact .inl rfl | exact .inl ⟨rfl, rfl, rfl⟩))
    | intro _ | with_reducible exact .rfl | with_reducible apply keeps_unmask | split
    | exact List.prefix_refl _ | with_reducible apply Keeps.upd

theorem keeps_writeDevInt {F : Nat} {s₀ s : State} (hF : Sub 0x820 F) (h : Keeps F s₀ s) (a1 : Nat) (a2 : Nat) :
    Keeps F s₀ (State.writeDevInt s a1 a2) := by
  unfold State.writeDevInt; try dsimp only
  repeat' first
    | with_reducible assumption
    | (refine .of fun p => ?_; cases p <;> first | exact .inr (hF.bit rfl) | (dsimp only [Part.same]; first | exact .inl rfl | exact .inl ⟨rfl, rfl, rfl⟩))
    | intro _ | with_reducible exact .rfl | with_reducible apply keeps_clearInts
    | with_reducible apply keeps_writeIntEn | split | exact List.prefix_refl _ | with_reducible apply Keeps.upd

theorem keeps_writeDoorbell {F : Nat} {s₀ s : State} (hF : Sub 0x280100a78 F) (h : Keeps F s₀ s) (a1 : Nat) (a2 :
    Nat) :
    Keeps F s₀ (State.writeDoorbell s a1 a2) := by
  unfold State.writeDoorbell; try dsimp only
  repeat' first
    | with_reducible assumption | exact .trans (by decide) hF | with_reducible apply keeps_sqDoorbell
    | with_reducible apply keeps_cqDoorbell | split

theorem keeps_opt_writeHost {F : Nat} {s₀ s s' : State} (hF : Sub 0x280100a78 F) {a1 : Nat} {a2 : Nat} {a3 : Nat}
    (e : State.writeHost s a1 a2 a3 = some s') (h : Keeps F s₀ s) : Keeps F s₀ s' := by
  unfold State.writeHost at e; try dsimp only at e
  (repeat' split at e) <;> first | cases e | skip
  all_goals
  repeat' first
    | with_reducible assumption | exact .trans (by decide) hF | with_reducible apply keeps_writeDoorbell
    | with_reducible apply keeps_writeSqWord | with_reducible apply keeps_writeCqWord
    | with_reducible apply keeps_writeMsix | with_reducible apply keeps_writeDevInt

theorem keeps_writeWord {F : Nat} {s₀ s : State} (hF : Sub 0x2bb900a78 F) (h : Keeps F s₀ s) (a1 : Master) (a2 :
    Nat) (a3 : Nat) (a4 : Nat) :
    Keeps F s₀ (State.writeWord s a1 a2 a3 a4) := by
  unfold State.writeWord; try dsimp only
  repeat' first
    | with_reducible assumption | exact .trans (by decide) hF
    | refine keeps_opt_writeHost ?_ (by with_reducible assumption) ?_ | with_reducible apply keeps_writePortCfg
    | with_reducible apply keeps_writeRxMask | with_reducible apply keeps_writeTxMask
    | with_reducible apply keeps_writePort | with_reducible apply keeps_writeEqx
    | with_reducible apply keeps_writeCfg | split

theorem keeps_writeAccess {F : Nat} {s₀ s : State} (hF : Sub 0x2bb900a78 F) (h : Keeps F s₀ s) (a1 : Master) (a2 :
    Nat) (a3 : Nat) (a4 : Nat) (a5 : Reg) :
    Keeps F s₀ (State.writeAccess s a1 a2 a3 a4 a5) := by
  unfold State.writeAccess; try dsimp only
  repeat' first
    | with_reducible assumption | with_reducible apply keeps_writeWord | split

theorem keeps_execRegisterWrite (s : State) (a0 : Nat) (a1 : Master) (a2 : Nat) (a3 : Nat) (a4 : Reg) (a5 : Nat) :
    Next 0x2bb900a78 s (execRegisterWrite a0 a1 a2 a3 a4 s a5) := by
  refine Next.of (keeps_access _ _ _ fun x0 s₁ h => ?_)
  try dsimp only
  repeat' first
    | with_reducible assumption | exact .trans (by decide) (Sub.refl _)
    | with_reducible apply keeps_writeAccess

theorem keeps_readWords {F : Nat} {s₀ : State} (hF : Sub 0x100400 F) (a1 : Master) (a2 : Nat) (a3 : List Nat) : ∀
    {s : State}, Keeps F s₀ s →
    Keeps F s₀ (State.readWords s a1 a2 a3).2 := by
  induction a3 with
  | nil => exact fun h => h
  | cons x r ih =>
    intro s h
    simp only [State.readWords]
    repeat' first
      | with_reducible assumption | with_reducible apply ih | with_reducible apply keeps_readWord
theorem keeps_pair_readWords {F : Nat} {s₀ s s' : State} (hF : Sub 0x100400 F) {r} {a1 : Master} {a2 : Nat} {a3 :
    List Nat}
    (e : State.readWords s a1 a2 a3 = (r, s')) (h : Keeps F s₀ s) : Keeps F s₀ s' := by
  have k := keeps_readWords (s₀ := s₀) hF a1 a2 a3 h; rw [e] at k; exact k

theorem keeps_effRegRead {F : Nat} {s₀ s : State} (hF : Sub 0x80140e70 F) (h : Keeps F s₀ s) (a0 : Nat) (a1 : Nat)
    (a2 : Nat) (a3 : Inflight) :
    Keeps F s₀ (effRegRead a0 a1 a2 a3 s) := by
  unfold effRegRead; try dsimp only
  repeat' first
    | with_reducible assumption | exact .trans (by decide) hF | with_reducible apply keeps_readWords
    | with_reducible apply keeps_upToDate | with_reducible apply keeps_finish

theorem keeps_execRegRead (s : State) (a0 : Nat) (a1 : Hdr) (a2 : Nat) (a3 : Nat) (a4 : Nat) :
    Next 0x280140ffc s (execRegRead a0 a1 a2 a3 a4 s) := by
  refine Next.of (keeps_hostCommand (by decide) _ _ _ _ _ fun _ x0 x1 s₁ h => ?_)
  repeat' first
    | with_reducible assumption | exact .trans (by decide) (Sub.refl _) | with_reducible apply keeps_effRegRead

theorem keeps_writeWords {F : Nat} {s₀ s : State} (hF : Sub 0x2bb900a78 F) (h : Keeps F s₀ s) (a1 : Master) (a2 :
    Nat) (a3 : Nat) (a4 : List Reg) :
    Keeps F s₀ (State.writeWords s a1 a2 a3 a4) := by
  unfold State.writeWords; try dsimp only
  repeat' first
    | with_reducible assumption | intro _ | with_reducible exact .rfl | with_reducible apply keeps_writeWord
    | with_reducible apply Keeps.foldl

theorem keeps_effRegWrite {F : Nat} {s₀ s : State} (hF : Sub 0x2bb900a78 F) (h : Keeps F s₀ s) (a0 : Nat) (a1 :
    Nat) (a2 : Nat) (a3 : List Reg) (a4 : Inflight) :
    Keeps F s₀ (effRegWrite a0 a1 a2 a3 a4 s) := by
  unfold effRegWrite; try dsimp only
  repeat' first
    | with_reducible assumption | exact .trans (by decide) hF | with_reducible apply keeps_finish
    | with_reducible apply keeps_writeWords

theorem keeps_execRegWrite (s : State) (a0 : Nat) (a1 : Hdr) (a2 : Nat) (a3 : Nat) (a4 : Nat) (a5 : List Reg) :
    Next 0x2bb900bfc s (execRegWrite a0 a1 a2 a3 a4 a5 s) := by
  refine Next.of (keeps_hostCommand (by decide) _ _ _ _ _ fun _ x0 x1 s₁ h => ?_)
  repeat' first
    | with_reducible assumption | exact .trans (by decide) (Sub.refl _)
    | with_reducible apply keeps_effRegWrite

theorem keeps_effInject {F : Nat} {s₀ s : State} (hF : Sub 0x280100a70 F) (h : Keeps F s₀ s) (a0 : Nat) (a1 : Nat)
    (a2 : Inflight) :
    Keeps F s₀ (effInject a0 a1 a2 s) := by
  unfold effInject; try dsimp only
  repeat' first
    | with_reducible assumption | exact .trans (by decide) hF
    | (refine .of fun p => ?_; cases p <;> first | exact .inr (hF.bit rfl) | (dsimp only [Part.same]; first | exact .inl rfl | exact .inl ⟨rfl, rfl, rfl⟩))
    | intro _ | with_reducible exact .rfl | with_reducible apply keeps_failCmd | split
    | exact List.prefix_refl _ | with_reducible apply Keeps.upd

theorem keeps_execInject (s : State) (a0 : Nat) (a1 : Hdr) (a2 : Nat) (a3 : Nat) :
    Next 0x280100bfc s (execInject a0 a1 a2 a3 s) := by
  refine Next.of (keeps_hostCommand (by decide) _ _ _ _ _ fun _ x0 x1 s₁ h => ?_)
  repeat' first
    | with_reducible assumption | exact .trans (by decide) (Sub.refl _) | with_reducible apply keeps_effInject

theorem keeps_injectTimeout {F : Nat} {s₀ s : State} (hF : Sub 0x280100a70 F) (h : Keeps F s₀ s) (a1 : Nat) :
    Keeps F s₀ (State.injectTimeout s a1) := by
  unfold State.injectTimeout; try dsimp only
  repeat' first
    | with_reducible assumption | with_reducible apply keeps_endInject | split

theorem keeps_execInjectTimeout (s : State) (a0 : Nat) (a1 : Nat) :
    Next 0x280100a70 s (execInjectTimeout a0 a1 s) := by
  refine Next.of ⟨a0, ?_⟩; try dsimp only
  repeat' first
    | exact .trans (by decide) (Sub.refl _) | with_reducible exact .rfl
    | with_reducible apply keeps_injectTimeout

theorem keeps_startMirror {F : Nat} {s₀ s : State} (hF : Sub 0x80100800 F) (h : Keeps F s₀ s) (a1 : Nat) :
    Keeps F s₀ (State.startMirror s a1) := by
  unfold State.startMirror; try dsimp only
  repeat' first
    | with_reducible assumption
    | (refine .of fun p => ?_; cases p <;> first | exact .inr (hF.bit rfl) | (dsimp only [Part.same]; first | exact .inl rfl | exact .inl ⟨rfl, rfl, rfl⟩))
    | intro _ | with_reducible exact .rfl | with_reducible apply keeps_mirrorEntry
    | with_reducible apply Keeps.foldl | exact List.prefix_refl _ | with_reducible apply Keeps.upd

theorem keeps_effEventMirror {F : Nat} {s₀ s : State} (hF : Sub 0x80100a70 F) (h : Keeps F s₀ s) (a0 : Nat) (a1 :
    Bool) (a2 : Inflight) :
    Keeps F s₀ (effEventMirror a0 a1 a2 s) := by
  unfold effEventMirror; try dsimp only
  repeat' first
    | with_reducible assumption | exact .trans (by decide) hF
    | (refine .of fun p => ?_; cases p <;> first | exact .inr (hF.bit rfl) | (dsimp only [Part.same]; first | exact .inl rfl | exact .inl ⟨rfl, rfl, rfl⟩))
    | intro _ | with_reducible exact .rfl | with_reducible apply keeps_finish
    | with_reducible apply keeps_startMirror | with_reducible apply keeps_failCmd | split
    | exact List.prefix_refl _ | with_reducible apply Keeps.upd

theorem keeps_execEventMirror (s : State) (a0 : Nat) (a1 : Hdr) (a2 : Nat) (a3 : Bool) :
    Next 0x280100bfc s (execEventMirror a0 a1 a2 a3 s) := by
  refine Next.of (keeps_hostCommand (by decide) _ _ _ _ _ fun _ x0 x1 s₁ h => ?_)
  repeat' first
    | with_reducible assumption | exact .trans (by decide) (Sub.refl _)
    | with_reducible apply keeps_effEventMirror

end Sys2Proof.Machine
end

