-- ==== Sys2Proof/Laws/KeepsCommands.lean ====
section
/-! SUPPORT. One lemma for each operation of image, stream, unit, key and firmware commands: it keeps what `Keeps` says, within its
footprint. -/

namespace Sys2Proof.Machine

open Sys2Proof.Safety

theorem keeps_writeDest {F : Nat} {s₀ s : State} (hF : Sub 0x800 F) (h : Keeps F s₀ s) (a1 : Nat) (a2 : List Byte) :
    Keeps F s₀ (State.writeDest s a1 a2) := by
  unfold State.writeDest; try dsimp only
  repeat' first
    | with_reducible assumption | with_reducible apply keeps_hostWrite | split

theorem keeps_writeImage {F : Nat} {s₀ s : State} (hF : Sub 0x180700820 F) (h : Keeps F s₀ s) (a1 : Image) (a2 :
    List Byte) (a3 : WriteRetries) :
    Keeps F s₀ (State.writeImage s a1 a2 a3) := by
  unfold State.writeImage; try dsimp only
  repeat' first
    | with_reducible assumption | intro _ | with_reducible exact .rfl | with_reducible apply keeps_memStore
    | with_reducible apply Keeps.foldl

theorem keeps_joinAlm {F : Nat} {s₀ s : State} (hF : Sub 0x80002000 F) (h : Keeps F s₀ s) (a1 : Nat) (a2 : Nat) (a3
    : List Byte) :
    Keeps F s₀ (State.joinAlm s a1 a2 a3) := by
  unfold State.joinAlm; try dsimp only
  repeat' first
    | with_reducible assumption | exact .trans (by decide) hF | with_reducible apply keeps_setImg
    | with_reducible apply keeps_logEvent | split

theorem keeps_loadAlmanac {F : Nat} {s₀ s : State} (hF : Sub 0x80002000 F) (h : Keeps F s₀ s) (a1 : Nat) (a2 : List
    Byte) :
    Keeps F s₀ (State.loadAlmanac s a1 a2) := by
  unfold State.loadAlmanac; try dsimp only
  repeat' first
    | with_reducible assumption | intro _ | with_reducible exact .rfl | with_reducible apply keeps_joinAlm
    | with_reducible apply Keeps.foldl

theorem keeps_admitImage {F : Nat} {s₀ s : State} (hF : Sub 0x18070ea70 F) (h : Keeps F s₀ s) (a1 : Nat) (a2 :
    Image) (a3 : List Byte) (a4 : WriteRetries) (a5 : Nat) :
    Keeps F s₀ (State.admitImage s a1 a2 a3 a4 a5) := by
  unfold State.admitImage; try dsimp only
  repeat' first
    | with_reducible assumption | exact .trans (by decide) hF
    | (refine .of fun p => ?_; cases p <;> first | exact .inr (hF.bit rfl) | (dsimp only [Part.same]; first | exact .inl rfl | exact .inl ⟨rfl, rfl, rfl⟩))
    | intro _ | with_reducible exact .rfl | with_reducible apply keeps_writeImage
    | with_reducible apply keeps_setImg | with_reducible apply keeps_finish
    | with_reducible apply keeps_loadAlmanac | with_reducible apply keeps_failCmd | split
    | exact List.prefix_refl _ | with_reducible apply Keeps.upd

theorem keeps_effImageLoad {F : Nat} {s₀ s : State} (hF : Sub 0x18070ea70 F) (h : Keeps F s₀ s) (a0 : Nat) (a1 :
    HostData) (a2 : WriteRetries) (a3 : Inflight) :
    Keeps F s₀ (effImageLoad a0 a1 a2 a3 s) := by
  unfold effImageLoad; try dsimp only
  repeat' first
    | with_reducible assumption | exact .trans (by decide) hF | with_reducible apply keeps_failCmd
    | with_reducible apply keeps_admitImage | split

theorem keeps_execImageLoad (s : State) (a0 : Nat) (a1 : Hdr) (a2 : Nat) (a3 : Nat) (a4 : HostData) (a5 :
    WriteRetries) :
    Next 0x38070ebfc s (execImageLoad a0 a1 a2 a3 a4 s a5) := by
  refine Next.of (keeps_hostCommand (by decide) _ _ _ _ _ fun _ x0 x1 s₁ h => ?_)
  repeat' first
    | with_reducible assumption | exact .trans (by decide) (Sub.refl _)
    | with_reducible apply keeps_effImageLoad

theorem keeps_dropPasses {F : Nat} {s₀ s : State} (hF : Sub 0xa0140a70 F) (h : Keeps F s₀ s) (a1 : Nat) (a2 : Nat) :
    Keeps F s₀ (State.dropPasses s a1 a2) := by
  unfold State.dropPasses; try dsimp only
  repeat' first
    | with_reducible assumption | exact .trans (by decide) hF | with_reducible apply keeps_judgeAll
    | with_reducible apply keeps_finishAll | with_reducible apply keeps_setGrp

theorem keeps_removeImage {F : Nat} {s₀ s : State} (hF : Sub 0xa014ea70 F) (h : Keeps F s₀ s) (a1 : Nat) :
    Keeps F s₀ (State.removeImage s a1) := by
  unfold State.removeImage; try dsimp only
  repeat' first
    | with_reducible assumption | exact .trans (by decide) hF
    | (refine .of fun p => ?_; cases p <;> first | exact .inr (hF.bit rfl) | (dsimp only [Part.same]; first | exact .inl rfl | exact .inl ⟨rfl, rfl, rfl⟩))
    | intro _ | with_reducible exact .rfl | with_reducible apply keeps_dropPasses
    | with_reducible apply keeps_setImg | with_reducible apply Keeps.foldl | exact List.prefix_refl _
    | with_reducible apply Keeps.upd

theorem keeps_effImageUnload {F : Nat} {s₀ s : State} (hF : Sub 0xa014ea70 F) (h : Keeps F s₀ s) (a0 : Nat) (a1 :
    Inflight) :
    Keeps F s₀ (effImageUnload a0 a1 s) := by
  unfold effImageUnload; try dsimp only
  repeat' first
    | with_reducible assumption | exact .trans (by decide) hF | with_reducible apply keeps_failCmd
    | with_reducible apply keeps_finish | with_reducible apply keeps_removeImage | split

theorem keeps_execImageUnload (s : State) (a0 : Nat) (a1 : Hdr) (a2 : Nat) :
    Next 0x2a014ebfc s (execImageUnload a0 a1 a2 s) := by
  refine Next.of (keeps_hostCommand (by decide) _ _ _ _ _ fun _ x0 x1 s₁ h => ?_)
  repeat' first
    | with_reducible assumption | exact .trans (by decide) (Sub.refl _)
    | with_reducible apply keeps_effImageUnload

theorem keeps_effImageReload {F : Nat} {s₀ s : State} (hF : Sub 0x180702a70 F) (h : Keeps F s₀ s) (a0 : Nat) (a1 :
    Nat) (a2 : HostData) (a3 : WriteRetries) (a4 : Inflight) :
    Keeps F s₀ (effImageReload a0 a1 a2 a3 a4 s) := by
  unfold effImageReload; try dsimp only
  repeat' first
    | with_reducible assumption | exact .trans (by decide) hF | with_reducible apply keeps_failCmd
    | with_reducible apply keeps_finish | with_reducible apply keeps_setImg
    | with_reducible apply keeps_writeImage | split

theorem keeps_execImageReload (s : State) (a0 : Nat) (a1 : Hdr) (a2 : Nat) (a3 : Nat) (a4 : Nat) (a5 : HostData)
    (a6 : WriteRetries) :
    Next 0x380702bfc s (execImageReload a0 a1 a2 a3 a4 a5 s a6) := by
  refine Next.of (keeps_hostCommand (by decide) _ _ _ _ _ fun _ x0 x1 s₁ h => ?_)
  repeat' first
    | with_reducible assumption | exact .trans (by decide) (Sub.refl _)
    | with_reducible apply keeps_effImageReload

theorem keeps_resumeLoads {F : Nat} {s₀ s : State} (hF : Sub 0x18070ea70 F) (h : Keeps F s₀ s)  :
    Keeps F s₀ (State.resumeLoads s) := by
  unfold State.resumeLoads; try dsimp only
  repeat' first
    | with_reducible assumption | exact .trans (by decide) hF | intro _ | with_reducible exact .rfl
    | with_reducible apply keeps_effImageLoad | with_reducible apply keeps_effImageReload | split
    | with_reducible apply Keeps.foldl

theorem keeps_effPowerCapSet {F : Nat} {s₀ s : State} (hF : Sub 0x19070ea70 F) (h : Keeps F s₀ s) (a0 : Nat) (a1 :
    Inflight) :
    Keeps F s₀ (effPowerCapSet a0 a1 s) := by
  unfold effPowerCapSet; try dsimp only
  repeat' first
    | with_reducible assumption | exact .trans (by decide) hF
    | (refine .of fun p => ?_; cases p <;> first | exact .inr (hF.bit rfl) | (dsimp only [Part.same]; first | exact .inl rfl | exact .inl ⟨rfl, rfl, rfl⟩))
    | intro _ | with_reducible exact .rfl | with_reducible apply keeps_resumeLoads
    | with_reducible apply keeps_finish | exact List.prefix_refl _ | with_reducible apply Keeps.upd

theorem keeps_execPowerCapSet (s : State) (a0 : Nat) (a1 : Hdr) (a2 : Nat) :
    Next 0x39070ebfc s (execPowerCapSet a0 a1 a2 s) := by
  refine Next.of (keeps_hostCommand (by decide) _ _ _ _ _ fun _ x0 x1 s₁ h => ?_)
  repeat' first
    | with_reducible assumption | exact .trans (by decide) (Sub.refl _)
    | with_reducible apply keeps_effPowerCapSet

theorem keeps_execCapUpdate (s : State) (a0 : Nat) :
    Next 0x19070ea70 s (execCapUpdate a0 s) := by
  refine Next.of ⟨a0, ?_⟩; try dsimp only
  repeat' first
    | exact .trans (by decide) (Sub.refl _) | with_reducible exact .rfl
    | with_reducible apply keeps_resumeLoads | with_reducible apply keeps_capUpdate

theorem keeps_effImageQuery {F : Nat} {s₀ s : State} (hF : Sub 0x80100a70 F) (h : Keeps F s₀ s) (a0 : Nat) (a1 :
    Nat) (a2 : Inflight) :
    Keeps F s₀ (effImageQuery a0 a1 a2 s) := by
  unfold effImageQuery; try dsimp only
  repeat' first
    | with_reducible assumption | exact .trans (by decide) hF | with_reducible apply keeps_failCmd
    | with_reducible apply keeps_finish | with_reducible apply keeps_writeDest | split

theorem keeps_execImageQuery (s : State) (a0 : Nat) (a1 : Hdr) (a2 : Nat) (a3 : Nat) :
    Next 0x280100bfc s (execImageQuery a0 a1 a2 a3 s) := by
  refine Next.of (keeps_hostCommand (by decide) _ _ _ _ _ fun _ x0 x1 s₁ h => ?_)
  repeat' first
    | with_reducible assumption | exact .trans (by decide) (Sub.refl _)
    | with_reducible apply keeps_effImageQuery

theorem keeps_takeHome {F : Nat} {s₀ s : State} (hF : Sub 0x18000 F) (h : Keeps F s₀ s) (a1 : Nat) (a2 : Nat) (a3 :
    Bool) :
    Keeps F s₀ (State.takeHome s a1 a2 a3) := by
  unfold State.takeHome; try dsimp only
  repeat' first
    | with_reducible assumption
    | (refine .of fun p => ?_; cases p <;> first | exact .inr (hF.bit rfl) | (dsimp only [Part.same]; first | exact .inl rfl | exact .inl ⟨rfl, rfl, rfl⟩))
    | intro _ | with_reducible exact .rfl | split | exact List.prefix_refl _ | with_reducible apply Keeps.upd

theorem keeps_freeHome {F : Nat} {s₀ s : State} (hF : Sub 0x18000 F) (h : Keeps F s₀ s) (a1 : Stream) :
    Keeps F s₀ (State.freeHome s a1) := by
  unfold State.freeHome; try dsimp only
  repeat' first
    | with_reducible assumption
    | (refine .of fun p => ?_; cases p <;> first | exact .inr (hF.bit rfl) | (dsimp only [Part.same]; first | exact .inl rfl | exact .inl ⟨rfl, rfl, rfl⟩))
    | intro _ | with_reducible exact .rfl | split | exact List.prefix_refl _ | with_reducible apply Keeps.upd

theorem keeps_pinSlot {F : Nat} {s₀ s : State} (hF : Sub 0x141000 F) (h : Keeps F s₀ s) (a1 : Nat) (a2 : Nat) :
    Keeps F s₀ (State.pinSlot s a1 a2).1 := by
  unfold State.pinSlot; try dsimp only
  repeat' first
    | with_reducible assumption | exact .trans (by decide) hF | with_reducible apply keeps_setSlot
    | with_reducible apply keeps_evict | with_reducible apply keeps_count | split
theorem keeps_pair_pinSlot {F : Nat} {s₀ s s' : State} (hF : Sub 0x141000 F) {r} {a1 : Nat} {a2 : Nat}
    (e : State.pinSlot s a1 a2 = (s', r)) (h : Keeps F s₀ s) : Keeps F s₀ s' := by
  have k := keeps_pinSlot hF h a1 a2; rw [e] at k; exact k

theorem keeps_enterS {F : Nat} {s₀ s : State} (hF : Sub 0x20101820 F) (h : Keeps F s₀ s) (a1 : Nat) :
    Keeps F s₀ (State.enterS s a1) := by
  unfold State.enterS; try dsimp only
  repeat' first
    | with_reducible assumption | exact .trans (by decide) hF | with_reducible apply keeps_judge
    | with_reducible apply keeps_setSafeS | with_reducible apply keeps_setStr | split

theorem keeps_leaveS {F : Nat} {s₀ s : State} (hF : Sub 0x20000000 F) (h : Keeps F s₀ s) (a1 : Nat) :
    Keeps F s₀ (State.leaveS s a1) := by
  unfold State.leaveS; try dsimp only
  repeat' first
    | with_reducible assumption | with_reducible apply keeps_setSafeS | split

theorem keeps_opt_openStream {F : Nat} {s₀ s s' : State} (hF : Sub 0x1a1759820 F) {a1 : OpenSpec}
    {a2 : Nat → State → List Byte} {a3 : WriteRetries} {n : Nat} (e : State.openStream s a1 a2 a3 = some (s', n))
    (h : Keeps F s₀ s) : Keeps F s₀ s' := by
  unfold State.openStream at e; dsimp only at e
  split at e
  · simp only [Option.some.injEq, Prod.mk.injEq] at e
    obtain ⟨rfl, _⟩ := e
    repeat' first
      | with_reducible assumption | exact .trans (by decide) hF | with_reducible apply keeps_requestSwaps
      | split | with_reducible apply keeps_pinSlot | with_reducible apply keeps_enterS
      | with_reducible apply keeps_bindChan | with_reducible apply keeps_writeHome
      | with_reducible apply keeps_setStr | with_reducible apply keeps_takeHome
  · cases e

theorem keeps_effStreamOpen {F : Nat} {s₀ s : State} (hF : Sub 0x1a1759a70 F) (h : Keeps F s₀ s) (a0 : OpenParams)
    (a1 : WriteRetries) (a2 : Inflight) :
    Keeps F s₀ (effStreamOpen a0 a1 a2 s) := by
  unfold effStreamOpen; try dsimp only
  repeat' first
    | with_reducible assumption | exact .trans (by decide) hF | with_reducible apply keeps_failCmd
    | refine keeps_opt_openStream ?_ (by with_reducible assumption) ?_ | with_reducible apply keeps_finish
    | split

theorem keeps_execStreamOpen (s : State) (a0 : Nat) (a1 : Hdr) (a2 : OpenParams) (a3 : WriteRetries) :
    Next 0x3a1759bfc s (execStreamOpen a0 a1 a2 s a3) := by
  refine Next.of (keeps_hostCommand (by decide) _ _ _ _ _ fun _ x0 x1 s₁ h => ?_)
  repeat' first
    | with_reducible assumption | exact .trans (by decide) (Sub.refl _)
    | with_reducible apply keeps_effStreamOpen

theorem keeps_startClose {F : Nat} {s₀ s : State} (hF : Sub 0x80101a70 F) (h : Keeps F s₀ s) (a1 : Nat) :
    Keeps F s₀ (State.startClose s a1) := by
  unfold State.startClose; try dsimp only
  repeat' first
    | with_reducible assumption | exact .trans (by decide) hF | with_reducible apply keeps_setStr
    | with_reducible apply keeps_finish | split

theorem keeps_releaseSlots {F : Nat} {s₀ s : State} (hF : Sub 0x40000 F) (h : Keeps F s₀ s) (a1 : Nat) (a2 : Nat) :
    Keeps F s₀ (State.releaseSlots s a1 a2) := by
  unfold State.releaseSlots; try dsimp only
  repeat' first
    | with_reducible assumption | intro _ | with_reducible exact .rfl | with_reducible apply keeps_setSlot
    | split | with_reducible apply Keeps.foldl

theorem keeps_forgetSwaps {F : Nat} {s₀ s : State} (hF : Sub 0x40000 F) (h : Keeps F s₀ s) (a1 : Nat) (a2 : Nat) :
    Keeps F s₀ (State.forgetSwaps s a1 a2) := by
  unfold State.forgetSwaps; try dsimp only
  repeat' first
    | with_reducible assumption | with_reducible apply keeps_modGrp

theorem keeps_freeStream {F : Nat} {s₀ s : State} (hF : Sub 0x21159000 F) (h : Keeps F s₀ s) (a1 : Nat) :
    Keeps F s₀ (State.freeStream s a1) := by
  unfold State.freeStream; try dsimp only
  repeat' first
    | with_reducible assumption | exact .trans (by decide) hF | with_reducible apply keeps_leaveS
    | with_reducible apply keeps_unbind | with_reducible apply keeps_freeHome
    | with_reducible apply keeps_forgetSwaps | with_reducible apply keeps_releaseSlots
    | with_reducible apply keeps_requestSwaps | with_reducible apply keeps_setStr

theorem keeps_streamClosed {F : Nat} {s₀ s : State} (hF : Sub 0xa1159a70 F) (h : Keeps F s₀ s) (a1 : Nat) :
    Keeps F s₀ (State.streamClosed s a1) := by
  unfold State.streamClosed; try dsimp only
  repeat' first
    | with_reducible assumption | exact .trans (by decide) hF | with_reducible apply keeps_finishAll
    | with_reducible apply keeps_freeStream | split

theorem keeps_execStreamClosed (s : State) (a0 : Nat) (a1 : Nat) :
    Next 0xa1159a70 s (execStreamClosed a0 a1 s) := by
  refine Next.of ⟨a0, ?_⟩; try dsimp only
  repeat' first
    | exact .trans (by decide) (Sub.refl _) | with_reducible exact .rfl
    | with_reducible apply keeps_streamClosed

theorem keeps_effStreamClose {F : Nat} {s₀ s : State} (hF : Sub 0x80101a70 F) (h : Keeps F s₀ s) (a0 : Nat) (a1 :
    Inflight) :
    Keeps F s₀ (effStreamClose a0 a1 s) := by
  unfold effStreamClose; try dsimp only
  repeat' first
    | with_reducible assumption | exact .trans (by decide) hF | with_reducible apply keeps_finish
    | with_reducible apply keeps_failCmd | with_reducible apply keeps_waitCmd
    | with_reducible apply keeps_startClose | split

theorem keeps_execStreamClose (s : State) (a0 : Nat) (a1 : Hdr) (a2 : Nat) :
    Next 0x280101bfc s (execStreamClose a0 a1 a2 s) := by
  refine Next.of (keeps_hostCommand (by decide) _ _ _ _ _ fun _ x0 x1 s₁ h => ?_)
  repeat' first
    | with_reducible assumption | exact .trans (by decide) (Sub.refl _)
    | with_reducible apply keeps_effStreamClose

theorem keeps_effStreamQuery {F : Nat} {s₀ s : State} (hF : Sub 0x80100a70 F) (h : Keeps F s₀ s) (a0 : Nat) (a1 :
    Nat) (a2 : Nat) (a3 : Inflight) :
    Keeps F s₀ (effStreamQuery a0 a1 a2 a3 s) := by
  unfold effStreamQuery; try dsimp only
  repeat' first
    | with_reducible assumption | exact .trans (by decide) hF | with_reducible apply keeps_finish
    | with_reducible apply keeps_writeDest

theorem keeps_execStreamQuery (s : State) (a0 : Nat) (a1 : Hdr) (a2 : Nat) (a3 : Nat) (a4 : Nat) :
    Next 0x280100bfc s (execStreamQuery a0 a1 a2 a3 a4 s) := by
  refine Next.of (keeps_hostCommand (by decide) _ _ _ _ _ fun _ x0 x1 s₁ h => ?_)
  repeat' first
    | with_reducible assumption | exact .trans (by decide) (Sub.refl _)
    | with_reducible apply keeps_effStreamQuery

theorem keeps_effStreamMark {F : Nat} {s₀ s : State} (hF : Sub 0x80101a70 F) (h : Keeps F s₀ s) (a0 : Nat) (a1 :
    Nat) (a2 : Inflight) :
    Keeps F s₀ (effStreamMark a0 a1 a2 s) := by
  unfold effStreamMark; try dsimp only
  repeat' first
    | with_reducible assumption | exact .trans (by decide) hF | with_reducible apply keeps_failCmd
    | with_reducible apply keeps_finish | with_reducible apply keeps_setStr | split

theorem keeps_execStreamMark (s : State) (a0 : Nat) (a1 : Hdr) (a2 : Nat) (a3 : Nat) :
    Next 0x280101bfc s (execStreamMark a0 a1 a2 a3 s) := by
  refine Next.of (keeps_hostCommand (by decide) _ _ _ _ _ fun _ x0 x1 s₁ h => ?_)
  repeat' first
    | with_reducible assumption | exact .trans (by decide) (Sub.refl _)
    | with_reducible apply keeps_effStreamMark

theorem keeps_effStreamInput {F : Nat} {s₀ s : State} (hF : Sub 0x180701a70 F) (h : Keeps F s₀ s) (a0 : Nat) (a1 :
    Nat) (a2 : Nat) (a3 : HostData) (a4 : Inflight) :
    Keeps F s₀ (effStreamInput a0 a1 a2 a3 a4 s) := by
  unfold effStreamInput; try dsimp only
  repeat' first
    | with_reducible assumption | exact .trans (by decide) hF | with_reducible apply keeps_failCmd
    | with_reducible apply keeps_waitCmd | with_reducible apply keeps_finish
    | with_reducible apply keeps_putRing | with_reducible apply keeps_setStr | split

theorem keeps_execStreamInput (s : State) (a0 : Nat) (a1 : Hdr) (a2 : Nat) (a3 : Nat) (a4 : Nat) (a5 : Nat) (a6 :
    HostData) :
    Next 0x380701bfc s (execStreamInput a0 a1 a2 a3 a4 a5 a6 s) := by
  refine Next.of (keeps_hostCommand (by decide) _ _ _ _ _ fun _ x0 x1 s₁ h => ?_)
  repeat' first
    | with_reducible assumption | exact .trans (by decide) (Sub.refl _)
    | with_reducible apply keeps_effStreamInput

theorem keeps_unplan {F : Nat} {s₀ s : State} (hF : Sub 0x41000 F) (h : Keeps F s₀ s) (a1 : Nat) :
    Keeps F s₀ (State.unplan s a1) := by
  unfold State.unplan; try dsimp only
  repeat' first
    | with_reducible assumption | exact .trans (by decide) hF | with_reducible apply keeps_modStr
    | with_reducible apply keeps_setGrp

theorem keeps_closeForPort {F : Nat} {s₀ s : State} (hF : Sub 0xa0141a70 F) (h : Keeps F s₀ s) (a1 : Nat) :
    Keeps F s₀ (State.closeForPort s a1) := by
  unfold State.closeForPort; try dsimp only
  repeat' first
    | with_reducible assumption | exact .trans (by decide) hF | with_reducible apply keeps_startClose
    | with_reducible apply keeps_endChunks | with_reducible apply keeps_unplan | split

theorem keeps_wakeStream {F : Nat} {s₀ s : State} (hF : Sub 0x1a0741a70 F) (h : Keeps F s₀ s) (a1 : Nat) :
    Keeps F s₀ (State.wakeStream s a1) := by
  unfold State.wakeStream; try dsimp only
  repeat' first
    | with_reducible assumption | exact .trans (by decide) hF | intro _ | with_reducible exact .rfl
    | with_reducible apply keeps_effStreamClose | with_reducible apply keeps_takesEffect
    | with_reducible apply keeps_effStreamInput | with_reducible apply keeps_closeForPort | split
    | with_reducible apply Keeps.foldl

theorem keeps_dropKey {F : Nat} {s₀ s : State} (hF : Sub 0x800000000 F) (h : Keeps F s₀ s) (a1 : Nat) :
    Keeps F s₀ (State.dropKey s a1) := by
  unfold State.dropKey; try dsimp only
  repeat' first
    | with_reducible assumption
    | (refine .of fun p => ?_; cases p <;> first | exact .inr (hF.bit rfl) | (dsimp only [Part.same]; first | exact .inl rfl | exact .inl ⟨rfl, rfl, rfl⟩))
    | intro _ | with_reducible exact .rfl | exact List.prefix_refl _ | with_reducible apply Keeps.upd

theorem keeps_wakeKey {F : Nat} {s₀ s : State} (hF : Sub 0x880100a70 F) (h : Keeps F s₀ s) (a1 : Nat) :
    Keeps F s₀ (State.wakeKey s a1) := by
  unfold State.wakeKey; try dsimp only
  repeat' first
    | with_reducible assumption | exact .trans (by decide) hF | with_reducible apply keeps_finishAll
    | with_reducible apply keeps_dropKey | split

theorem keeps_dropMove {F : Nat} {s₀ s : State} (hF : Sub 0x80101a70 F) (h : Keeps F s₀ s) (a1 : Nat) :
    Keeps F s₀ (State.dropMove s a1) := by
  unfold State.dropMove; try dsimp only
  repeat' first
    | with_reducible assumption | exact .trans (by decide) hF | with_reducible apply keeps_finish
    | with_reducible apply keeps_modStr | split

theorem keeps_effStreamExport {F : Nat} {s₀ s : State} (hF : Sub 0x80101a70 F) (h : Keeps F s₀ s) (a0 : Nat) (a1 :
    Nat) (a2 : Bool) (a3 : Nat) (a4 : Nat) (a5 : Inflight) :
    Keeps F s₀ (effStreamExport a0 a1 a2 a3 a4 a5 s) := by
  unfold effStreamExport; try dsimp only
  repeat' first
    | with_reducible assumption | exact .trans (by decide) hF | with_reducible apply keeps_failCmd
    | with_reducible apply keeps_modStr | with_reducible apply keeps_dropMove | split

theorem keeps_execStreamExport (s : State) (a0 : Nat) (a1 : Hdr) (a2 : Nat) (a3 : Nat) (a4 : Bool) (a5 : Nat) (a6 :
    Nat) :
    Next 0x280101bfc s (execStreamExport a0 a1 a2 a3 a4 a5 a6 s) := by
  refine Next.of (keeps_hostCommand (by decide) _ _ _ _ _ fun _ x0 x1 s₁ h => ?_)
  repeat' first
    | with_reducible assumption | exact .trans (by decide) (Sub.refl _)
    | with_reducible apply keeps_effStreamExport

theorem keeps_exportBegin {F : Nat} {s₀ s : State} (hF : Sub 0x41000 F) (h : Keeps F s₀ s) (a1 : Nat) :
    Keeps F s₀ (State.exportBegin s a1) := by
  unfold State.exportBegin; try dsimp only
  repeat' first
    | with_reducible assumption | exact .trans (by decide) hF | with_reducible apply keeps_modStr
    | with_reducible apply keeps_unplan | split

theorem keeps_execExportBegin (s : State) (a0 : Nat) (a1 : Nat) :
    Next 0x41000 s (execExportBegin a0 a1 s) := by
  refine Next.of ⟨a0, ?_⟩; try dsimp only
  repeat' first
    | exact .trans (by decide) (Sub.refl _) | with_reducible exact .rfl
    | with_reducible apply keeps_exportBegin

theorem keeps_exportRead {F : Nat} {s₀ s : State} (hF : Sub 0x3a05c1a70 F) (h : Keeps F s₀ s) (a1 : Nat) (a2 :
    TransferFault) (a3 : List (Nat × Met)) (a4 : MemReads) :
    Keeps F s₀ (State.exportRead s a1 a2 a3 a4).2 := by
  unfold State.exportRead; try dsimp only
  repeat' first
    | with_reducible assumption | exact .trans (by decide) hF | intro _ | with_reducible apply keeps_copyReads
    | refine keeps_pair_fireCodec ?_ (by with_reducible assumption) ?_ | with_reducible apply keeps_asInjected
    | with_reducible apply keeps_stateBlockFailed | with_reducible apply keeps_homeReads | split
theorem keeps_pair_exportRead {F : Nat} {s₀ s s' : State} (hF : Sub 0x3a05c1a70 F) {r} {a1 : Nat} {a2 :
    TransferFault} {a3 : List (Nat × Met)} {a4 : MemReads}
    (e : State.exportRead s a1 a2 a3 a4 = (r, s')) (h : Keeps F s₀ s) : Keeps F s₀ s' := by
  have k := keeps_exportRead hF h a1 a2 a3 a4; rw [e] at k; exact k

theorem keeps_writeContainer {F : Nat} {s₀ s : State} (hF : Sub 0xa1159a71 F) (h : Keeps F s₀ s) (a1 : Nat) (a2 :
    ExportReq) (a3 : List Byte) (a4 : List Byte) :
    Keeps F s₀ (State.writeContainer s a1 a2 a3 a4) := by
  unfold State.writeContainer; try dsimp only
  repeat' first
    | with_reducible assumption | exact .trans (by decide) hF | with_reducible apply keeps_drawRandom
    | with_reducible apply keeps_hostWriteRelaxed | with_reducible apply keeps_count
    | with_reducible apply keeps_setStr | with_reducible apply keeps_freeStream
    | with_reducible apply keeps_endUnstamped | with_reducible apply keeps_endChunks
    | with_reducible apply keeps_requestSwaps | with_reducible apply keeps_finish | split

theorem keeps_failExport {F : Nat} {s₀ s : State} (hF : Sub 0x80101a70 F) (h : Keeps F s₀ s) (a1 : Nat) (a2 :
    ExportReq) (a3 : Nat) :
    Keeps F s₀ (State.failExport s a1 a2 a3) := by
  unfold State.failExport; try dsimp only
  repeat' first
    | with_reducible assumption | exact .trans (by decide) hF | with_reducible apply keeps_setStr
    | with_reducible apply keeps_finish

theorem keeps_afterExport {F : Nat} {s₀ s : State} (hF : Sub 0x9a0741a70 F) (h : Keeps F s₀ s) (a1 : Nat) (a2 :
    ExportReq) :
    Keeps F s₀ (State.afterExport s a1 a2) := by
  unfold State.afterExport; try dsimp only
  repeat' first
    | with_reducible assumption | exact .trans (by decide) hF | with_reducible apply keeps_wakeStream
    | with_reducible apply keeps_wakeKey

theorem keeps_exportDone {F : Nat} {s₀ s : State} (hF : Sub 0xba17d9a71 F) (h : Keeps F s₀ s) (a1 : Nat) (a2 :
    TransferFault) (a3 : List (Nat × Met)) (a4 : MemReads) (a5 : WriteRetries) :
    Keeps F s₀ (State.exportDone s a1 a2 a3 a4 a5) := by
  unfold State.exportDone; try dsimp only
  repeat' first
    | with_reducible assumption | exact .trans (by decide) hF
    | refine keeps_pair_exportRead ?_ (by with_reducible assumption) ?_
    | with_reducible apply keeps_afterExport | with_reducible apply keeps_writeContainer
    | with_reducible apply keeps_failExport | with_reducible apply keeps_recordFault
    | with_reducible apply keeps_requestSwaps | split

theorem keeps_execExportDone (s : State) (a0 : Nat) (a1 : Nat) (a2 : TransferFault) (a3 : List (Nat × Met)) (a4 :
    MemReads) (a5 : WriteRetries) :
    Next 0xba17d9a71 s (execExportDone a0 a1 a2 s a3 a4 a5) := by
  refine Next.of ⟨a0, ?_⟩; try dsimp only
  repeat' first
    | exact .trans (by decide) (Sub.refl _) | with_reducible exact .rfl | with_reducible apply keeps_exportDone

theorem keeps_containerBlockFailed {F : Nat} {s₀ s : State} (hF : Sub 0x80100000 F) (h : Keeps F s₀ s) (a1 : Nat) :
    Keeps F s₀ (State.containerBlockFailed s a1) := by
  unfold State.containerBlockFailed; try dsimp only
  repeat' first
    | with_reducible assumption | exact .trans (by decide) hF | with_reducible apply keeps_logEvent
    | with_reducible apply keeps_count | split

theorem keeps_rejectImport {F : Nat} {s₀ s : State} (hF : Sub 0x80100a70 F) (h : Keeps F s₀ s) (a1 : Nat) (a2 : Nat) :
    Keeps F s₀ (State.rejectImport s a1 a2) := by
  unfold State.rejectImport; try dsimp only
  repeat' first
    | with_reducible assumption | exact .trans (by decide) hF | with_reducible apply keeps_failCmd
    | with_reducible apply keeps_count

theorem keeps_importRecord {F : Nat} {s₀ s : State} (hF : Sub 0x280100a70 F) (h : Keeps F s₀ s) (a1 : Image) (a2 :
    List Byte) (a3 : List Byte) :
    Keeps F s₀ (State.importRecord s a1 a2 a3).2 := by
  unfold State.importRecord; try dsimp only
  repeat' first
    | with_reducible assumption | exact .trans (by decide) hF | intro _
    | refine keeps_pair_fireCodec ?_ (by with_reducible assumption) ?_ | with_reducible apply keeps_asInjected
    | with_reducible apply keeps_containerBlockFailed | split
theorem keeps_pair_importRecord {F : Nat} {s₀ s s' : State} (hF : Sub 0x280100a70 F) {r} {a1 : Image} {a2 : List
    Byte} {a3 : List Byte}
    (e : State.importRecord s a1 a2 a3 = (r, s')) (h : Keeps F s₀ s) : Keeps F s₀ s' := by
  have k := keeps_importRecord hF h a1 a2 a3; rw [e] at k; exact k

theorem keeps_checkImport {F : Nat} {s₀ s : State} (hF : Sub 0x280101a70 F) (h : Keeps F s₀ s) (a1 : ImportParams)
    (a2 : List Byte) (a3 : List Byte) (a4 : Nat) :
    Keeps F s₀ (State.checkImport s a1 a2 a3 a4) := by
  unfold State.checkImport; try dsimp only
  repeat' first
    | with_reducible assumption | exact .trans (by decide) hF | with_reducible apply keeps_rejectImport
    | with_reducible apply keeps_failCmd | refine keeps_pair_importRecord ?_ (by with_reducible assumption) ?_
    | with_reducible apply keeps_modStr | split

theorem keeps_effStreamImport {F : Nat} {s₀ s : State} (hF : Sub 0x280101a70 F) (h : Keeps F s₀ s) (a0 :
    ImportParams) (a1 : HostData) (a2 : Inflight) :
    Keeps F s₀ (effStreamImport a0 a1 a2 s) := by
  unfold effStreamImport; try dsimp only
  repeat' first
    | with_reducible assumption | exact .trans (by decide) hF | with_reducible apply keeps_failCmd
    | with_reducible apply keeps_checkImport | split

theorem keeps_execStreamImport (s : State) (a0 : Nat) (a1 : Hdr) (a2 : ImportParams) (a3 : HostData) :
    Next 0x280101bfc s (execStreamImport a0 a1 a2 a3 s) := by
  refine Next.of (keeps_hostCommand (by decide) _ _ _ _ _ fun _ x0 x1 s₁ h => ?_)
  repeat' first
    | with_reducible assumption | exact .trans (by decide) (Sub.refl _)
    | with_reducible apply keeps_effStreamImport

theorem keeps_openImport {F : Nat} {s₀ s : State} (hF : Sub 0x1a1759a70 F) (h : Keeps F s₀ s) (a1 : Nat) (a2 :
    ImportReq) (a3 : Nat) (a4 : WriteRetries) :
    Keeps F s₀ (State.openImport s a1 a2 a3 a4) := by
  unfold State.openImport; try dsimp only
  repeat' first
    | with_reducible assumption | exact .trans (by decide) hF
    | refine keeps_opt_openStream ?_ (by with_reducible assumption) ?_ | with_reducible apply keeps_finish
    | with_reducible apply keeps_count | with_reducible apply keeps_failCmd | split

theorem keeps_importDone {F : Nat} {s₀ s : State} (hF : Sub 0x9a1759a70 F) (h : Keeps F s₀ s) (a1 : Nat) (a2 :
    WriteRetries) :
    Keeps F s₀ (State.importDone s a1 a2) := by
  unfold State.importDone; try dsimp only
  repeat' first
    | with_reducible assumption | exact .trans (by decide) hF | with_reducible apply keeps_setStr
    | with_reducible apply keeps_failCmd | with_reducible apply keeps_openImport
    | with_reducible apply keeps_wakeKey | split

theorem keeps_execImportDone (s : State) (a0 : Nat) (a1 : Nat) (a2 : WriteRetries) :
    Next 0x9a1759a70 s (execImportDone a0 a1 s a2) := by
  refine Next.of ⟨a0, ?_⟩; try dsimp only
  repeat' first
    | exact .trans (by decide) (Sub.refl _) | with_reducible exact .rfl | with_reducible apply keeps_importDone

theorem keeps_effStreamMove {F : Nat} {s₀ s : State} (hF : Sub 0x80101a70 F) (h : Keeps F s₀ s) (a0 : Nat) (a1 :
    Nat) (a2 : Inflight) :
    Keeps F s₀ (effStreamMove a0 a1 a2 s) := by
  unfold effStreamMove; try dsimp only
  repeat' first
    | with_reducible assumption | exact .trans (by decide) hF | with_reducible apply keeps_failCmd
    | with_reducible apply keeps_setStr | split

theorem keeps_execStreamMove (s : State) (a0 : Nat) (a1 : Hdr) (a2 : Nat) (a3 : Nat) :
    Next 0x280101bfc s (execStreamMove a0 a1 a2 a3 s) := by
  refine Next.of (keeps_hostCommand (by decide) _ _ _ _ _ fun _ x0 x1 s₁ h => ?_)
  repeat' first
    | with_reducible assumption | exact .trans (by decide) (Sub.refl _)
    | with_reducible apply keeps_effStreamMove

theorem keeps_moveBegin {F : Nat} {s₀ s : State} (hF : Sub 0x1a49c1a70 F) (h : Keeps F s₀ s) (a1 : Nat) :
    Keeps F s₀ (State.moveBegin s a1) := by
  unfold State.moveBegin; try dsimp only
  repeat' first
    | with_reducible assumption | exact .trans (by decide) hF | with_reducible apply keeps_forgetSwaps
    | with_reducible apply keeps_setStr | with_reducible apply keeps_evict
    | with_reducible apply keeps_releaseSlots | with_reducible apply keeps_judgeAll
    | with_reducible apply keeps_progressRetirement | with_reducible apply keeps_requestSwaps | split

theorem keeps_execMoveBegin (s : State) (a0 : Nat) (a1 : Nat) :
    Next 0x1a49c1a70 s (execMoveBegin a0 a1 s) := by
  refine Next.of ⟨a0, ?_⟩; try dsimp only
  repeat' first
    | exact .trans (by decide) (Sub.refl _) | with_reducible exact .rfl | with_reducible apply keeps_moveBegin

theorem keeps_moveEnd {F : Nat} {s₀ s : State} (hF : Sub 0x1a0741a70 F) (h : Keeps F s₀ s) (a1 : Nat) :
    Keeps F s₀ (State.moveEnd s a1) := by
  unfold State.moveEnd; try dsimp only
  repeat' first
    | with_reducible assumption | exact .trans (by decide) hF | with_reducible apply keeps_putRing
    | with_reducible apply keeps_setStr | with_reducible apply keeps_pinSlot
    | with_reducible apply keeps_requestSwaps | with_reducible apply keeps_deliverHeld
    | with_reducible apply keeps_wakeStream | with_reducible apply keeps_judgeAll
    | with_reducible apply keeps_finish | split

theorem keeps_execMoveEnd (s : State) (a0 : Nat) (a1 : Nat) :
    Next 0x1a0741a70 s (execMoveEnd a0 a1 s) := by
  refine Next.of ⟨a0, ?_⟩; try dsimp only
  repeat' first
    | exact .trans (by decide) (Sub.refl _) | with_reducible exact .rfl | with_reducible apply keeps_moveEnd

theorem keeps_effSpillAssign {F : Nat} {s₀ s : State} (hF : Sub 0x80120a70 F) (h : Keeps F s₀ s) (a0 : Nat) (a1 :
    Nat) (a2 : Inflight) :
    Keeps F s₀ (effSpillAssign a0 a1 a2 s) := by
  unfold effSpillAssign; try dsimp only
  repeat' first
    | with_reducible assumption | exact .trans (by decide) hF
    | (refine .of fun p => ?_; cases p <;> first | exact .inr (hF.bit rfl) | (dsimp only [Part.same]; first | exact .inl rfl | exact .inl ⟨rfl, rfl, rfl⟩))
    | intro _ | with_reducible exact .rfl | with_reducible apply keeps_failCmd
    | with_reducible apply keeps_finish | split | exact List.prefix_refl _ | with_reducible apply Keeps.upd

theorem keeps_execSpillAssign (s : State) (a0 : Nat) (a1 : Hdr) (a2 : Nat) (a3 : Nat) :
    Next 0x280120bfc s (execSpillAssign a0 a1 a2 a3 s) := by
  refine Next.of (keeps_hostCommand (by decide) _ _ _ _ _ fun _ x0 x1 s₁ h => ?_)
  repeat' first
    | with_reducible assumption | exact .trans (by decide) (Sub.refl _)
    | with_reducible apply keeps_effSpillAssign

theorem keeps_setReset {F : Nat} {s₀ s : State} (hF : Sub 0x4840000 F) (h : Keeps F s₀ s) (a1 : Nat) (a2 : Nat) (a3
    : Bool) (a4 : Bool) :
    Keeps F s₀ (State.setReset s a1 a2 a3 a4) := by
  unfold State.setReset; try dsimp only
  repeat' first
    | with_reducible assumption | exact .trans (by decide) hF
    | (refine .of fun p => ?_; cases p <;> first | exact .inr (hF.bit rfl) | (dsimp only [Part.same]; first | exact .inl rfl | exact .inl ⟨rfl, rfl, rfl⟩))
    | intro _ | with_reducible exact .rfl | with_reducible apply keeps_modGrp
    | with_reducible apply keeps_modPrt | split | exact List.prefix_refl _ | with_reducible apply Keeps.upd

theorem keeps_actCmd {F : Nat} {s₀ s : State} (hF : Sub 0x40 F) (h : Keeps F s₀ s) (a1 : Nat) :
    Keeps F s₀ (State.actCmd s a1) := by
  unfold State.actCmd; try dsimp only
  repeat' first
    | with_reducible assumption
    | (refine .of fun p => ?_; cases p <;> first | exact .inr (hF.bit rfl) | (dsimp only [Part.same]; first | exact .inl rfl | exact .inl ⟨rfl, rfl, rfl⟩))
    | intro _ | with_reducible exact .rfl | exact List.prefix_refl _ | with_reducible apply Keeps.upd

theorem keeps_abortRuns {F : Nat} {s₀ s : State} (hF : Sub 0x1a0141a70 F) (h : Keeps F s₀ s) (a1 : Nat) :
    Keeps F s₀ (State.abortRuns s a1) := by
  unfold State.abortRuns; try dsimp only
  repeat' first
    | with_reducible assumption | exact .trans (by decide) hF | with_reducible apply keeps_modGrp
    | with_reducible apply keeps_failChunks | with_reducible apply keeps_failRun | split

theorem keeps_stopSlot {F : Nat} {s₀ s : State} (hF : Sub 0xc0001 F) (h : Keeps F s₀ s) (a1 : Nat) :
    Keeps F s₀ (State.stopSlot s a1) := by
  unfold State.stopSlot; try dsimp only
  repeat' first
    | with_reducible assumption | exact .trans (by decide) hF | with_reducible apply keeps_modGrp
    | with_reducible apply keeps_afterTest | split

theorem keeps_abandonSwaps {F : Nat} {s₀ s : State} (hF : Sub 0x141000 F) (h : Keeps F s₀ s) (a1 : Nat) :
    Keeps F s₀ (State.abandonSwaps s a1) := by
  unfold State.abandonSwaps; try dsimp only
  repeat' first
    | with_reducible assumption | exact .trans (by decide) hF | intro _ | with_reducible exact .rfl
    | with_reducible apply keeps_dropHold | with_reducible apply keeps_dropSwap
    | with_reducible apply keeps_modStr | with_reducible apply keeps_setSlot | split
    | with_reducible apply Keeps.foldl

theorem keeps_abortTransfers {F : Nat} {s₀ s : State} (hF : Sub 0x9a0741a70 F) (h : Keeps F s₀ s)  :
    Keeps F s₀ (State.abortTransfers s) := by
  unfold State.abortTransfers; try dsimp only
  repeat' first
    | with_reducible assumption | exact .trans (by decide) hF | intro _ | with_reducible exact .rfl
    | with_reducible apply keeps_afterExport | with_reducible apply keeps_failExport
    | with_reducible apply keeps_wakeKey | with_reducible apply keeps_finish
    | with_reducible apply keeps_modStr | split | with_reducible apply Keeps.foldl

theorem keeps_failSwapHolds {F : Nat} {s₀ s : State} (hF : Sub 0x1a0141a70 F) (h : Keeps F s₀ s)  :
    Keeps F s₀ (State.failSwapHolds s) := by
  unfold State.failSwapHolds; try dsimp only
  repeat' first
    | with_reducible assumption | exact .trans (by decide) hF | intro _ | with_reducible exact .rfl
    | with_reducible apply keeps_failRun | with_reducible apply keeps_count | split
    | with_reducible apply Keeps.foldl

theorem keeps_startDisable {F : Nat} {s₀ s : State} (hF : Sub 0x9a4fc1a71 F) (h : Keeps F s₀ s) (a1 : Nat) (a2 :
    Nat) (a3 : Bool) :
    Keeps F s₀ (State.startDisable s a1 a2 a3) := by
  unfold State.startDisable; try dsimp only
  repeat' first
    | with_reducible assumption | exact .trans (by decide) hF | intro _ | with_reducible exact .rfl
    | with_reducible apply keeps_setUnit | with_reducible apply keeps_withdrawPlan
    | with_reducible apply keeps_abortRuns | with_reducible apply keeps_progressRetirement
    | with_reducible apply keeps_stopSlot | with_reducible apply keeps_closeForPort
    | with_reducible apply keeps_failSwapHolds | with_reducible apply keeps_abortTransfers
    | with_reducible apply keeps_requestSwaps | with_reducible apply keeps_abandonSwaps | split
    | with_reducible apply Keeps.foldl

theorem keeps_takeUp {F : Nat} {s₀ s : State} (hF : Sub 0x800000 F) (h : Keeps F s₀ s) (a1 : Nat) (a2 : Nat) :
    Keeps F s₀ (State.takeUp s a1 a2) := by
  unfold State.takeUp; try dsimp only
  repeat' first
    | with_reducible assumption | with_reducible apply keeps_modPrt | split

theorem keeps_resumeUnit {F : Nat} {s₀ s : State} (hF : Sub 0x1a49c1a70 F) (h : Keeps F s₀ s) (a1 : Nat) (a2 : Nat) :
    Keeps F s₀ (State.resumeUnit s a1 a2) := by
  unfold State.resumeUnit; try dsimp only
  repeat' first
    | with_reducible assumption | exact .trans (by decide) hF | intro _ | with_reducible exact .rfl
    | with_reducible apply keeps_progressRetirement | with_reducible apply keeps_requestSwaps
    | with_reducible apply keeps_judgeAll | split | with_reducible apply Keeps.foldl

theorem keeps_beginUnitReset {F : Nat} {s₀ s : State} (hF : Sub 0x1a49c1a70 F) (h : Keeps F s₀ s) (a1 : Nat) (a2 :
    Nat) :
    Keeps F s₀ (State.beginUnitReset s a1 a2) := by
  unfold State.beginUnitReset; try dsimp only
  repeat' first
    | with_reducible assumption | exact .trans (by decide) hF | with_reducible apply keeps_setUnit
    | with_reducible apply keeps_beginGroupReset | with_reducible apply keeps_count
    | with_reducible apply keeps_resetPort | with_reducible apply keeps_failSwapHolds | split

theorem keeps_deliverAll {F : Nat} {s₀ s : State} (hF : Sub 0xa0141830 F) (h : Keeps F s₀ s) (a1 : Nat) :
    Keeps F s₀ (State.deliverAll s a1) := by
  unfold State.deliverAll; try dsimp only
  repeat' first
    | with_reducible assumption | intro _ | with_reducible exact .rfl | with_reducible apply keeps_deliverHeld
    | split | with_reducible apply Keeps.foldl

theorem keeps_leaveReset {F : Nat} {s₀ s : State} (hF : Sub 0x1a4dc1a70 F) (h : Keeps F s₀ s) (a1 : Nat) (a2 : List
    (Nat × Nat)) :
    Keeps F s₀ (State.leaveReset s a1 a2) := by
  unfold State.leaveReset; try dsimp only
  repeat' first
    | with_reducible assumption | exact .trans (by decide) hF
    | (refine .of fun p => ?_; cases p <;> first | exact .inr (hF.bit rfl) | (dsimp only [Part.same]; first | exact .inl rfl | exact .inl ⟨rfl, rfl, rfl⟩))
    | intro _ | with_reducible exact .rfl | with_reducible apply keeps_modGrp
    | with_reducible apply keeps_endGroupReset | with_reducible apply keeps_setUnit
    | with_reducible apply keeps_latentFaults | with_reducible apply keeps_holdGroup
    | with_reducible apply keeps_judgeAll | with_reducible apply keeps_requestSwaps
    | with_reducible apply keeps_deliverAll | split | dsimp only | exact List.prefix_refl _
    | with_reducible apply Keeps.upd

theorem keeps_leaveUnitReset {F : Nat} {s₀ s : State} (hF : Sub 0x1a5dc1a70 F) (h : Keeps F s₀ s) (a1 : Nat) (a2 :
    Nat) (a3 : List (Nat × Nat)) :
    Keeps F s₀ (State.leaveUnitReset s a1 a2 a3) := by
  unfold State.leaveUnitReset; try dsimp only
  repeat' first
    | with_reducible assumption | exact .trans (by decide) hF | with_reducible apply keeps_resumePort
    | with_reducible apply keeps_resumeUnit | with_reducible apply keeps_latentFaults
    | with_reducible apply keeps_setUnit | split

theorem keeps_failStart {F : Nat} {s₀ s : State} (hF : Sub 0x2 F) (h : Keeps F s₀ s)  :
    Keeps F s₀ (State.failStart s) := by
  unfold State.failStart; try dsimp only
  repeat' first
    | with_reducible assumption
    | (refine .of fun p => ?_; cases p <;> first | exact .inr (hF.bit rfl) | (dsimp only [Part.same]; first | exact .inl rfl | exact .inl ⟨rfl, rfl, rfl⟩))
    | intro _ | with_reducible exact .rfl | split | exact List.prefix_refl _ | with_reducible apply Keeps.upd

theorem keeps_effDisable {F : Nat} {s₀ s : State} (hF : Sub 0x9a4fc1a71 F) (h : Keeps F s₀ s) (a0 : Nat) (a1 : Nat)
    (a2 : Bool) (a3 : Inflight) :
    Keeps F s₀ (effDisable a0 a1 a2 a3 s) := by
  unfold effDisable; try dsimp only
  repeat' first
    | with_reducible assumption | exact .trans (by decide) hF | with_reducible apply keeps_failCmd
    | with_reducible apply keeps_finish | with_reducible apply keeps_waitCmd
    | with_reducible apply keeps_actCmd | with_reducible apply keeps_startDisable | split

theorem keeps_execDisable (s : State) (a0 : Nat) (a1 : Hdr) (a2 : Nat) (a3 : Nat) (a4 : Bool) :
    Next 0xba4fc1bfd s (execDisable a0 a1 a2 a3 a4 s) := by
  refine Next.of (keeps_hostCommand (by decide) _ _ _ _ _ fun _ x0 x1 s₁ h => ?_)
  repeat' first
    | with_reducible assumption | exact .trans (by decide) (Sub.refl _) | with_reducible apply keeps_effDisable

theorem keeps_effUnitReset {F : Nat} {s₀ s : State} (hF : Sub 0x9a4fc1a71 F) (h : Keeps F s₀ s) (a0 : Nat) (a1 :
    Nat) (a2 : Bool) (a3 : Inflight) :
    Keeps F s₀ (effUnitReset a0 a1 a2 a3 s) := by
  unfold effUnitReset; try dsimp only
  repeat' first
    | with_reducible assumption | exact .trans (by decide) hF | with_reducible apply keeps_failCmd
    | with_reducible apply keeps_waitCmd | with_reducible apply keeps_finishAll
    | with_reducible apply keeps_actCmd | with_reducible apply keeps_beginUnitReset
    | with_reducible apply keeps_setReset | with_reducible apply keeps_startDisable | split

theorem keeps_execUnitReset (s : State) (a0 : Nat) (a1 : Hdr) (a2 : Nat) (a3 : Nat) (a4 : Bool) :
    Next 0xba4fc1bfd s (execUnitReset a0 a1 a2 a3 a4 s) := by
  refine Next.of (keeps_hostCommand (by decide) _ _ _ _ _ fun _ x0 x1 s₁ h => ?_)
  repeat' first
    | with_reducible assumption | exact .trans (by decide) (Sub.refl _)
    | with_reducible apply keeps_effUnitReset

theorem keeps_effEnable {F : Nat} {s₀ s : State} (hF : Sub 0x1a49c1a70 F) (h : Keeps F s₀ s) (a0 : Nat) (a1 : Nat)
    (a2 : Inflight) :
    Keeps F s₀ (effEnable a0 a1 a2 s) := by
  unfold effEnable; try dsimp only
  repeat' first
    | with_reducible assumption | exact .trans (by decide) hF | with_reducible apply keeps_failCmd
    | with_reducible apply keeps_finish | with_reducible apply keeps_waitCmd
    | with_reducible apply keeps_beginUnitReset | with_reducible apply keeps_setReset
    | with_reducible apply keeps_resumeUnit | with_reducible apply keeps_takeUp
    | with_reducible apply keeps_setUnit | with_reducible apply keeps_finishAll | split

theorem keeps_execEnable (s : State) (a0 : Nat) (a1 : Hdr) (a2 : Nat) (a3 : Nat) :
    Next 0x3a49c1bfc s (execEnable a0 a1 a2 a3 s) := by
  refine Next.of (keeps_hostCommand (by decide) _ _ _ _ _ fun _ x0 x1 s₁ h => ?_)
  repeat' first
    | with_reducible assumption | exact .trans (by decide) (Sub.refl _) | with_reducible apply keeps_effEnable

theorem keeps_effUnitQuery {F : Nat} {s₀ s : State} (hF : Sub 0x80100a70 F) (h : Keeps F s₀ s) (a0 : Nat) (a1 :
    Nat) (a2 : Inflight) :
    Keeps F s₀ (effUnitQuery a0 a1 a2 s) := by
  unfold effUnitQuery; try dsimp only
  repeat' first
    | with_reducible assumption | with_reducible apply keeps_finish

theorem keeps_execUnitQuery (s : State) (a0 : Nat) (a1 : Hdr) (a2 : Nat) (a3 : Nat) :
    Next 0x280100bfc s (execUnitQuery a0 a1 a2 a3 s) := by
  refine Next.of (keeps_hostCommand (by decide) _ _ _ _ _ fun _ x0 x1 s₁ h => ?_)
  repeat' first
    | with_reducible assumption | exact .trans (by decide) (Sub.refl _)
    | with_reducible apply keeps_effUnitQuery

theorem keeps_unitDisabled {F : Nat} {s₀ s : State} (hF : Sub 0x1a49c1a70 F) (h : Keeps F s₀ s) (a1 : Nat) (a2 :
    Nat) :
    Keeps F s₀ (State.unitDisabled s a1 a2) := by
  unfold State.unitDisabled; try dsimp only
  repeat' first
    | with_reducible assumption | exact .trans (by decide) hF | with_reducible apply keeps_finishAll
    | with_reducible apply keeps_setUnit | with_reducible apply keeps_beginUnitReset
    | with_reducible apply keeps_setReset | split

theorem keeps_execUnitDisabled (s : State) (a0 : Nat) (a1 : Nat) (a2 : Nat) :
    Next 0x1a49c1a70 s (execUnitDisabled a0 a1 a2 s) := by
  refine Next.of ⟨a0, ?_⟩; try dsimp only
  repeat' first
    | exact .trans (by decide) (Sub.refl _) | with_reducible exact .rfl
    | with_reducible apply keeps_unitDisabled

theorem keeps_wakeUnit {F : Nat} {s₀ s : State} (hF : Sub 0x9a4fc1a71 F) (h : Keeps F s₀ s) (a1 : Nat) (a2 : Nat) :
    Keeps F s₀ (State.wakeUnit s a1 a2) := by
  unfold State.wakeUnit; try dsimp only
  repeat' first
    | with_reducible assumption | exact .trans (by decide) hF | intro _ | with_reducible exact .rfl
    | with_reducible apply keeps_effDisable | with_reducible apply keeps_takesEffect
    | with_reducible apply keeps_effEnable | with_reducible apply keeps_effUnitReset | split
    | with_reducible apply Keeps.foldl

theorem keeps_countDiscarded {F : Nat} {s₀ s : State} (hF : Sub 0x9a5fc1a73 F) (h : Keeps F s₀ s) (a1 : Nat) (a2 :
    Nat) (a3 : Nat) :
    Keeps F s₀ (State.countDiscarded s a1 a2 a3) := by
  unfold State.countDiscarded; try dsimp only
  repeat' first
    | with_reducible assumption | exact .trans (by decide) hF | with_reducible apply keeps_count | split

theorem keeps_unitResetEnd {F : Nat} {s₀ s : State} (hF : Sub 0x9a5fc1a73 F) (h : Keeps F s₀ s) (a1 : Nat) (a2 :
    Nat) (a3 : List (Nat × Nat)) (a4 : Nat) :
    Keeps F s₀ (State.unitResetEnd s a1 a2 a3 a4) := by
  unfold State.unitResetEnd; try dsimp only
  repeat' first
    | with_reducible assumption | exact .trans (by decide) hF | with_reducible apply keeps_latentFaults
    | with_reducible apply keeps_countDiscarded | with_reducible apply keeps_setUnit | with_reducible apply keeps_leaveReset
    | with_reducible apply keeps_leaveUnitReset | with_reducible apply keeps_wakeUnit
    | with_reducible apply keeps_finishAll | with_reducible apply keeps_failStart | split

theorem keeps_execUnitResetEnd (s : State) (a0 : Nat) (a1 : Nat) (a2 : Nat) (a3 : List (Nat × Nat))
    (a4 : Nat) : Next 0x9a5fc1a73 s (execUnitResetEnd a0 a1 a2 a3 s a4) := by
  refine Next.of ⟨a0, ?_⟩; try dsimp only
  repeat' first
    | exact .trans (by decide) (Sub.refl _) | with_reducible exact .rfl
    | with_reducible apply keeps_unitResetEnd

theorem keeps_effSelfTest {F : Nat} {s₀ s : State} (hF : Sub 0xa0140a70 F) (h : Keeps F s₀ s) (a0 : Nat) (a1 : Nat)
    (a2 : Inflight) :
    Keeps F s₀ (effSelfTest a0 a1 a2 s) := by
  unfold effSelfTest; try dsimp only
  repeat' first
    | with_reducible assumption | exact .trans (by decide) hF | with_reducible apply keeps_failCmd
    | with_reducible apply keeps_queueTests | split

theorem keeps_execSelfTest (s : State) (a0 : Nat) (a1 : Hdr) (a2 : Nat) (a3 : Nat) :
    Next 0x2a0140bfc s (execSelfTest a0 a1 a2 a3 s) := by
  refine Next.of (keeps_hostCommand (by decide) _ _ _ _ _ fun _ x0 x1 s₁ h => ?_)
  repeat' first
    | with_reducible assumption | exact .trans (by decide) (Sub.refl _)
    | with_reducible apply keeps_effSelfTest

theorem keeps_afterRecord {F : Nat} {s₀ s : State} (hF : Sub 0x1a49c1a70 F) (h : Keeps F s₀ s) (a1 : RepairNext) :
    Keeps F s₀ (State.afterRecord s a1) := by
  unfold State.afterRecord; try dsimp only
  repeat' first
    | with_reducible assumption | exact .trans (by decide) hF | with_reducible apply keeps_modGrp
    | with_reducible apply keeps_progressRetirement | split

theorem keeps_logRecord {F : Nat} {s₀ s : State} (hF : Sub 0x80000000 F) (h : Keeps F s₀ s) (a1 : Record) :
    Keeps F s₀ (State.logRecord s a1) := by
  unfold State.logRecord; try dsimp only
  repeat' first
    | with_reducible assumption | with_reducible apply keeps_logEvent

theorem keeps_recordWritten {F : Nat} {s₀ s : State} (hF : Sub 0x1a49c1a70 F) (h : Keeps F s₀ s)  :
    Keeps F s₀ (State.recordWritten s) := by
  unfold State.recordWritten; try dsimp only
  repeat' first
    | with_reducible assumption | exact .trans (by decide) hF
    | (refine .of fun p => ?_; cases p <;> first | exact .inr (hF.bit rfl) | (dsimp only [Part.same]; first | exact .inl rfl | exact .inl ⟨rfl, rfl, rfl⟩))
    | intro _ | with_reducible exact .rfl | with_reducible apply keeps_afterRecord
    | with_reducible apply keeps_raiseInts | with_reducible apply keeps_logRecord | split | dsimp only
    | exact List.prefix_append _ _ | with_reducible apply Keeps.upd

theorem keeps_execRepairRecordWritten (s : State) (a0 : Nat) :
    Next 0x1a49c1a70 s (execRepairRecordWritten a0 s) := by
  refine Next.of ⟨a0, ?_⟩; try dsimp only
  repeat' first
    | exact .trans (by decide) (Sub.refl _) | with_reducible exact .rfl
    | with_reducible apply keeps_recordWritten

theorem bootKeeps_beginWrite (b : Boot) (c : Nat) (u : Update) : BootKeeps b (b.beginWrite c u) := by
  cases u <;> simp only [Boot.beginWrite, Boot.setFw, Boot.setVigil, Boot.unmark] <;>
    (repeat' split) <;> first | exact .same rfl rfl rfl | exact .rfl

theorem bootKeeps_endWrite {b b₀ : Boot} (h : BootKeeps b₀ b) (j : FwJob) : BootKeeps b₀ (b.endWrite j) := by
  refine h.trans ?_
  unfold Boot.endWrite Boot.setFw Boot.setVigil
  (repeat' split) <;> first | exact .same rfl rfl rfl | exact .rfl

theorem keeps_effKeyLoad {F : Nat} {s₀ s : State} (hF : Sub 0x880100a70 F) (h : Keeps F s₀ s) (a0 : Nat) (a1 : Nat)
    (a2 : Nat) (a3 : HostData) (a4 : Inflight) :
    Keeps F s₀ (effKeyLoad a0 a1 a2 a3 a4 s) := by
  unfold effKeyLoad; try dsimp only
  repeat' first
    | with_reducible assumption | exact .trans (by decide) hF
    | (refine .of fun p => ?_; cases p <;> first | exact .inr (hF.bit rfl) | (dsimp only [Part.same]; first | exact .inl rfl | exact .inl ⟨rfl, rfl, rfl⟩))
    | intro _ | with_reducible exact .rfl | with_reducible apply keeps_failCmd
    | with_reducible apply keeps_finish | split | exact List.prefix_refl _ | with_reducible apply Keeps.upd

theorem keeps_execKeyLoad (s : State) (a0 : Nat) (a1 : Hdr) (a2 : Nat) (a3 : Nat) (a4 : Nat) (a5 : Nat) (a6 :
    HostData) :
    Next 0xa80100bfc s (execKeyLoad a0 a1 a2 a3 a4 a5 a6 s) := by
  refine Next.of (keeps_hostCommand (by decide) _ _ _ _ _ fun _ x0 x1 s₁ h => ?_)
  repeat' first
    | with_reducible assumption | exact .trans (by decide) (Sub.refl _) | with_reducible apply keeps_effKeyLoad

theorem keeps_effKeyClear {F : Nat} {s₀ s : State} (hF : Sub 0x880100a70 F) (h : Keeps F s₀ s) (a0 : Nat) (a1 :
    Inflight) :
    Keeps F s₀ (effKeyClear a0 a1 s) := by
  unfold effKeyClear; try dsimp only
  repeat' first
    | with_reducible assumption | exact .trans (by decide) hF | with_reducible apply keeps_finish
    | with_reducible apply keeps_failCmd | with_reducible apply keeps_waitCmd
    | with_reducible apply keeps_dropKey | split

theorem keeps_execKeyClear (s : State) (a0 : Nat) (a1 : Hdr) (a2 : Nat) :
    Next 0xa80100bfc s (execKeyClear a0 a1 a2 s) := by
  refine Next.of (keeps_hostCommand (by decide) _ _ _ _ _ fun _ x0 x1 s₁ h => ?_)
  repeat' first
    | with_reducible assumption | exact .trans (by decide) (Sub.refl _)
    | with_reducible apply keeps_effKeyClear

theorem keeps_effKeyEnrol {F : Nat} {s₀ s : State} (hF : Sub 0x480100a70 F) (h : Keeps F s₀ s) (a0 : Nat)
    (a1 : HostData) (a2 : Inflight) : Keeps F s₀ (effKeyEnrol a0 a1 a2 s) := by
  unfold effKeyEnrol
  split
  · exact keeps_failCmd (.trans (by decide) hF) h _ _
  · rename_i he
    repeat' first
      | with_reducible assumption | exact .trans (by decide) hF
      | (refine .of fun p => ?_; cases p <;> first | exact .inr (hF.bit rfl) | (dsimp only [Part.same]; first | exact .inl rfl | exact .inl ⟨rfl, rfl, rfl⟩))
      | split | with_reducible apply keeps_failCmd | with_reducible apply keeps_finish | exact id
      | exact List.prefix_refl _ | exact ⟨le_refl _, fun e => absurd e he⟩ | with_reducible apply Keeps.upd

theorem keeps_execKeyEnrol (s : State) (a0 : Nat) (a1 : Hdr) (a2 : Nat) (a3 : Nat) (a4 : HostData) :
    Next 0x680100bfc s (execKeyEnrol a0 a1 a2 a3 a4 s) := by
  refine Next.of (keeps_hostCommand (by decide) _ _ _ _ _ fun _ x0 x1 s₁ h => ?_)
  repeat' first
    | with_reducible assumption | exact .trans (by decide) (Sub.refl _)
    | with_reducible apply keeps_effKeyEnrol

theorem keeps_effAttest {F : Nat} {s₀ s : State} (hF : Sub 0x80100a71 F) (h : Keeps F s₀ s) (a0 : BitVec 128) (a1 :
    Nat) (a2 : Nat) (a3 : Inflight) :
    Keeps F s₀ (effAttest a0 a1 a2 a3 s) := by
  unfold effAttest; try dsimp only
  repeat' first
    | with_reducible assumption | exact .trans (by decide) hF | with_reducible apply keeps_failCmd
    | with_reducible apply keeps_drawRandom | with_reducible apply keeps_finish
    | with_reducible apply keeps_hostWrite | split

theorem keeps_execAttest (s : State) (a0 : Nat) (a1 : Hdr) (a2 : BitVec 128) (a3 : Nat) (a4 : Nat) :
    Next 0x280100bfd s (execAttest a0 a1 a2 a3 a4 s) := by
  refine Next.of (keeps_hostCommand (by decide) _ _ _ _ _ fun _ x0 x1 s₁ h => ?_)
  repeat' first
    | with_reducible assumption | exact .trans (by decide) (Sub.refl _) | with_reducible apply keeps_effAttest

theorem keeps_effFwWrite {F : Nat} {s₀ s : State} (hF : Sub 0x480100a70 F) (h : Keeps F s₀ s) (a0 : Nat)
    (a1 : HostData) (a2 : Inflight) : Keeps F s₀ (effFwWrite a0 a1 a2 s) := by
  unfold effFwWrite
  repeat' first
    | with_reducible assumption | exact .trans (by decide) hF
    | (refine .of fun p => ?_; cases p <;> first | exact .inr (hF.bit rfl) | (dsimp only [Part.same]; first | exact .inl rfl | exact .inl ⟨rfl, rfl, rfl⟩))
    | split | with_reducible apply keeps_failCmd | exact id | exact List.prefix_refl _
    | exact bootKeeps_beginWrite _ _ _ | with_reducible apply Keeps.upd

theorem keeps_execFwWrite (s : State) (a0 : Nat) (a1 : Hdr) (a2 : Nat) (a3 : Nat) (a4 : HostData) :
    Next 0x680100bfc s (execFwWrite a0 a1 a2 a3 a4 s) := by
  refine Next.of (keeps_hostCommand (by decide) _ _ _ _ _ fun _ x0 x1 s₁ h => ?_)
  repeat' first
    | with_reducible assumption | exact .trans (by decide) (Sub.refl _) | with_reducible apply keeps_effFwWrite

theorem keeps_fwWriteDone {F : Nat} {s₀ s : State} (hF : Sub 0x480100a70 F) (h : Keeps F s₀ s) (a1 : Bool) :
    Keeps F s₀ (State.fwWriteDone s a1) := by
  unfold State.fwWriteDone; try dsimp only
  repeat' first
    | with_reducible assumption | exact .trans (by decide) hF
    | (refine .of fun p => ?_; cases p <;> first | exact .inr (hF.bit rfl) | (dsimp only [Part.same]; first | exact .inl rfl | exact .inl ⟨rfl, rfl, rfl⟩))
    | with_reducible apply bootKeeps_endWrite | exact .same rfl rfl rfl | split
    | with_reducible apply keeps_finish | exact id | exact List.prefix_refl _ | with_reducible apply Keeps.upd

theorem keeps_execFwWriteDone (s : State) (a0 : Nat) (a1 : Bool) :
    Next 0x480100a70 s (execFwWriteDone a0 a1 s) := by
  refine Next.of ⟨a0, ?_⟩; try dsimp only
  repeat' first
    | exact .trans (by decide) (Sub.refl _) | with_reducible exact .rfl
    | with_reducible apply keeps_fwWriteDone

theorem keeps_effFwActivate {F : Nat} {s₀ s : State} (hF : Sub 0x480100a70 F) (h : Keeps F s₀ s) (a0 : Nat) (a1 :
    Inflight) :
    Keeps F s₀ (effFwActivate a0 a1 s) := by
  unfold effFwActivate; try dsimp only
  repeat' first
    | with_reducible assumption | exact .trans (by decide) hF
    | (refine .of fun p => ?_; cases p <;> first | exact .inr (hF.bit rfl) | (dsimp only [Part.same]; first | exact .inl rfl | exact .inl ⟨rfl, rfl, rfl⟩))
    | intro _ | with_reducible apply keeps_finish | with_reducible apply keeps_failCmd | split
    | exact List.prefix_refl _ | exact .same rfl rfl rfl | with_reducible apply Keeps.upd

theorem keeps_execFwActivate (s : State) (a0 : Nat) (a1 : Hdr) (a2 : Nat) :
    Next 0x680100bfc s (execFwActivate a0 a1 a2 s) := by
  refine Next.of (keeps_hostCommand (by decide) _ _ _ _ _ fun _ x0 x1 s₁ h => ?_)
  repeat' first
    | with_reducible assumption | exact .trans (by decide) (Sub.refl _)
    | with_reducible apply keeps_effFwActivate

theorem keeps_effFwQuery {F : Nat} {s₀ s : State} (hF : Sub 0x80100a70 F) (h : Keeps F s₀ s) (a0 : Inflight) :
    Keeps F s₀ (effFwQuery a0 s) := by
  unfold effFwQuery; try dsimp only
  repeat' first
    | with_reducible assumption | with_reducible apply keeps_finish

theorem keeps_execFwQuery (s : State) (a0 : Nat) (a1 : Hdr) :
    Next 0x280100bfc s (execFwQuery a0 a1 s) := by
  refine Next.of (keeps_hostCommand (by decide) _ _ _ _ _ fun _ x0 x1 s₁ h => ?_)
  repeat' first
    | with_reducible assumption | exact .trans (by decide) (Sub.refl _) | with_reducible apply keeps_effFwQuery

end Sys2Proof.Machine
end

