-- ==== Sys2Proof/Laws/KeepsLife.lean ====
section
/-! SUPPORT. One lemma for each operation of starts, resets, stops, Vigil, memory and FENCE: it keeps what `Keeps` says, within its
footprint. -/

namespace Sys2Proof.Machine

open Sys2Proof.Safety

theorem bootKeeps_dropTrial (b : Boot) : BootKeeps b b.dropTrial := by
  unfold Boot.dropTrial; split <;> first | exact .same rfl rfl rfl | exact .rfl

theorem bootKeeps_newStart (b : Boot) : BootKeeps b b.newStart := by
  unfold Boot.newStart; split
  · exact bootKeeps_dropTrial b
  · exact .same rfl rfl rfl

theorem bootKeeps_run (b : Boot) (x : Option Bool) : BootKeeps b (b.run x) := by
  unfold Boot.run; (repeat' split) <;> exact .same rfl rfl rfl

theorem bootKeeps_endTrial (b : Boot) : BootKeeps b b.endTrial := by
  unfold Boot.endTrial; split
  · exact ⟨le_max_left _ _, fun e => ⟨e, rfl⟩⟩
  · exact .rfl

theorem keeps_resetDomains {F : Nat} {s₀ s : State} (hF : Sub 0x73ffff77c F) (h : Keeps F s₀ s) (a1 : Bool) :
    Keeps F s₀ (State.resetDomains s a1) := by
  refine h.trans ⟨rfl, rfl, fun w => ?_, id, .same rfl rfl rfl, List.prefix_refl _, fun _ => le_refl 3, id,
    .of fun p => ?_⟩
  · cases a1
    · rfl
    · exact w
  · unfold State.resetDomains
    cases p <;> first | exact .inr (hF.bit rfl) | (dsimp only [Part.same]; exact .inl rfl)

theorem keeps_beginPowerUp {F : Nat} {s₀ s : State} (hF : Sub 0x1ffffff77f F) (h : Keeps F s₀ s) :
    Keeps F s₀ (State.beginPowerUp s) := by
  refine h.trans ⟨rfl, rfl, fun _ => rfl, id, (bootKeeps_newStart _).trans (.same rfl rfl rfl), List.prefix_refl _,
    fun _ => le_refl 3, fun _ => Nat.succ_pos 255, .of fun p => ?_⟩
  unfold State.beginPowerUp
  cases p <;> first | exact .inr (hF.bit rfl) | (dsimp only [Part.same]; exact .inl rfl)

theorem keeps_powerUp {F : Nat} {s₀ s : State} (hF : Sub 0x1ffffff77f F) (h : Keeps F s₀ s)  :
    Keeps F s₀ (State.powerUp s) := by
  unfold State.powerUp; try dsimp only
  repeat' first
    | with_reducible assumption | with_reducible apply keeps_beginPowerUp | split

theorem keeps_execPowerUp (s : State) (a0 : Nat) :
    Next 0x1ffffff77f s (execPowerUp a0 s) := by
  refine Next.of ⟨a0, ?_⟩; try dsimp only
  repeat' first
    | exact .trans (by decide) (Sub.refl _) | with_reducible exact .rfl | with_reducible apply keeps_powerUp

theorem keeps_startVigil {F : Nat} {s₀ s : State} (hF : Sub 0x440800000 F) (h : Keeps F s₀ s) (a1 : Bool) :
    Keeps F s₀ (State.startVigil s a1) := by
  unfold State.startVigil; try dsimp only
  repeat' first
    | with_reducible assumption | exact .trans (by decide) hF
    | (refine .of fun p => ?_; cases p <;> first | exact .inr (hF.bit rfl) | (dsimp only [Part.same]; first | exact .inl rfl | exact .inl ⟨rfl, rfl, rfl⟩))
    | intro _ | with_reducible exact .rfl | with_reducible apply keeps_modPrt | split
    | with_reducible apply Keeps.foldl | exact List.prefix_refl _ | exact .same rfl rfl rfl
    | with_reducible apply Keeps.upd

theorem keeps_vigilVerify {F : Nat} {s₀ s : State} (hF : Sub 0x440800000 F) (h : Keeps F s₀ s) (a1 : Bool) (a2 :
    Bool) :
    Keeps F s₀ (State.vigilVerify s a1 a2) := by
  unfold State.vigilVerify; try dsimp only
  repeat' first
    | with_reducible assumption | with_reducible apply keeps_startVigil | split

theorem keeps_execVigilImageVerify (s : State) (a0 : Nat) (a1 : Bool) (a2 : Bool) :
    Next 0x440800000 s (execVigilImageVerify a0 a1 a2 s) := by
  refine Next.of ⟨a0, ?_⟩; try dsimp only
  repeat' first
    | exact .trans (by decide) (Sub.refl _) | with_reducible exact .rfl
    | with_reducible apply keeps_vigilVerify

theorem keeps_leaveControlReset {F : Nat} {s₀ s : State} (hF : Sub 0x420800002 F) (h : Keeps F s₀ s) (a1 : Option
    Bool) :
    Keeps F s₀ (State.leaveControlReset s a1) := by
  unfold State.leaveControlReset; try dsimp only
  repeat' first
    | with_reducible assumption | exact .trans (by decide) hF
    | (refine .of fun p => ?_; cases p <;> first | exact .inr (hF.bit rfl) | (dsimp only [Part.same]; first | exact .inl rfl | exact .inl ⟨rfl, rfl, rfl⟩))
    | intro _ | with_reducible exact .rfl | with_reducible apply keeps_modPrt | exact bootKeeps_run _ _ | split
    | with_reducible apply Keeps.foldl | exact List.prefix_refl _ | with_reducible apply Keeps.upd

theorem keeps_bootFirmware {F : Nat} {s₀ s : State} (hF : Sub 0x4a0800002 F) (h : Keeps F s₀ s) (a1 : Bool) (a2 :
    Bool) :
    Keeps F s₀ (State.bootFirmware s a1 a2) := by
  unfold State.bootFirmware; try dsimp only
  repeat' first
    | with_reducible assumption | exact .trans (by decide) hF | with_reducible apply keeps_leaveControlReset
    | with_reducible apply keeps_logEvent | split

theorem keeps_execFirmwareBoot (s : State) (a0 : Nat) (a1 : Bool) (a2 : Bool) :
    Next 0x4a0800002 s (execFirmwareBoot a0 a1 a2 s) := by
  refine Next.of ⟨a0, ?_⟩; try dsimp only
  repeat' first
    | exact .trans (by decide) (Sub.refl _) | with_reducible exact .rfl
    | with_reducible apply keeps_bootFirmware

theorem keeps_startChannel {F : Nat} {s₀ s : State} (hF : Sub 0x80400000 F) (h : Keeps F s₀ s) (a1 : Nat) :
    Keeps F s₀ (State.startChannel s a1) := by
  unfold State.startChannel; try dsimp only
  repeat' first
    | with_reducible assumption | exact .trans (by decide) hF | with_reducible apply keeps_setMemCh
    | with_reducible apply keeps_logEvent | split

theorem keeps_startGroup {F : Nat} {s₀ s : State} (hF : Sub 0x1a49c1a70 F) (h : Keeps F s₀ s) (a1 : Nat) :
    Keeps F s₀ (State.startGroup s a1) := by
  unfold State.startGroup; try dsimp only
  repeat' first
    | with_reducible assumption | exact .trans (by decide) hF | with_reducible apply keeps_endGroupReset
    | with_reducible apply keeps_holdGroup | split

theorem keeps_startGroups {F : Nat} {s₀ s : State} (hF : Sub 0x1a4dc1a72 F) (h : Keeps F s₀ s)  :
    Keeps F s₀ (State.startGroups s) := by
  unfold State.startGroups; try dsimp only
  repeat' first
    | with_reducible assumption | exact .trans (by decide) hF
    | (refine .of fun p => ?_; cases p <;> first | exact .inr (hF.bit rfl) | (dsimp only [Part.same]; first | exact .inl rfl | exact .inl ⟨rfl, rfl, rfl⟩))
    | intro _ | with_reducible exact .rfl | with_reducible apply keeps_startChannel
    | with_reducible apply keeps_setService | with_reducible apply keeps_startGroup | split | dsimp only
    | with_reducible apply Keeps.foldl | exact List.prefix_refl _ | with_reducible apply Keeps.upd

theorem keeps_execGroupsLeaveReset (s : State) (a0 : Nat) :
    Next 0x1a4dc1a72 s (execGroupsLeaveReset a0 s) := by
  refine Next.of ⟨a0, ?_⟩; try dsimp only
  repeat' first
    | exact .trans (by decide) (Sub.refl _) | with_reducible exact .rfl
    | with_reducible apply keeps_startGroups

theorem keeps_becomeReady {F : Nat} {s₀ s : State} (hF : Sub 0x400000822 F) (h : Keeps F s₀ s)  :
    Keeps F s₀ (State.becomeReady s) := by
  unfold State.becomeReady; try dsimp only
  repeat' first
    | with_reducible assumption | exact .trans (by decide) hF
    | (refine .of fun p => ?_; cases p <;> first | exact .inr (hF.bit rfl) | (dsimp only [Part.same]; first | exact .inl rfl | exact .inl ⟨rfl, rfl, rfl⟩))
    | intro _ | with_reducible apply keeps_raiseInts | exact bootKeeps_endTrial _ | split
    | exact List.prefix_refl _ | with_reducible apply Keeps.upd

theorem keeps_startFailed {F : Nat} {s₀ s : State} (hF : Sub 0x420000002 F) (h : Keeps F s₀ s)  :
    Keeps F s₀ (State.startFailed s) := by
  unfold State.startFailed; try dsimp only
  repeat' first
    | with_reducible assumption
    | (refine .of fun p => ?_; cases p <;> first | exact .inr (hF.bit rfl) | (dsimp only [Part.same]; first | exact .inl rfl | exact .inl ⟨rfl, rfl, rfl⟩))
    | intro _ | exact bootKeeps_dropTrial _ | split | exact List.prefix_refl _ | with_reducible apply Keeps.upd

theorem keeps_injectionVerdict {F : Nat} {s₀ s : State} (hF : Sub 0x1a4d41a70 F) (h : Keeps F s₀ s) (a1 : List (Nat
    × Nat)) :
    Keeps F s₀ (State.injectionVerdict s a1) := by
  unfold State.injectionVerdict; try dsimp only
  repeat' first
    | with_reducible assumption | exact .trans (by decide) hF
    | (refine .of fun p => ?_; cases p <;> first | exact .inr (hF.bit rfl) | (dsimp only [Part.same]; first | exact .inl rfl | exact .inl ⟨rfl, rfl, rfl⟩))
    | intro _ | with_reducible exact .rfl | with_reducible apply keeps_logEvent
    | with_reducible apply keeps_modGrp | with_reducible apply keeps_latentFaults | dsimp only
    | with_reducible apply Keeps.foldl | exact List.prefix_refl _ | with_reducible apply Keeps.upd

theorem keeps_injectionEnd {F : Nat} {s₀ s : State} (hF : Sub 0x5a4d41a72 F) (h : Keeps F s₀ s) (a1 : List (Nat ×
    Nat)) :
    Keeps F s₀ (State.injectionEnd s a1) := by
  unfold State.injectionEnd; try dsimp only
  repeat' first
    | with_reducible assumption | exact .trans (by decide) hF
    | (refine .of fun p => ?_; cases p <;> first | exact .inr (hF.bit rfl) | (dsimp only [Part.same]; first | exact .inl rfl | exact .inl ⟨rfl, rfl, rfl⟩))
    | intro _ | with_reducible exact .rfl | with_reducible apply keeps_injectionVerdict
    | with_reducible apply keeps_startFailed | with_reducible apply keeps_becomeReady | split
    | exact List.prefix_refl _ | with_reducible apply Keeps.upd

theorem keeps_execStartupInjectionEnd (s : State) (a0 : Nat) (a1 : List (Nat × Nat)) :
    Next 0x5a4d41a72 s (execStartupInjectionEnd a0 a1 s) := by
  refine Next.of ⟨a0, ?_⟩; try dsimp only
  repeat' first
    | exact .trans (by decide) (Sub.refl _) | with_reducible exact .rfl
    | with_reducible apply keeps_injectionEnd

theorem keeps_beginReset {F : Nat} {s₀ s : State} (hF : Sub 0x480000022 F) (h : Keeps F s₀ s) (a1 : StartKind) (a2
    : Nat) :
    Keeps F s₀ (State.beginReset s a1 a2) := by
  unfold State.beginReset; try dsimp only
  repeat' first
    | with_reducible assumption | exact .trans (by decide) hF
    | (refine .of fun p => ?_; cases p <;> first | exact .inr (hF.bit rfl) | (dsimp only [Part.same]; first | exact .inl rfl | exact .inl ⟨rfl, rfl, rfl⟩))
    | intro _ | with_reducible apply keeps_logEvent | exact bootKeeps_newStart _ | exact List.prefix_refl _
    | with_reducible apply Keeps.upd

theorem keeps_effDeviceReset {F : Nat} {s₀ s : State} (hF : Sub 0x480100a72 F) (h : Keeps F s₀ s) (a0 : Inflight) :
    Keeps F s₀ (effDeviceReset a0 s) := by
  unfold effDeviceReset; try dsimp only
  repeat' first
    | with_reducible assumption | exact .trans (by decide) hF | with_reducible apply keeps_beginReset
    | with_reducible apply keeps_finish

theorem keeps_enterReset {F : Nat} {s₀ s : State} (hF : Sub 0x73ffff77e F) (h : Keeps F s₀ s)  :
    Keeps F s₀ (State.enterReset s) := by
  unfold State.enterReset; try dsimp only
  repeat' first
    | with_reducible assumption | exact .trans (by decide) hF
    | (refine .of fun p => ?_; cases p <;> first | exact .inr (hF.bit rfl) | (dsimp only [Part.same]; first | exact .inl rfl | exact .inl ⟨rfl, rfl, rfl⟩))
    | intro _ | with_reducible exact .rfl | with_reducible apply keeps_resetDomains
    | exact Nat.mod_lt _ (by decide) | split | exact List.prefix_refl _ | with_reducible apply Keeps.upd

theorem keeps_restart {F : Nat} {s₀ s : State} (hF : Sub 0x7bfffff7e F) (h : Keeps F s₀ s) (a1 : Hdr) (a2 : Instr) :
    Keeps F s₀ (State.restart s a1 a2) := by
  unfold State.restart; try dsimp only
  repeat' first
    | with_reducible assumption | exact .trans (by decide) hF | with_reducible apply keeps_answer
    | with_reducible apply keeps_beginReset | with_reducible apply keeps_enterReset | split

theorem keeps_execDeviceReset (s : State) (a0 : Nat) (a1 : Hdr) :
    Next 0x7bffffffe s (execDeviceReset a0 a1 s) := by
  refine Next.of ?_
  split
  · exact ⟨a0, keeps_restart (by decide) .rfl _ _⟩
  · exact keeps_hostCommand (by decide) _ _ _ _ _ fun _ x0 x1 s₁ h => keeps_effDeviceReset (by decide) h _

theorem keeps_logSafe {F : Nat} {s₀ s : State} (hF : Sub 0x80000000 F) (h : Keeps F s₀ s) (a1 : Nat) (a2 : Nat) (a3
    : Nat) (a4 : Nat) :
    Keeps F s₀ (State.logSafe s a1 a2 a3 a4) := by
  unfold State.logSafe; try dsimp only
  repeat' first
    | with_reducible assumption | with_reducible apply keeps_logEvent

theorem keeps_beginSeq {F : Nat} {s₀ s : State} (hF : Sub 0xa0000000 F) (h : Keeps F s₀ s) (a1 : Nat) (a2 : Nat) :
    Keeps F s₀ (State.beginSeq s a1 a2) := by
  unfold State.beginSeq; try dsimp only
  repeat' first
    | with_reducible assumption | exact .trans (by decide) hF
    | (refine .of fun p => ?_; cases p <;> first | exact .inr (hF.bit rfl) | (dsimp only [Part.same]; first | exact .inl rfl | exact .inl ⟨rfl, rfl, rfl⟩))
    | intro _ | with_reducible exact .rfl | with_reducible apply keeps_emit
    | with_reducible apply keeps_logSafe | exact List.prefix_refl _ | with_reducible apply Keeps.upd

theorem keeps_safeCause {F : Nat} {s₀ s : State} (hF : Sub 0x4a0000022 F) (h : Keeps F s₀ s) (a1 : Nat) (a2 : Nat) :
    Keeps F s₀ (State.safeCause s a1 a2) := by
  unfold State.safeCause; try dsimp only
  repeat' first
    | with_reducible assumption | exact .trans (by decide) hF
    | (refine .of fun p => ?_; cases p <;> first | exact .inr (hF.bit rfl) | (dsimp only [Part.same]; first | exact .inl rfl | exact .inl ⟨rfl, rfl, rfl⟩))
    | intro _ | with_reducible exact .rfl | with_reducible apply keeps_logSafe
    | with_reducible apply keeps_beginSeq | with_reducible apply keeps_beginReset | split
    | exact List.prefix_refl _ | with_reducible apply Keeps.upd

theorem keeps_freezeSet {F : Nat} {s₀ s : State} (hF : Sub 0xa0100a70 F) (h : Keeps F s₀ s)  :
    Keeps F s₀ (State.freezeSet s) := by
  unfold State.freezeSet; try dsimp only
  repeat' first
    | with_reducible assumption | exact .trans (by decide) hF
    | (refine .of fun p => ?_; cases p <;> first | exact .inr (hF.bit rfl) | (dsimp only [Part.same]; first | exact .inl rfl | exact .inl ⟨rfl, rfl, rfl⟩))
    | intro _ | with_reducible exact .rfl | with_reducible apply keeps_finish | split
    | exact List.prefix_refl _ | with_reducible apply Keeps.upd

theorem keeps_endCommands {F : Nat} {s₀ s : State} (hF : Sub 0x80100b70 F) (h : Keeps F s₀ s)  :
    Keeps F s₀ (State.endCommands s) := by
  unfold State.endCommands; try dsimp only
  repeat' first
    | with_reducible assumption | exact .trans (by decide) hF
    | (refine .of fun p => ?_; cases p <;> first | exact .inr (hF.bit rfl) | (dsimp only [Part.same]; first | exact .inl rfl | exact .inl ⟨rfl, rfl, rfl⟩))
    | intro _ | with_reducible exact .rfl | with_reducible apply keeps_finishAll
    | with_reducible apply keeps_deliver | with_reducible apply Keeps.foldl | exact List.prefix_refl _
    | with_reducible apply Keeps.upd

theorem keeps_abandonRuns {F : Nat} {s₀ s : State} (hF : Sub 0xa0141b72 F) (h : Keeps F s₀ s)  :
    Keeps F s₀ (State.abandonRuns s) := by
  unfold State.abandonRuns; try dsimp only
  repeat' first
    | with_reducible assumption | exact .trans (by decide) hF
    | (refine .of fun p => ?_; cases p <;> first | exact .inr (hF.bit rfl) | (dsimp only [Part.same]; first | exact .inl rfl | exact .inl ⟨rfl, rfl, rfl⟩))
    | intro _ | with_reducible exact .rfl | with_reducible apply keeps_abandonGroups
    | with_reducible apply keeps_endCommands | with_reducible apply keeps_freezeSet | split
    | exact List.prefix_refl _ | with_reducible apply Keeps.upd

theorem keeps_execAbandonRuns (s : State) (a0 : Nat) :
    Next 0xa0141b72 s (execAbandonRuns a0 s) := by
  refine Next.of ⟨a0, ?_⟩; try dsimp only
  repeat' first
    | exact .trans (by decide) (Sub.refl _) | with_reducible exact .rfl
    | with_reducible apply keeps_abandonRuns

theorem keeps_domainReset {F : Nat} {s₀ s : State} (hF : Sub 0x73ffff77e F) (h : Keeps F s₀ s)  :
    Keeps F s₀ (State.domainReset s) := by
  unfold State.domainReset; try dsimp only
  repeat' first
    | with_reducible assumption | with_reducible apply keeps_enterReset | split

theorem keeps_execDomainReset (s : State) (a0 : Nat) :
    Next 0x73ffff77e s (execDomainReset a0 s) := by
  refine Next.of ⟨a0, ?_⟩; try dsimp only
  repeat' first
    | exact .trans (by decide) (Sub.refl _) | with_reducible exact .rfl
    | with_reducible apply keeps_domainReset

theorem keeps_writeBackSettings {F : Nat} {s₀ s : State} (hF : Sub 0x8800000 F) (h : Keeps F s₀ s) (a1 : SafetySet) :
    Keeps F s₀ (State.writeBackSettings s a1) := by
  unfold State.writeBackSettings; try dsimp only
  repeat' first
    | with_reducible assumption | exact .trans (by decide) hF
    | (refine .of fun p => ?_; cases p <;> first | exact .inr (hF.bit rfl) | (dsimp only [Part.same]; first | exact .inl rfl | exact .inl ⟨rfl, rfl, rfl⟩))
    | intro _ | with_reducible exact .rfl | with_reducible apply keeps_modPrt
    | with_reducible apply Keeps.foldl | exact List.prefix_refl _ | with_reducible apply Keeps.upd

theorem keeps_restoreImage {F : Nat} {s₀ s : State} (hF : Sub 0x8000e000 F) (h : Keeps F s₀ s) (a1 : Nat) (a2 :
    Image) :
    Keeps F s₀ (State.restoreImage s a1 a2) := by
  unfold State.restoreImage; try dsimp only
  repeat' first
    | with_reducible assumption | exact .trans (by decide) hF
    | (refine .of fun p => ?_; cases p <;> first | exact .inr (hF.bit rfl) | (dsimp only [Part.same]; first | exact .inl rfl | exact .inl ⟨rfl, rfl, rfl⟩))
    | intro _ | with_reducible exact .rfl | with_reducible apply keeps_setImg
    | with_reducible apply keeps_loadAlmanac | exact List.prefix_refl _ | with_reducible apply Keeps.upd

theorem keeps_hashImages {F : Nat} {s₀ s : State} (hF : Sub 0x8880e002 F) (h : Keeps F s₀ s) (a1 : List Nat) :
    Keeps F s₀ (State.hashImages s a1) := by
  unfold State.hashImages; try dsimp only
  repeat' first
    | with_reducible assumption | exact .trans (by decide) hF
    | (refine .of fun p => ?_; cases p <;> first | exact .inr (hF.bit rfl) | (dsimp only [Part.same]; first | exact .inl rfl | exact .inl ⟨rfl, rfl, rfl⟩))
    | intro _ | with_reducible exact .rfl | with_reducible apply keeps_restoreImage
    | with_reducible apply keeps_writeBackSettings | split | with_reducible apply Keeps.foldl
    | exact List.prefix_refl _ | with_reducible apply Keeps.upd

theorem keeps_execImageHashCheck (s : State) (a0 : Nat) (a1 : List Nat) :
    Next 0x8880e002 s (execImageHashCheck a0 a1 s) := by
  refine Next.of ⟨a0, ?_⟩; try dsimp only
  repeat' first
    | exact .trans (by decide) (Sub.refl _) | with_reducible exact .rfl | with_reducible apply keeps_hashImages

theorem keeps_abortSkipped {F : Nat} {s₀ s : State} (hF : Sub 0xa0100830 F) (h : Keeps F s₀ s) (a1 : Nat) (a2 :
    Stream) (a3 : Nat) :
    Keeps F s₀ (State.abortSkipped s a1 a2 a3) := by
  unfold State.abortSkipped; try dsimp only
  repeat' first
    | with_reducible assumption | exact .trans (by decide) hF | with_reducible apply keeps_safetyEvent
    | with_reducible apply keeps_postChunk | with_reducible apply keeps_countChunk

theorem keeps_keepIndex {F : Nat} {s₀ s : State} (hF : Sub 0x20001000 F) (h : Keeps F s₀ s) (a1 : Nat) (a2 : Nat) :
    Keeps F s₀ (State.keepIndex s a1 a2) := by
  unfold State.keepIndex; try dsimp only
  repeat' first
    | with_reducible assumption | exact .trans (by decide) hF | with_reducible apply keeps_modStr
    | with_reducible apply keeps_setSafeS | split

theorem keeps_opt_reopenOne {F : Nat} {s₀ s s' : State} (hF : Sub 0x1a1759830 F) {a1 : Nat} {a2 : Stream} {a3 :
    Nat} {a4 : Table Nat}
    (e : State.reopenOne s a1 a2 a3 a4 = some s') (h : Keeps F s₀ s) : Keeps F s₀ s' := by
  unfold State.reopenOne at e; try dsimp only at e
  (repeat' split at e) <;> first | cases e | skip
  all_goals
  repeat' first
    | with_reducible assumption | exact .trans (by decide) hF | intro _ | with_reducible exact .rfl
    | refine keeps_opt_openStream ?_ (by with_reducible assumption) ?_ | with_reducible apply keeps_setCtr
    | with_reducible apply keeps_keepIndex | with_reducible apply keeps_modStr
    | with_reducible apply keeps_abortSkipped | with_reducible apply Keeps.foldl

theorem keeps_reopenAll {F : Nat} {s₀ s : State} (hF : Sub 0x1a1759830 F) (h : Keeps F s₀ s) (a1 : SafetySet) :
    Keeps F s₀ (State.reopenAll s a1).1 := by
  unfold State.reopenAll; try dsimp only
  repeat' first
    | with_reducible assumption | intro _ | refine keeps_opt_reopenOne ?_ (by with_reducible assumption) ?_
    | with_reducible apply Keeps.foldl_fst | split
theorem keeps_pair_reopenAll {F : Nat} {s₀ s s' : State} (hF : Sub 0x1a1759830 F) {r} {a1 : SafetySet}
    (e : State.reopenAll s a1 = (s', r)) (h : Keeps F s₀ s) : Keeps F s₀ s' := by
  have k := keeps_reopenAll hF h a1; rw [e] at k; exact k

theorem keeps_reopenStreams {F : Nat} {s₀ s : State} (hF : Sub 0x1a1759832 F) (h : Keeps F s₀ s)  :
    Keeps F s₀ (State.reopenStreams s) := by
  unfold State.reopenStreams; try dsimp only
  repeat' first
    | with_reducible assumption | exact .trans (by decide) hF
    | (refine .of fun p => ?_; cases p <;> first | exact .inr (hF.bit rfl) | (dsimp only [Part.same]; first | exact .inl rfl | exact .inl ⟨rfl, rfl, rfl⟩))
    | intro _ | with_reducible exact .rfl | with_reducible apply keeps_reopenAll | split
    | exact List.prefix_refl _ | with_reducible apply Keeps.upd

theorem keeps_execSStreamReopen (s : State) (a0 : Nat) :
    Next 0x1a1759832 s (execSStreamReopen a0 s) := by
  refine Next.of ⟨a0, ?_⟩; try dsimp only
  repeat' first
    | exact .trans (by decide) (Sub.refl _) | with_reducible exact .rfl
    | with_reducible apply keeps_reopenStreams

theorem keeps_resume {F : Nat} {s₀ s : State} (hF : Sub 0x4a0000822 F) (h : Keeps F s₀ s)  :
    Keeps F s₀ (State.resume s) := by
  unfold State.resume; try dsimp only
  repeat' first
    | with_reducible assumption | exact .trans (by decide) hF
    | (refine .of fun p => ?_; cases p <;> first | exact .inr (hF.bit rfl) | (dsimp only [Part.same]; first | exact .inl rfl | exact .inl ⟨rfl, rfl, rfl⟩))
    | intro _ | with_reducible exact .rfl | with_reducible apply keeps_logSafe
    | with_reducible apply keeps_becomeReady | split | exact List.prefix_refl _
    | with_reducible apply Keeps.upd

theorem keeps_execResumption (s : State) (a0 : Nat) :
    Next 0x4a0000822 s (execResumption a0 s) := by
  refine Next.of ⟨a0, ?_⟩; try dsimp only
  repeat' first
    | exact .trans (by decide) (Sub.refl _) | with_reducible exact .rfl | with_reducible apply keeps_resume

theorem keeps_watchdog {F : Nat} {s₀ s : State} (hF : Sub 0x5a0000022 F) (h : Keeps F s₀ s) (a1 : Nat) :
    Keeps F s₀ (State.watchdog s a1) := by
  unfold State.watchdog; try dsimp only
  repeat' first
    | with_reducible assumption | exact .trans (by decide) hF
    | (refine .of fun p => ?_; cases p <;> first | exact .inr (hF.bit rfl) | (dsimp only [Part.same]; first | exact .inl rfl | exact .inl ⟨rfl, rfl, rfl⟩))
    | intro _ | with_reducible exact .rfl | with_reducible apply keeps_safeCause
    | with_reducible apply keeps_logEvent | split | dsimp only | exact List.prefix_refl _
    | with_reducible apply Keeps.upd

theorem keeps_execWatchdogExpiry (s : State) (a0 : Nat) (a1 : Nat) :
    Next 0x5a0000022 s (execWatchdogExpiry a0 a1 s) := by
  refine Next.of ⟨a0, ?_⟩; try dsimp only
  repeat' first
    | exact .trans (by decide) (Sub.refl _) | with_reducible exact .rfl | with_reducible apply keeps_watchdog

theorem keeps_autoDegrade {F : Nat} {s₀ s : State} (hF : Sub 0x4a0000022 F) (h : Keeps F s₀ s)  :
    Keeps F s₀ (State.autoDegrade s) := by
  unfold State.autoDegrade; try dsimp only
  repeat' first
    | with_reducible assumption | with_reducible apply keeps_safeCause | split

theorem keeps_execAutoDegrade (s : State) (a0 : Nat) :
    Next 0x4a0000022 s (execAutoDegrade a0 s) := by
  refine Next.of ⟨a0, ?_⟩; try dsimp only
  repeat' first
    | exact .trans (by decide) (Sub.refl _) | with_reducible exact .rfl
    | with_reducible apply keeps_autoDegrade

theorem keeps_clockFault {F : Nat} {s₀ s : State} (hF : Sub 0x80000000 F) (h : Keeps F s₀ s) (a1 : Nat) :
    Keeps F s₀ (State.clockFault s a1) := by
  unfold State.clockFault; try dsimp only
  repeat' first
    | with_reducible assumption | exact .trans (by decide) hF | with_reducible apply keeps_emit
    | with_reducible apply keeps_logEvent

theorem keeps_loseRoot {F : Nat} {s₀ s : State} (hF : Sub 0xa0041002 F) (h : Keeps F s₀ s)  :
    Keeps F s₀ (State.loseRoot s) := by
  unfold State.loseRoot; try dsimp only
  repeat' first
    | with_reducible assumption | exact .trans (by decide) hF
    | (refine .of fun p => ?_; cases p <;> first | exact .inr (hF.bit rfl) | (dsimp only [Part.same]; first | exact .inl rfl | exact .inl ⟨rfl, rfl, rfl⟩))
    | intro _ | with_reducible exact .rfl | with_reducible apply keeps_clockFault
    | with_reducible apply keeps_declareStop | split | exact List.prefix_refl _
    | with_reducible apply Keeps.upd

theorem keeps_execRootLockLoss (s : State) (a0 : Nat) :
    Next 0xa0041002 s (execRootLockLoss a0 s) := by
  refine Next.of ⟨a0, ?_⟩; try dsimp only
  repeat' first
    | exact .trans (by decide) (Sub.refl _) | with_reducible exact .rfl | with_reducible apply keeps_loseRoot

theorem keeps_relockRoot {F : Nat} {s₀ s : State} (hF : Sub 0x2 F) (h : Keeps F s₀ s)  :
    Keeps F s₀ (State.relockRoot s) := by
  unfold State.relockRoot; try dsimp only
  repeat' first
    | with_reducible assumption
    | (refine .of fun p => ?_; cases p <;> first | exact .inr (hF.bit rfl) | (dsimp only [Part.same]; first | exact .inl rfl | exact .inl ⟨rfl, rfl, rfl⟩))
    | intro _ | with_reducible exact .rfl | split | exact List.prefix_refl _ | with_reducible apply Keeps.upd

theorem keeps_execRootRelock (s : State) (a0 : Nat) :
    Next 0x2 s (execRootRelock a0 s) := by
  refine Next.of ⟨a0, ?_⟩; try dsimp only
  repeat' first
    | exact .trans (by decide) (Sub.refl _) | with_reducible exact .rfl | with_reducible apply keeps_relockRoot

theorem keeps_loseRefclk {F : Nat} {s₀ s : State} (hF : Sub 0xe0041002 F) (h : Keeps F s₀ s)  :
    Keeps F s₀ (State.loseRefclk s) := by
  unfold State.loseRefclk; try dsimp only
  repeat' first
    | with_reducible assumption | exact .trans (by decide) hF
    | (refine .of fun p => ?_; cases p <;> first | exact .inr (hF.bit rfl) | (dsimp only [Part.same]; first | exact .inl rfl | exact .inl ⟨rfl, rfl, rfl⟩))
    | intro _ | with_reducible exact .rfl | with_reducible apply keeps_declareStop
    | with_reducible apply keeps_clockFault | split | exact List.prefix_refl _ | with_reducible apply Keeps.upd

theorem keeps_execRefclkLoss (s : State) (a0 : Nat) :
    Next 0xe0041002 s (execRefclkLoss a0 s) := by
  refine Next.of ⟨a0, ?_⟩; try dsimp only
  repeat' first
    | exact .trans (by decide) (Sub.refl _) | with_reducible exact .rfl | with_reducible apply keeps_loseRefclk

theorem keeps_returnRefclk {F : Nat} {s₀ s : State} (hF : Sub 0x40000002 F) (h : Keeps F s₀ s)  :
    Keeps F s₀ (State.returnRefclk s) := by
  unfold State.returnRefclk; try dsimp only
  repeat' first
    | with_reducible assumption
    | (refine .of fun p => ?_; cases p <;> first | exact .inr (hF.bit rfl) | (dsimp only [Part.same]; first | exact .inl rfl | exact .inl ⟨rfl, rfl, rfl⟩))
    | intro _ | with_reducible exact .rfl | split | exact List.prefix_refl _ | with_reducible apply Keeps.upd

theorem keeps_execRefclkReturn (s : State) (a0 : Nat) :
    Next 0x40000002 s (execRefclkReturn a0 s) := by
  refine Next.of ⟨a0, ?_⟩; try dsimp only
  repeat' first
    | exact .trans (by decide) (Sub.refl _) | with_reducible exact .rfl
    | with_reducible apply keeps_returnRefclk

theorem keeps_loseCoolant {F : Nat} {s₀ s : State} (hF : Sub 0xa0041002 F) (h : Keeps F s₀ s)  :
    Keeps F s₀ (State.loseCoolant s) := by
  unfold State.loseCoolant; try dsimp only
  repeat' first
    | with_reducible assumption
    | (refine .of fun p => ?_; cases p <;> first | exact .inr (hF.bit rfl) | (dsimp only [Part.same]; first | exact .inl rfl | exact .inl ⟨rfl, rfl, rfl⟩))
    | intro _ | with_reducible exact .rfl | with_reducible apply keeps_declareStop | split
    | exact List.prefix_refl _ | with_reducible apply Keeps.upd

theorem keeps_execCoolantLoss (s : State) (a0 : Nat) :
    Next 0xa0041002 s (execCoolantLoss a0 s) := by
  refine Next.of ⟨a0, ?_⟩; try dsimp only
  repeat' first
    | exact .trans (by decide) (Sub.refl _) | with_reducible exact .rfl
    | with_reducible apply keeps_loseCoolant

theorem keeps_glitchCoolant {F : Nat} {s₀ s : State} (hF : Sub 0x100002 F) (h : Keeps F s₀ s)  :
    Keeps F s₀ (State.glitchCoolant s) := by
  unfold State.glitchCoolant; try dsimp only
  repeat' first
    | with_reducible assumption | exact .trans (by decide) hF
    | (refine .of fun p => ?_; cases p <;> first | exact .inr (hF.bit rfl) | (dsimp only [Part.same]; first | exact .inl rfl | exact .inl ⟨rfl, rfl, rfl⟩))
    | intro _ | with_reducible exact .rfl | with_reducible apply keeps_count | split | exact List.prefix_refl _
    | with_reducible apply Keeps.upd

theorem keeps_execCoolantGlitch (s : State) (a0 : Nat) :
    Next 0x100002 s (execCoolantGlitch a0 s) := by
  refine Next.of ⟨a0, ?_⟩; try dsimp only
  repeat' first
    | exact .trans (by decide) (Sub.refl _) | with_reducible exact .rfl
    | with_reducible apply keeps_glitchCoolant

theorem keeps_restoreCoolant {F : Nat} {s₀ s : State} (hF : Sub 0x2 F) (h : Keeps F s₀ s)  :
    Keeps F s₀ (State.restoreCoolant s) := by
  unfold State.restoreCoolant; try dsimp only
  repeat' first
    | with_reducible assumption
    | (refine .of fun p => ?_; cases p <;> first | exact .inr (hF.bit rfl) | (dsimp only [Part.same]; first | exact .inl rfl | exact .inl ⟨rfl, rfl, rfl⟩))
    | intro _ | with_reducible exact .rfl | split | exact List.prefix_refl _ | with_reducible apply Keeps.upd

theorem keeps_execCoolantRestored (s : State) (a0 : Nat) :
    Next 0x2 s (execCoolantRestored a0 s) := by
  refine Next.of ⟨a0, ?_⟩; try dsimp only
  repeat' first
    | exact .trans (by decide) (Sub.refl _) | with_reducible exact .rfl
    | with_reducible apply keeps_restoreCoolant

theorem keeps_gateStop {F : Nat} {s₀ s : State} (hF : Sub 0x2 F) (h : Keeps F s₀ s)  :
    Keeps F s₀ (State.gateStop s) := by
  unfold State.gateStop; try dsimp only
  repeat' first
    | with_reducible assumption
    | (refine .of fun p => ?_; cases p <;> first | exact .inr (hF.bit rfl) | (dsimp only [Part.same]; first | exact .inl rfl | exact .inl ⟨rfl, rfl, rfl⟩))
    | intro _ | with_reducible exact .rfl | split | exact List.prefix_refl _ | with_reducible apply Keeps.upd

theorem keeps_execStopClockGate (s : State) (a0 : Nat) :
    Next 0x2 s (execStopClockGate a0 s) := by
  refine Next.of ⟨a0, ?_⟩; try dsimp only
  repeat' first
    | exact .trans (by decide) (Sub.refl _) | with_reducible exact .rfl | with_reducible apply keeps_gateStop

theorem keeps_completeStop {F : Nat} {s₀ s : State} (hF : Sub 0x73ffff77e F) (h : Keeps F s₀ s)  :
    Keeps F s₀ (State.completeStop s) := by
  unfold State.completeStop; try dsimp only
  repeat' first
    | with_reducible assumption | exact .trans (by decide) hF
    | (refine .of fun p => ?_; cases p <;> first | exact .inr (hF.bit rfl) | (dsimp only [Part.same]; first | exact .inl rfl | exact .inl ⟨rfl, rfl, rfl⟩))
    | intro _ | with_reducible exact .rfl | with_reducible apply keeps_resetDomains | split
    | exact List.prefix_refl _ | with_reducible apply Keeps.upd

theorem keeps_execStopComplete (s : State) (a0 : Nat) :
    Next 0x73ffff77e s (execStopComplete a0 s) := by
  refine Next.of ⟨a0, ?_⟩; try dsimp only
  repeat' first
    | exact .trans (by decide) (Sub.refl _) | with_reducible exact .rfl
    | with_reducible apply keeps_completeStop

theorem keeps_allOff {F : Nat} {s₀ s : State} (hF : Sub 0x77ffff77e F) (h : Keeps F s₀ s)  :
    Keeps F s₀ (State.allOff s) := by
  unfold State.allOff; try dsimp only
  repeat' first
    | with_reducible assumption | exact .trans (by decide) hF
    | (refine .of fun p => ?_; cases p <;> first | exact .inr (hF.bit rfl) | (dsimp only [Part.same]; first | exact .inl rfl | exact .inl ⟨rfl, rfl, rfl⟩))
    | intro _ | with_reducible exact .rfl | with_reducible apply keeps_resetDomains | dsimp only
    | exact List.prefix_refl _ | with_reducible apply Keeps.upd

theorem keeps_loseVin {F : Nat} {s₀ s : State} (hF : Sub 0x77ffff77e F) (h : Keeps F s₀ s)  :
    Keeps F s₀ (State.loseVin s) := by
  unfold State.loseVin; try dsimp only
  repeat' first
    | with_reducible assumption
    | (refine .of fun p => ?_; cases p <;> first | exact .inr (hF.bit rfl) | (dsimp only [Part.same]; first | exact .inl rfl | exact .inl ⟨rfl, rfl, rfl⟩))
    | intro _ | with_reducible exact .rfl | with_reducible apply keeps_allOff | split
    | exact List.prefix_refl _ | with_reducible apply Keeps.upd

theorem keeps_execVin48Loss (s : State) (a0 : Nat) :
    Next 0x77ffff77e s (execVin48Loss a0 s) := by
  refine Next.of ⟨a0, ?_⟩; try dsimp only
  repeat' first
    | exact .trans (by decide) (Sub.refl _) | with_reducible exact .rfl | with_reducible apply keeps_loseVin

theorem keeps_loseVstby {F : Nat} {s₀ s : State} (hF : Sub 0x1ffffff77e F) (h : Keeps F s₀ s)  :
    Keeps F s₀ (State.loseVstby s) := by
  unfold State.loseVstby; try dsimp only
  repeat' first
    | with_reducible assumption | exact .trans (by decide) hF
    | (refine .of fun p => ?_; cases p <;> first | exact .inr (hF.bit rfl) | (dsimp only [Part.same]; first | exact .inl rfl | exact .inl ⟨rfl, rfl, rfl⟩))
    | intro _ | with_reducible exact .rfl | with_reducible apply keeps_allOff | split
    | exact List.prefix_refl _ | with_reducible apply Keeps.upd

theorem keeps_execVstbyLoss (s : State) (a0 : Nat) :
    Next 0x1ffffff77e s (execVstbyLoss a0 s) := by
  refine Next.of ⟨a0, ?_⟩; try dsimp only
  repeat' first
    | exact .trans (by decide) (Sub.refl _) | with_reducible exact .rfl | with_reducible apply keeps_loseVstby

theorem keeps_hopEnd {F : Nat} {s₀ s : State} (hF : Sub 0x40000000 F) (h : Keeps F s₀ s) (a1 : List Nat) (a2 : Bool) :
    Keeps F s₀ (State.hopEnd s a1 a2) := by
  unfold State.hopEnd; try dsimp only
  repeat' first
    | with_reducible assumption
    | (refine .of fun p => ?_; cases p <;> first | exact .inr (hF.bit rfl) | (dsimp only [Part.same]; first | exact .inl rfl | exact .inl ⟨rfl, rfl, rfl⟩))
    | intro _ | with_reducible exact .rfl | split | exact List.prefix_refl _ | with_reducible apply Keeps.upd

theorem keeps_execHopEnd (s : State) (a0 : Nat) (a1 : List Nat) (a2 : Bool) :
    Next 0x40000000 s (execHopEnd a0 a1 a2 s) := by
  refine Next.of ⟨a0, ?_⟩; try dsimp only
  repeat' first
    | exact .trans (by decide) (Sub.refl _) | with_reducible exact .rfl | with_reducible apply keeps_hopEnd

theorem keeps_alertHoldEnd {F : Nat} {s₀ s : State} (hF : Sub 0x40000000 F) (h : Keeps F s₀ s) (a1 : Nat) :
    Keeps F s₀ (State.alertHoldEnd s a1) := by
  unfold State.alertHoldEnd; try dsimp only
  repeat' first
    | with_reducible assumption
    | (refine .of fun p => ?_; cases p <;> first | exact .inr (hF.bit rfl) | (dsimp only [Part.same]; first | exact .inl rfl | exact .inl ⟨rfl, rfl, rfl⟩))
    | intro _ | with_reducible exact .rfl | split | exact List.prefix_refl _ | with_reducible apply Keeps.upd

theorem keeps_execAlertHoldEnd (s : State) (a0 : Nat) (a1 : Nat) :
    Next 0x40000000 s (execAlertHoldEnd a0 a1 s) := by
  refine Next.of ⟨a0, ?_⟩; try dsimp only
  repeat' first
    | exact .trans (by decide) (Sub.refl _) | with_reducible exact .rfl
    | with_reducible apply keeps_alertHoldEnd

theorem keeps_vigilCheck {F : Nat} {s₀ s : State} (hF : Sub 0x40000000 F) (h : Keeps F s₀ s) (a1 : Bool) :
    Keeps F s₀ (State.vigilCheck s a1) := by
  unfold State.vigilCheck; try dsimp only
  repeat' first
    | with_reducible assumption
    | (refine .of fun p => ?_; cases p <;> first | exact .inr (hF.bit rfl) | (dsimp only [Part.same]; first | exact .inl rfl | exact .inl ⟨rfl, rfl, rfl⟩))
    | intro _ | with_reducible exact .rfl | split | exact List.prefix_refl _ | with_reducible apply Keeps.upd

theorem keeps_execVigilSelfCheck (s : State) (a0 : Nat) (a1 : Bool) :
    Next 0x40000000 s (execVigilSelfCheck a0 a1 s) := by
  refine Next.of ⟨a0, ?_⟩; try dsimp only
  repeat' first
    | exact .trans (by decide) (Sub.refl _) | with_reducible exact .rfl | with_reducible apply keeps_vigilCheck

theorem keeps_loseTap {F : Nat} {s₀ s : State} (hF : Sub 0x40000000 F) (h : Keeps F s₀ s) (a1 : Nat) :
    Keeps F s₀ (State.loseTap s a1) := by
  unfold State.loseTap; try dsimp only
  repeat' first
    | with_reducible assumption
    | (refine .of fun p => ?_; cases p <;> first | exact .inr (hF.bit rfl) | (dsimp only [Part.same]; first | exact .inl rfl | exact .inl ⟨rfl, rfl, rfl⟩))
    | intro _ | with_reducible exact .rfl | split | exact List.prefix_refl _ | with_reducible apply Keeps.upd

theorem keeps_execTapLost (s : State) (a0 : Nat) (a1 : Nat) :
    Next 0x40000000 s (execTapLost a0 a1 s) := by
  refine Next.of ⟨a0, ?_⟩; try dsimp only
  repeat' first
    | exact .trans (by decide) (Sub.refl _) | with_reducible exact .rfl | with_reducible apply keeps_loseTap

theorem keeps_portServe {F : Nat} {s₀ s : State} (hF : Sub 0x280100a70 F) (h : Keeps F s₀ s) (a1 : Hdr) (a2 :
    Instr) (a3 : List EntryField) (a4 : Inflight → State → State) (h4 : ∀ (x0 : Inflight) (x1 : State) (s₁ :
    State), Keeps F s₁ x1 → Keeps F s₁ (a4 x0 x1)) :
    Keeps F s₀ (State.portServe s a1 a2 a3 a4) := by
  unfold State.portServe; try dsimp only
  repeat' first
    | with_reducible assumption | exact .trans (by decide) hF
    | (refine .of fun p => ?_; cases p <;> first | exact .inr (hF.bit rfl) | (dsimp only [Part.same]; first | exact .inl rfl | exact .inl ⟨rfl, rfl, rfl⟩))
    | intro _ | with_reducible exact .rfl | apply h4 | with_reducible apply keeps_fireArmed
    | with_reducible apply keeps_deliver | split | exact List.prefix_refl _ | with_reducible apply Keeps.upd

theorem keeps_effVigilStatus {F : Nat} {s₀ s : State} (hF : Sub 0x80100a70 F) (h : Keeps F s₀ s) (a0 : Inflight) :
    Keeps F s₀ (effVigilStatus a0 s) := by
  unfold effVigilStatus; try dsimp only
  repeat' first
    | with_reducible assumption | with_reducible apply keeps_finish

theorem keeps_execVigilStatus (s : State) (a0 : Nat) (a1 : Hdr) :
    Next 0x280100bfc s (execVigilStatus a0 a1 s) := by
  refine Next.of ?_
  split
  · exact ⟨a0, keeps_portServe (by decide) .rfl _ _ _ _ fun x0 x1 s₁ h => keeps_deliver (by decide) h _ _ _⟩
  · exact keeps_hostCommand (by decide) _ _ _ _ _ fun _ x0 x1 s₁ h => keeps_effVigilStatus (by decide) h _

theorem keeps_effSafeStateRequest {F : Nat} {s₀ s : State} (hF : Sub 0x4a0100a72 F) (h : Keeps F s₀ s) (a0 : Nat)
    (a1 : Inflight) :
    Keeps F s₀ (effSafeStateRequest a0 a1 s) := by
  unfold effSafeStateRequest; try dsimp only
  repeat' first
    | with_reducible assumption | exact .trans (by decide) hF
    | (refine .of fun p => ?_; cases p <;> first | exact .inr (hF.bit rfl) | (dsimp only [Part.same]; first | exact .inl rfl | exact .inl ⟨rfl, rfl, rfl⟩))
    | intro _ | with_reducible exact .rfl | with_reducible apply keeps_safeCause
    | with_reducible apply keeps_finish | split | exact List.prefix_refl _ | with_reducible apply Keeps.upd

theorem keeps_execSafeStateRequest (s : State) (a0 : Nat) (a1 : Hdr) (a2 : Nat) :
    Next 0x6a0100bfe s (execSafeStateRequest a0 a1 a2 s) := by
  refine Next.of ?_
  split
  · exact ⟨a0, keeps_portServe (by decide) .rfl _ _ _ _ fun x0 x1 s₁ h =>
      keeps_deliver (by decide) (keeps_safeCause (by decide) h _ _) _ _ _⟩
  · exact keeps_hostCommand (by decide) _ _ _ _ _ fun _ x0 x1 s₁ h => keeps_effSafeStateRequest (by decide) h _ _

theorem keeps_portResponse {F : Nat} {s₀ s : State} (hF : Sub 0x200 F) (h : Keeps F s₀ s)  :
    Keeps F s₀ (State.portResponse s) := by
  unfold State.portResponse; try dsimp only
  repeat' first
    | with_reducible assumption | exact .trans (by decide) hF
    | (refine .of fun p => ?_; cases p <;> first | exact .inr (hF.bit rfl) | (dsimp only [Part.same]; first | exact .inl rfl | exact .inl ⟨rfl, rfl, rfl⟩))
    | intro _ | with_reducible exact .rfl | with_reducible apply keeps_emit | split | exact List.prefix_refl _
    | with_reducible apply Keeps.upd

theorem keeps_execSafetyPortResponse (s : State) (a0 : Nat) :
    Next 0x200 s (execSafetyPortResponse a0 s) := by
  refine Next.of ⟨a0, ?_⟩; try dsimp only
  repeat' first
    | exact .trans (by decide) (Sub.refl _) | with_reducible exact .rfl
    | with_reducible apply keeps_portResponse

theorem keeps_portRejects {F : Nat} {s₀ s : State} (hF : Sub 0x200 F) (h : Keeps F s₀ s) (a1 : Bool) :
    Keeps F s₀ (State.portRejects s a1) := by
  unfold State.portRejects; try dsimp only
  repeat' first
    | with_reducible assumption
    | (refine .of fun p => ?_; cases p <;> first | exact .inr (hF.bit rfl) | (dsimp only [Part.same]; first | exact .inl rfl | exact .inl ⟨rfl, rfl, rfl⟩))
    | intro _ | with_reducible exact .rfl | split | exact List.prefix_refl _ | with_reducible apply Keeps.upd

theorem keeps_execSafetyPortCommandRejected (s : State) (a0 : Nat) (a1 : Bool) :
    Next 0x200 s (execSafetyPortCommandRejected a0 a1 s) := by
  refine Next.of ⟨a0, ?_⟩; try dsimp only
  repeat' first
    | exact .trans (by decide) (Sub.refl _) | with_reducible exact .rfl
    | with_reducible apply keeps_portRejects

theorem keeps_refresh {F : Nat} {s₀ s : State} (hF : Sub 0x400000 F) (h : Keeps F s₀ s) (a1 : Nat) (a2 : Nat) :
    Keeps F s₀ (State.refresh s a1 a2) := by
  unfold State.refresh; try dsimp only
  repeat' first
    | with_reducible assumption | with_reducible apply keeps_setMemCh | split

theorem keeps_execRefresh (s : State) (a0 : Nat) (a1 : Nat) (a2 : Nat) :
    Next 0x400000 s (execRefresh a0 a1 a2 s) := by
  refine Next.of ⟨a0, ?_⟩; try dsimp only
  repeat' first
    | exact .trans (by decide) (Sub.refl _) | with_reducible exact .rfl | with_reducible apply keeps_refresh

theorem keeps_calibrate {F : Nat} {s₀ s : State} (hF : Sub 0x180500820 F) (h : Keeps F s₀ s) (a1 : Nat) (a2 : Bool) :
    Keeps F s₀ (State.calibrate s a1 a2) := by
  unfold State.calibrate; try dsimp only
  repeat' first
    | with_reducible assumption | exact .trans (by decide) hF | with_reducible apply keeps_count
    | with_reducible apply keeps_setMemCh | with_reducible apply keeps_markFailing | split

theorem keeps_execChannelCalibration (s : State) (a0 : Nat) (a1 : Nat) (a2 : Bool) :
    Next 0x180500820 s (execChannelCalibration a0 a1 a2 s) := by
  refine Next.of ⟨a0, ?_⟩; try dsimp only
  repeat' first
    | exact .trans (by decide) (Sub.refl _) | with_reducible exact .rfl | with_reducible apply keeps_calibrate

theorem keeps_loseStream {F : Nat} {s₀ s : State} (hF : Sub 0x9a1759a70 F) (h : Keeps F s₀ s) (a1 : Nat) :
    Keeps F s₀ (State.loseStream s a1) := by
  unfold State.loseStream; try dsimp only
  repeat' first
    | with_reducible assumption | exact .trans (by decide) hF | with_reducible apply keeps_freeStream
    | with_reducible apply keeps_endChunks | with_reducible apply keeps_unplan
    | with_reducible apply keeps_finishAll | with_reducible apply keeps_wakeStream
    | with_reducible apply keeps_wakeKey | split

theorem keeps_ctrlMemError {F : Nat} {s₀ s : State} (hF : Sub 0x9a1759a70 F) (h : Keeps F s₀ s) (a1 : Nat) (a2 :
    RowRead) (a3 : RowRead) :
    Keeps F s₀ (State.ctrlMemError s a1 a2 a3) := by
  unfold State.ctrlMemError; try dsimp only
  repeat' first
    | with_reducible assumption | exact .trans (by decide) hF | with_reducible apply keeps_meetRow
    | with_reducible apply keeps_logEvent | with_reducible apply keeps_count
    | with_reducible apply keeps_rowWritten | with_reducible apply keeps_loseStream | split

theorem keeps_dropHeld {F : Nat} {s₀ s : State} (hF : Sub 0x80100010 F) (h : Keeps F s₀ s) (a1 : Nat) :
    Keeps F s₀ (State.dropHeld s a1) := by
  unfold State.dropHeld; try dsimp only
  repeat' first
    | with_reducible assumption | exact .trans (by decide) hF | intro _ | with_reducible exact .rfl
    | with_reducible apply keeps_dropEntry | with_reducible apply keeps_setCq | split
    | with_reducible apply Keeps.foldl

theorem keeps_patrol {F : Nat} {s₀ s : State} (hF : Sub 0x9a1759a70 F) (h : Keeps F s₀ s) (a1 : Nat) (a2 : Nat) (a3
    : RowRead) (a4 : RowRead) (a5 : RowRead) (a6 : RowRead) (a7 : Bool) :
    Keeps F s₀ (State.patrol s a1 a2 a3 a4 a5 a6 a7) := by
  unfold State.patrol; try dsimp only
  repeat' first
    | with_reducible assumption | exact .trans (by decide) hF | with_reducible apply keeps_meetRow
    | with_reducible apply keeps_dropHeld | with_reducible apply keeps_ctrlMemError
    | with_reducible apply keeps_count | split

theorem keeps_execPatrolScrub (s : State) (a0 : Nat) (a1 : Nat) (a2 : Nat) (a3 : RowRead) (a4 : Bool) (a5 :
    RowRead) (a6 : RowRead) (a7 : RowRead) :
    Next 0x9a1759a70 s (execPatrolScrub a0 a1 a2 a3 a4 s a5 a6 a7) := by
  refine Next.of ⟨a0, ?_⟩; try dsimp only
  repeat' first
    | exact .trans (by decide) (Sub.refl _) | with_reducible exact .rfl | with_reducible apply keeps_patrol

theorem keeps_windowRead {F : Nat} {s₀ s : State} (hF : Sub 0x180500820 F) (h : Keeps F s₀ s) (a1 : Nat) (a2 :
    RowRead) (a3 : RowRead) :
    Keeps F s₀ (State.windowRead s a1 a2 a3) := by
  unfold State.windowRead; try dsimp only
  repeat' first
    | with_reducible assumption | exact .trans (by decide) hF | with_reducible apply keeps_emit
    | with_reducible apply keeps_meetRow | split

theorem keeps_execMemoryWindowRead (s : State) (a0 : Nat) (a1 : Nat) (a2 : RowRead) (a3 : RowRead) :
    Next 0x180500820 s (execMemoryWindowRead a0 a1 a2 s a3) := by
  refine Next.of (keeps_readAccess _ _ _ fun x0 s₁ h => ?_)
  try dsimp only
  repeat' first
    | with_reducible assumption | exact .trans (by decide) (Sub.refl _) | with_reducible apply keeps_windowRead

theorem keeps_commandOf {F : Nat} {i : Instr} {c : CmdInfo} {eff : Inflight → State → State} (hF : Sub 0xfbfffff7f F)
    (e : commandOf i = some (c, eff)) (hr : c.inRange = true) (x0 : Inflight) (x1 s₁ : State) (h : Keeps F s₁ x1) :
    Keeps F s₁ (eff x0 x1) := by
  cases i <;>
    first
      | cases e; done
      | (simp only [commandOf, Option.some.injEq, Prod.mk.injEq] at e
         obtain ⟨rfl, rfl⟩ := e
         first
      | with_reducible apply keeps_effNop | with_reducible apply keeps_effDeviceQuery
      | with_reducible apply keeps_effClaim | with_reducible apply keeps_effRelease
      | with_reducible apply keeps_effOwnerQuery | with_reducible apply keeps_effImageLoad
      | with_reducible apply keeps_effImageUnload | with_reducible apply keeps_effImageReload
      | with_reducible apply keeps_effImageQuery | with_reducible apply keeps_effStreamOpen
      | with_reducible apply keeps_effStreamClose | with_reducible apply keeps_effStreamQuery
      | with_reducible apply keeps_effStreamMark | with_reducible apply keeps_effStreamExport
      | with_reducible apply keeps_effStreamImport | with_reducible apply keeps_effStreamInput
      | with_reducible apply keeps_effStreamMove | with_reducible apply keeps_effSpillAssign
      | with_reducible apply keeps_effDisable | with_reducible apply keeps_effEnable
      | with_reducible apply keeps_effUnitReset | with_reducible apply keeps_effUnitQuery
      | with_reducible apply keeps_effPowerCapSet | with_reducible apply keeps_effPowerQuery
      | with_reducible apply keeps_effKeyLoad | with_reducible apply keeps_effKeyClear
      | with_reducible apply keeps_effKeyEnrol | with_reducible apply keeps_effAttest
      | with_reducible apply keeps_effSafeStateRequest | with_reducible apply keeps_effVigilStatus
      | with_reducible apply keeps_effSelfTest | with_reducible apply keeps_effRegRead
      | with_reducible apply keeps_effRegWrite | with_reducible apply keeps_effInject
      | with_reducible apply keeps_effEventMirror | with_reducible apply keeps_effFwWrite
      | with_reducible apply keeps_effFwActivate | with_reducible apply keeps_effDeviceReset
      | with_reducible apply keeps_effFwQuery
      | (refine keeps_effGrant (.trans (by decide) hF) h _ _ _ ?_
         simp [infoGrant] at hr
         omega))
  all_goals first | assumption | exact .trans (by decide) hF

theorem keeps_fenceEnd {F : Nat} {s₀ s : State} (hF : Sub 0xfbfffff7f F) (h : Keeps F s₀ s) (a1 : Master)
    (a2 : Nat) : Keeps F s₀ (State.fenceEnd s a1 a2) := by
  unfold State.fenceEnd
  split
  · exact h
  · split
    · split
      · exact h
      · rename_i e
        refine keeps_takeCmd (.trans (by decide) hF) ?_ _ _ _ (keeps_commandOf hF e)
        refine .upd h id id (List.prefix_refl _) .rfl ?_
        (refine .of fun p => ?_; cases p <;> first | exact .inr (hF.bit rfl) | (dsimp only [Part.same]; first | exact .inl rfl | exact .inl ⟨rfl, rfl, rfl⟩))
    · exact h

theorem keeps_execFenceWaitEnd (s : State) (a0 : Nat) (a1 : Master) (a2 : Nat) :
    Next 0xfbfffff7f s (execFenceWaitEnd a0 a1 a2 s) := by
  refine Next.of ⟨s.ctrlStart a0, ?_⟩; try dsimp only [State.atCtrl]
  repeat' first
    | exact .trans (by decide) (Sub.refl _) | with_reducible exact .rfl | with_reducible apply keeps_fenceEnd

end Sys2Proof.Machine
end

