-- ==== Sys2Proof/Laws/KeepsStep.lean ====
section
/-! SUPPORT. What every command and every step keeps, and what it leaves outside its footprint. -/

namespace Sys2Proof.Machine

open Sys2Proof.Safety

/-- A footprint as a number. -/
def partMask (l : List Part) : Nat := l.foldr (fun p m => 2 ^ Part.idx p ||| m) 0

theorem Part.idx_inj {p q : Part} (h : Part.idx p = Part.idx q) : p = q := by
  cases p <;> cases q <;> first | rfl | cases h

theorem mem_of_partMask {l : List Part} {p : Part} (h : (partMask l).testBit (Part.idx p) = true) : p ∈ l := by
  induction l with
  | nil => simp [partMask] at h
  | cons q r ih =>
    simp only [partMask, List.foldr_cons, Nat.testBit_or, Bool.or_eq_true] at h
    rcases h with h | h
    · rw [Nat.testBit_two_pow] at h
      rw [Part.idx_inj (of_decide_eq_true h)]
      simp
    · exact List.mem_cons_of_mem _ (ih h)

/-- Every command and event has an effect, at some time `t`; from then on it keeps what `Keeps` says within its
footprint. -/
theorem exec_keeps (c : Instr) (s : State) : Next (partMask (footprint c)) s (exec c s) := by
  cases c
  case nop => exact keeps_execNop ..
  case deviceQuery => exact keeps_execDeviceQuery ..
  case claim => exact keeps_execClaim ..
  case release => exact keeps_execRelease ..
  case grant => exact keeps_execGrant ..
  case ownerQuery => exact keeps_execOwnerQuery ..
  case imageLoad => exact keeps_execImageLoad ..
  case imageUnload => exact keeps_execImageUnload ..
  case imageReload => exact keeps_execImageReload ..
  case imageQuery => exact keeps_execImageQuery ..
  case streamOpen => exact keeps_execStreamOpen ..
  case streamClose => exact keeps_execStreamClose ..
  case streamQuery => exact keeps_execStreamQuery ..
  case streamMark => exact keeps_execStreamMark ..
  case streamExport => exact keeps_execStreamExport ..
  case streamImport => exact keeps_execStreamImport ..
  case streamInput => exact keeps_execStreamInput ..
  case streamMove => exact keeps_execStreamMove ..
  case spillAssign => exact keeps_execSpillAssign ..
  case disable => exact keeps_execDisable ..
  case enable => exact keeps_execEnable ..
  case unitReset => exact keeps_execUnitReset ..
  case unitQuery => exact keeps_execUnitQuery ..
  case powerCapSet => exact keeps_execPowerCapSet ..
  case powerQuery => exact keeps_execPowerQuery ..
  case keyLoad => exact keeps_execKeyLoad ..
  case keyClear => exact keeps_execKeyClear ..
  case keyEnrol => exact keeps_execKeyEnrol ..
  case attest => exact keeps_execAttest ..
  case safeStateRequest => exact keeps_execSafeStateRequest ..
  case vigilStatus => exact keeps_execVigilStatus ..
  case selfTest => exact keeps_execSelfTest ..
  case regRead => exact keeps_execRegRead ..
  case regWrite => exact keeps_execRegWrite ..
  case inject => exact keeps_execInject ..
  case eventMirror => exact keeps_execEventMirror ..
  case fwWrite => exact keeps_execFwWrite ..
  case fwActivate => exact keeps_execFwActivate ..
  case deviceReset => exact keeps_execDeviceReset ..
  case fwQuery => exact keeps_execFwQuery ..
  case fenceWaitEnd => exact keeps_execFenceWaitEnd ..
  case sqTail => exact keeps_execSqTail ..
  case cqHead => exact keeps_execCqHead ..
  case ringSqEnable => exact keeps_execRingSqEnable ..
  case ringSqDisable => exact keeps_execRingSqDisable ..
  case ringCqEnable => exact keeps_execRingCqEnable ..
  case ringCqDisable => exact keeps_execRingCqDisable ..
  case coalesceTimeout => exact keeps_execCoalesceTimeout ..
  case portCfgWrite => exact keeps_execPortCfgWrite ..
  case rxMaskWrite => exact keeps_execRxMaskWrite ..
  case txMaskWrite => exact keeps_execTxMaskWrite ..
  case membersWrite => exact keeps_execMembersWrite ..
  case arm => exact keeps_execArm ..
  case fire => exact keeps_execFire ..
  case disarm => exact keeps_execDisarm ..
  case devIntClear => exact keeps_execDevIntClear ..
  case devIntEnWrite => exact keeps_execDevIntEnWrite ..
  case msixUnmask => exact keeps_execMsixUnmask ..
  case registerWrite => exact keeps_execRegisterWrite ..
  case readClear => exact keeps_execReadClear ..
  case pairLoRead => exact keeps_execPairLoRead ..
  case safetyPortResponse => exact keeps_execSafetyPortResponse ..
  case leaseExpiry => exact keeps_execLeaseExpiry ..
  case linkDown => exact keeps_execLinkDown ..
  case linkUp => exact keeps_execLinkUp ..
  case functionLevelReset => exact keeps_execFunctionLevelReset ..
  case perstNLow => exact keeps_execPerstNLow ..
  case perstNHigh => exact keeps_execPerstNHigh ..
  case powerUp => exact keeps_execPowerUp ..
  case vigilImageVerify => exact keeps_execVigilImageVerify ..
  case firmwareBoot => exact keeps_execFirmwareBoot ..
  case groupsLeaveReset => exact keeps_execGroupsLeaveReset ..
  case startupInjectionEnd => exact keeps_execStartupInjectionEnd ..
  case abandonRuns => exact keeps_execAbandonRuns ..
  case domainReset => exact keeps_execDomainReset ..
  case imageHashCheck => exact keeps_execImageHashCheck ..
  case sStreamReopen => exact keeps_execSStreamReopen ..
  case resumption => exact keeps_execResumption ..
  case watchdogExpiry => exact keeps_execWatchdogExpiry ..
  case autoDegrade => exact keeps_execAutoDegrade ..
  case rootLockLoss => exact keeps_execRootLockLoss ..
  case rootRelock => exact keeps_execRootRelock ..
  case refclkLoss => exact keeps_execRefclkLoss ..
  case coolantLoss => exact keeps_execCoolantLoss ..
  case coolantGlitch => exact keeps_execCoolantGlitch ..
  case stopClockGate => exact keeps_execStopClockGate ..
  case stopComplete => exact keeps_execStopComplete ..
  case vin48Loss => exact keeps_execVin48Loss ..
  case vstbyLoss => exact keeps_execVstbyLoss ..
  case sensorRead => exact keeps_execSensorRead ..
  case powerInterval => exact keeps_execPowerInterval ..
  case capUpdate => exact keeps_execCapUpdate ..
  case roundStart => exact keeps_execRoundStart ..
  case almanacSlotEnd => exact keeps_execAlmanacSlotEnd ..
  case readinessNotice => exact keeps_execReadinessNotice ..
  case swapInDone => exact keeps_execSwapInDone ..
  case swapOutDone => exact keeps_execSwapOutDone ..
  case exportBegin => exact keeps_execExportBegin ..
  case exportDone => exact keeps_execExportDone ..
  case moveBegin => exact keeps_execMoveBegin ..
  case moveEnd => exact keeps_execMoveEnd ..
  case streamClosed => exact keeps_execStreamClosed ..
  case unitDisabled => exact keeps_execUnitDisabled ..
  case unitResetEnd => exact keeps_execUnitResetEnd ..
  case loadSeg => exact keeps_execLoadSeg ..
  case segmentArrival => exact keeps_execSegmentArrival ..
  case start => exact keeps_execStart ..
  case expand => exact keeps_execExpand ..
  case blockDecode => exact keeps_execBlockDecode ..
  case expanderBlockArrival => exact keeps_execExpanderBlockArrival ..
  case fetch => exact keeps_execFetch ..
  case store => exact keeps_execStore ..
  case xfer => exact keeps_execXfer ..
  case stateIn => exact keeps_execStateIn ..
  case stateOut => exact keeps_execStateOut ..
  case input => exact keeps_execInput ..
  case output => exact keeps_execOutput ..
  case barrier => exact keeps_execBarrier ..
  case endRun => exact keeps_execEndRun ..
  case gapEnd => exact keeps_execGapEnd ..
  case rowDue => exact keeps_execRowDue ..
  case memoryRowArrival => exact keeps_execMemoryRowArrival ..
  case rereadArrival => exact keeps_execRereadArrival ..
  case storeBufferDrain => exact keeps_execStoreBufferDrain ..
  case scrubHoldEnd => exact keeps_execScrubHoldEnd ..
  case holdTimeout => exact keeps_execHoldTimeout ..
  case quiesceEnd => exact keeps_execQuiesceEnd ..
  case commitState => exact keeps_execCommitState ..
  case commitOutput => exact keeps_execCommitOutput ..
  case completionStamp => exact keeps_execCompletionStamp ..
  case controlNop => exact keeps_execControlNop ..
  case wait => exact keeps_execWait ..
  case loop => exact keeps_execLoop ..
  case halt => exact keeps_execHalt ..
  case mma => exact keeps_execMma ..
  case mepi => exact keeps_execMepi ..
  case mfac => exact keeps_execMfac ..
  case epilogueEnd => exact keeps_execEpilogueEnd ..
  case factorFormationEnd => exact keeps_execFactorFormationEnd ..
  case seta => exact keeps_execSeta ..
  case setb => exact keeps_execSetb ..
  case ew => exact keeps_execEw ..
  case cvt => exact keeps_execCvt ..
  case red => exact keeps_execRed ..
  case ldlut => exact keeps_execLdlut ..
  case scan => exact keeps_execScan ..
  case vectorOperationEnd => exact keeps_execVectorOperationEnd ..
  case receiveFrame => exact keeps_execReceiveFrame ..
  case transmitFrameStart => exact keeps_execTransmitFrameStart ..
  case paceTick => exact keeps_execPaceTick ..
  case rateWindowEnd => exact keeps_execRateWindowEnd ..
  case subWindowEnd => exact keeps_execSubWindowEnd ..
  case noClock => exact keeps_execNoClock ..
  case equinoxMasterRestart => exact keeps_execEquinoxMasterRestart ..
  case equinoxTrigger => exact keeps_execEquinoxTrigger ..
  case eqxOffsetWindow => exact keeps_execEqxOffsetWindow ..
  case hopEnd => exact keeps_execHopEnd ..
  case alertHoldEnd => exact keeps_execAlertHoldEnd ..
  case vigilSelfCheck => exact keeps_execVigilSelfCheck ..
  case tapLost => exact keeps_execTapLost ..
  case refresh => exact keeps_execRefresh ..
  case channelCalibration => exact keeps_execChannelCalibration ..
  case patrolScrub => exact keeps_execPatrolScrub ..
  case injectTimeout => exact keeps_execInjectTimeout ..
  case importDone => exact keeps_execImportDone ..
  case fwWriteDone => exact keeps_execFwWriteDone ..
  case repairRecordWritten => exact keeps_execRepairRecordWritten ..
  case safetyPortCommandRejected => exact keeps_execSafetyPortCommandRejected ..
  case memoryWindowRead => exact keeps_execMemoryWindowRead ..
  case configurationRequest => exact keeps_execConfigurationRequest ..
  case coolantRestored => exact keeps_execCoolantRestored ..
  case refclkReturn => exact keeps_execRefclkReturn ..

/-- What a command keeps, of whatever state it answers. -/
theorem exec_keeps_of {c : Instr} {s s' : State} (e : exec c s = .next s') :
    ∃ t, Keeps (partMask (footprint c)) (s.advance t) s' := by
  obtain ⟨t, s₁, e₁, k⟩ := exec_keeps c s
  rw [e] at e₁
  injection e₁ with e₁
  exact ⟨t, e₁ ▸ k⟩

/-- The state at time `t` before anything that falls due by then. -/
theorem keeps_advance (s : State) (t : Nat) :
    Keeps (partMask advanceParts) { s with now := max s.now t, outs := [] } (s.advance t) :=
  keeps_numberEntries (by decide) (keeps_settle (by decide) .rfl)

@[simp] theorem advance_now (s : State) (t : Nat) : (s.advance t).now = max s.now t := (keeps_advance s t).now

@[simp] theorem advance_pending (s : State) (t : Nat) : (s.advance t).pending = s.pending := (keeps_advance s t).pending

@[simp] theorem advance_max (s : State) (t : Nat) : s.advance (max s.now t) = s.advance t := by
  simp [State.advance, State.tick]

/-- A larger footprint. -/
theorem Keeps.mono {F G : Nat} {s s' : State} (h : Keeps F s s') (hF : Sub F G) : Keeps G s s' :=
  { h with frame := .of fun p => (h.frame.out p).imp_right hF.bit }

theorem Sub.or_left (a b : Nat) : Sub a (a ||| b) := by
  refine Nat.eq_of_testBit_eq fun i => ?_
  cases h : a.testBit i <;> simp [h]

theorem Sub.or_right (a b : Nat) : Sub b (a ||| b) := by
  rw [Nat.or_comm]
  exact .or_left b a

/-- The time that a command's state shows is that to which the device had advanced. -/
theorem exec_keeps_now {c : Instr} {s s' : State} (e : exec c s = .next s') :
    Keeps (partMask (footprint c)) (s.advance s'.now) s' := by
  obtain ⟨t, k⟩ := exec_keeps_of e
  have h : s'.now = max s.now t := by rw [k.now, advance_now]
  rw [h, advance_max]
  exact k

/-- The clock never runs back. -/
theorem exec_now_le {c : Instr} {s s' : State} (e : exec c s = .next s') : s.now ≤ s'.now := by
  rw [(exec_keeps_now e).now, advance_now]
  exact le_max_left _ _

/-- A command with all that falls due up to its time. -/
theorem exec_keeps_all {c : Instr} {s s' : State} (e : exec c s = .next s') :
    Keeps (partMask advanceParts ||| partMask (footprint c)) { s with now := s'.now, outs := [] } s' := by
  have k := exec_keeps_now e
  have h := (keeps_advance s s'.now).mono (.or_left _ (partMask (footprint c)))
  rw [max_eq_right (exec_now_le e)] at h
  exact h.trans (k.mono (.or_right _ _))

/-- A command reads and writes nothing of the queue. -/
theorem exec_pending {c : Instr} {s s' : State} (e : exec c s = .next s') : s'.pending = s.pending :=
  (exec_keeps_all e).pending

/-- As time passes, nothing changes outside `advanceParts`: the clock and what leaves the device are no parts. -/
theorem same_advance {p : Part} (hp : p ∉ advanceParts) (s : State) (t : Nat) : p.same s (s.advance t) := by
  rcases (keeps_advance s t).frame.out p with h | h
  · cases p <;> exact h
  · exact absurd (mem_of_partMask h) hp

/-- A command changes nothing outside its footprint, once the device has advanced to its time. -/
theorem exec_outside {c : Instr} {s s' : State} (e : exec c s = .next s') {p : Part} (hp : p ∉ footprint c) :
    p.same (s.advance s'.now) s' := by
  rcases (exec_keeps_now e).frame.out p with h | h
  · exact h
  · exact absurd (mem_of_partMask h) hp

/-! ### What the passing of time leaves -/

@[simp] theorem State.advance_free (s : State) (t : Nat) : (s.advance t).free = s.free :=
  same_advance (p := .free) (by decide) s t
@[simp] theorem State.advance_life (s : State) (t : Nat) : (s.advance t).life = s.life :=
  same_advance (p := .life) (by decide) s t
@[simp] theorem State.advance_owner (s : State) (t : Nat) : (s.advance t).owner = s.owner :=
  same_advance (p := .owner) (by decide) s t
@[simp] theorem State.advance_sq (s : State) (t : Nat) : (s.advance t).sq = s.sq :=
  same_advance (p := .sq) (by decide) s t
@[simp] theorem State.advance_nextCmd (s : State) (t : Nat) : (s.advance t).nextCmd = s.nextCmd :=
  same_advance (p := .nextCmd) (by decide) s t
@[simp] theorem State.advance_fenced (s : State) (t : Nat) : (s.advance t).fenced = s.fenced :=
  same_advance (p := .fenced) (by decide) s t
@[simp] theorem State.advance_latches (s : State) (t : Nat) : (s.advance t).latches = s.latches :=
  same_advance (p := .latches) (by decide) s t
@[simp] theorem State.advance_images (s : State) (t : Nat) : (s.advance t).images = s.images :=
  same_advance (p := .images) (by decide) s t
@[simp] theorem State.advance_nearAlloc (s : State) (t : Nat) : (s.advance t).nearAlloc = s.nearAlloc :=
  same_advance (p := .nearAlloc) (by decide) s t
@[simp] theorem State.advance_farAlloc (s : State) (t : Nat) : (s.advance t).farAlloc = s.farAlloc :=
  same_advance (p := .farAlloc) (by decide) s t
@[simp] theorem State.advance_spillAlloc (s : State) (t : Nat) : (s.advance t).spillAlloc = s.spillAlloc :=
  same_advance (p := .spillAlloc) (by decide) s t
@[simp] theorem State.advance_spill (s : State) (t : Nat) : (s.advance t).spill = s.spill :=
  same_advance (p := .spill) (by decide) s t
@[simp] theorem State.advance_ports (s : State) (t : Nat) : (s.advance t).ports = s.ports :=
  same_advance (p := .ports) (by decide) s t
@[simp] theorem State.advance_chans (s : State) (t : Nat) : (s.advance t).chans = s.chans :=
  same_advance (p := .chans) (by decide) s t
@[simp] theorem State.advance_eqx (s : State) (t : Nat) : (s.advance t).eqx = s.eqx :=
  same_advance (p := .eqx) (by decide) s t
@[simp] theorem State.advance_cfg (s : State) (t : Nat) : (s.advance t).cfg = s.cfg :=
  same_advance (p := .cfg) (by decide) s t
@[simp] theorem State.advance_power (s : State) (t : Nat) : (s.advance t).power = s.power :=
  same_advance (p := .power) (by decide) s t
@[simp] theorem State.advance_vigil (s : State) (t : Nat) : (s.advance t).vigil = s.vigil :=
  same_advance (p := .vigil) (by decide) s t
@[simp] theorem State.advance_boot (s : State) (t : Nat) : (s.advance t).boot = s.boot :=
  same_advance (p := .boot) (by decide) s t
@[simp] theorem State.advance_keys (s : State) (t : Nat) : (s.advance t).keys = s.keys :=
  same_advance (p := .keys) (by decide) s t
@[simp] theorem State.advance_spillKey (s : State) (t : Nat) : (s.advance t).spillKey = s.spillKey :=
  same_advance (p := .spillKey) (by decide) s t
@[simp] theorem State.advance_cometUnit (s : State) (t : Nat) : (s.advance t).cometUnit = s.cometUnit :=
  (same_advance (p := .comet) (by decide) s t).1
@[simp] theorem State.advance_cometToOff (s : State) (t : Nat) : (s.advance t).cometToOff = s.cometToOff :=
  (same_advance (p := .comet) (by decide) s t).2.1
@[simp] theorem State.advance_cometResetAfter (s : State) (t : Nat) : (s.advance t).cometResetAfter = s.cometResetAfter :=
  (same_advance (p := .comet) (by decide) s t).2.2

@[simp] theorem State.advance_img (s : State) (t : Nat) (n : Nat) : (s.advance t).img n = s.img n := by
  simp [State.img]
@[simp] theorem State.advance_sqr (s : State) (t : Nat) (n : Nat) : (s.advance t).sqr n = s.sqr n := by
  simp [State.sqr]
@[simp] theorem State.advance_prt (s : State) (t : Nat) (n : Nat) : (s.advance t).prt n = s.prt n := by
  simp [State.prt]
@[simp] theorem State.advance_chn (s : State) (t : Nat) (p k d : Nat) : (s.advance t).chn p k d = s.chn p k d := by
  simp [State.chn]
@[simp] theorem State.advance_eqxOf (s : State) (t : Nat) (n : Nat) : (s.advance t).eqxOf n = s.eqxOf n := by
  simp [State.eqxOf]
@[simp] theorem State.advance_keyAt (s : State) (t : Nat) (n : Nat) : (s.advance t).keyAt n = s.keyAt n := by
  simp [State.keyAt]
@[simp] theorem State.advance_controlUp (s : State) (t : Nat) : (s.advance t).controlUp = s.controlUp := by
  simp [State.controlUp]
@[simp] theorem State.advance_isStopped (s : State) (t : Nat) : (s.advance t).isStopped = s.isStopped := by
  simp [State.isStopped]
@[simp] theorem State.advance_standbyUp (s : State) (t : Nat) : (s.advance t).standbyUp = s.standbyUp := by
  simp [State.standbyUp]
@[simp] theorem State.advance_firmwareUp (s : State) (t : Nat) : (s.advance t).firmwareUp = s.firmwareUp := by
  simp [State.firmwareUp]
@[simp] theorem State.advance_romRuns (s : State) (t : Nat) : (s.advance t).romRuns = s.romRuns := by
  simp [State.romRuns]
@[simp] theorem State.advance_isReady (s : State) (t : Nat) : (s.advance t).isReady = s.isReady := by
  simp [State.isReady]
@[simp] theorem State.advance_resetting (s : State) (t : Nat) : (s.advance t).resetting = s.resetting := by
  simp [State.resetting]

end Sys2Proof.Machine
end

