-- ==== Sys2Proof/Laws/State.lean ====
section
/-! SUPPORT. What each update of one part of the state leaves of the others: a lemma for every field and every update,
and for every reader of a part. -/

namespace Sys2Proof.Machine

variable (s : State)

/-! ### `State.tick` -/

@[simp] theorem State.tick_pending (t : Nat) : (s.tick t).pending = s.pending := rfl
@[simp] theorem State.tick_free (t : Nat) : (s.tick t).free = s.free := rfl
@[simp] theorem State.tick_outs (t : Nat) : (s.tick t).outs = s.outs := rfl
@[simp] theorem State.tick_life (t : Nat) : (s.tick t).life = s.life := rfl
@[simp] theorem State.tick_owner (t : Nat) : (s.tick t).owner = s.owner := rfl
@[simp] theorem State.tick_sq (t : Nat) : (s.tick t).sq = s.sq := rfl
@[simp] theorem State.tick_cq (t : Nat) : (s.tick t).cq = s.cq := rfl
@[simp] theorem State.tick_hif (t : Nat) : (s.tick t).hif = s.hif := rfl
@[simp] theorem State.tick_inflight (t : Nat) : (s.tick t).inflight = s.inflight := rfl
@[simp] theorem State.tick_nextCmd (t : Nat) : (s.tick t).nextCmd = s.nextCmd := rfl
@[simp] theorem State.tick_fenced (t : Nat) : (s.tick t).fenced = s.fenced := rfl
@[simp] theorem State.tick_safePort (t : Nat) : (s.tick t).safePort = s.safePort := rfl
@[simp] theorem State.tick_latches (t : Nat) : (s.tick t).latches = s.latches := rfl
@[simp] theorem State.tick_hostMem (t : Nat) : (s.tick t).hostMem = s.hostMem := rfl
@[simp] theorem State.tick_streams (t : Nat) : (s.tick t).streams = s.streams := rfl
@[simp] theorem State.tick_images (t : Nat) : (s.tick t).images = s.images := rfl
@[simp] theorem State.tick_nearAlloc (t : Nat) : (s.tick t).nearAlloc = s.nearAlloc := rfl
@[simp] theorem State.tick_farAlloc (t : Nat) : (s.tick t).farAlloc = s.farAlloc := rfl
@[simp] theorem State.tick_spillAlloc (t : Nat) : (s.tick t).spillAlloc = s.spillAlloc := rfl
@[simp] theorem State.tick_spill (t : Nat) : (s.tick t).spill = s.spill := rfl
@[simp] theorem State.tick_groups (t : Nat) : (s.tick t).groups = s.groups := rfl
@[simp] theorem State.tick_clusters (t : Nat) : (s.tick t).clusters = s.clusters := rfl
@[simp] theorem State.tick_ctr (t : Nat) : (s.tick t).ctr = s.ctr := rfl
@[simp] theorem State.tick_mem (t : Nat) : (s.tick t).mem = s.mem := rfl
@[simp] theorem State.tick_channels (t : Nat) : (s.tick t).channels = s.channels := rfl
@[simp] theorem State.tick_ports (t : Nat) : (s.tick t).ports = s.ports := rfl
@[simp] theorem State.tick_chans (t : Nat) : (s.tick t).chans = s.chans := rfl
@[simp] theorem State.tick_eqx (t : Nat) : (s.tick t).eqx = s.eqx := rfl
@[simp] theorem State.tick_cometUnit (t : Nat) : (s.tick t).cometUnit = s.cometUnit := rfl
@[simp] theorem State.tick_cometToOff (t : Nat) : (s.tick t).cometToOff = s.cometToOff := rfl
@[simp] theorem State.tick_cometResetAfter (t : Nat) : (s.tick t).cometResetAfter = s.cometResetAfter := rfl
@[simp] theorem State.tick_cfg (t : Nat) : (s.tick t).cfg = s.cfg := rfl
@[simp] theorem State.tick_power (t : Nat) : (s.tick t).power = s.power := rfl
@[simp] theorem State.tick_safety (t : Nat) : (s.tick t).safety = s.safety := rfl
@[simp] theorem State.tick_vigil (t : Nat) : (s.tick t).vigil = s.vigil := rfl
@[simp] theorem State.tick_log (t : Nat) : (s.tick t).log = s.log := rfl
@[simp] theorem State.tick_repair (t : Nat) : (s.tick t).repair = s.repair := rfl
@[simp] theorem State.tick_armed (t : Nat) : (s.tick t).armed = s.armed := rfl
@[simp] theorem State.tick_boot (t : Nat) : (s.tick t).boot = s.boot := rfl
@[simp] theorem State.tick_keys (t : Nat) : (s.tick t).keys = s.keys := rfl
@[simp] theorem State.tick_spillKey (t : Nat) : (s.tick t).spillKey = s.spillKey := rfl

@[simp] theorem State.tick_grp (t : Nat) (g' : Nat) : (s.tick t).grp g' = s.grp g' := rfl
@[simp] theorem State.tick_clu (t : Nat) (g' p' : Nat) : (s.tick t).clu g' p' = s.clu g' p' := rfl
@[simp] theorem State.tick_str (t : Nat) (n' : Nat) : (s.tick t).str n' = s.str n' := rfl
@[simp] theorem State.tick_img (t : Nat) (h' : Nat) : (s.tick t).img h' = s.img h' := rfl
@[simp] theorem State.tick_sqr (t : Nat) (n' : Nat) : (s.tick t).sqr n' = s.sqr n' := rfl
@[simp] theorem State.tick_cqr (t : Nat) (n' : Nat) : (s.tick t).cqr n' = s.cqr n' := rfl
@[simp] theorem State.tick_prt (t : Nat) (p' : Nat) : (s.tick t).prt p' = s.prt p' := rfl
@[simp] theorem State.tick_eqxOf (t : Nat) (e' : Nat) : (s.tick t).eqxOf e' = s.eqxOf e' := rfl
@[simp] theorem State.tick_memCh (t : Nat) (c' : Nat) : (s.tick t).memCh c' = s.memCh c' := rfl
@[simp] theorem State.tick_ctrAt (t : Nat) (o' : Nat) : (s.tick t).ctrAt o' = s.ctrAt o' := rfl
@[simp] theorem State.tick_safeS (t : Nat) (n' : Nat) : (s.tick t).safeS n' = s.safeS n' := rfl
@[simp] theorem State.tick_armedAt (t : Nat) (d' : Nat) : (s.tick t).armedAt d' = s.armedAt d' := rfl
@[simp] theorem State.tick_keyAt (t : Nat) (n' : Nat) : (s.tick t).keyAt n' = s.keyAt n' := rfl

/-! ### `State.setGrp` -/

@[simp] theorem State.setGrp_pending (g : Nat) (v : Group) : (s.setGrp g v).pending = s.pending := rfl
@[simp] theorem State.setGrp_now (g : Nat) (v : Group) : (s.setGrp g v).now = s.now := rfl
@[simp] theorem State.setGrp_free (g : Nat) (v : Group) : (s.setGrp g v).free = s.free := rfl
@[simp] theorem State.setGrp_outs (g : Nat) (v : Group) : (s.setGrp g v).outs = s.outs := rfl
@[simp] theorem State.setGrp_life (g : Nat) (v : Group) : (s.setGrp g v).life = s.life := rfl
@[simp] theorem State.setGrp_owner (g : Nat) (v : Group) : (s.setGrp g v).owner = s.owner := rfl
@[simp] theorem State.setGrp_sq (g : Nat) (v : Group) : (s.setGrp g v).sq = s.sq := rfl
@[simp] theorem State.setGrp_cq (g : Nat) (v : Group) : (s.setGrp g v).cq = s.cq := rfl
@[simp] theorem State.setGrp_hif (g : Nat) (v : Group) : (s.setGrp g v).hif = s.hif := rfl
@[simp] theorem State.setGrp_inflight (g : Nat) (v : Group) : (s.setGrp g v).inflight = s.inflight := rfl
@[simp] theorem State.setGrp_nextCmd (g : Nat) (v : Group) : (s.setGrp g v).nextCmd = s.nextCmd := rfl
@[simp] theorem State.setGrp_fenced (g : Nat) (v : Group) : (s.setGrp g v).fenced = s.fenced := rfl
@[simp] theorem State.setGrp_safePort (g : Nat) (v : Group) : (s.setGrp g v).safePort = s.safePort := rfl
@[simp] theorem State.setGrp_latches (g : Nat) (v : Group) : (s.setGrp g v).latches = s.latches := rfl
@[simp] theorem State.setGrp_hostMem (g : Nat) (v : Group) : (s.setGrp g v).hostMem = s.hostMem := rfl
@[simp] theorem State.setGrp_streams (g : Nat) (v : Group) : (s.setGrp g v).streams = s.streams := rfl
@[simp] theorem State.setGrp_images (g : Nat) (v : Group) : (s.setGrp g v).images = s.images := rfl
@[simp] theorem State.setGrp_nearAlloc (g : Nat) (v : Group) : (s.setGrp g v).nearAlloc = s.nearAlloc := rfl
@[simp] theorem State.setGrp_farAlloc (g : Nat) (v : Group) : (s.setGrp g v).farAlloc = s.farAlloc := rfl
@[simp] theorem State.setGrp_spillAlloc (g : Nat) (v : Group) : (s.setGrp g v).spillAlloc = s.spillAlloc := rfl
@[simp] theorem State.setGrp_spill (g : Nat) (v : Group) : (s.setGrp g v).spill = s.spill := rfl
@[simp] theorem State.setGrp_clusters (g : Nat) (v : Group) : (s.setGrp g v).clusters = s.clusters := rfl
@[simp] theorem State.setGrp_ctr (g : Nat) (v : Group) : (s.setGrp g v).ctr = s.ctr := rfl
@[simp] theorem State.setGrp_mem (g : Nat) (v : Group) : (s.setGrp g v).mem = s.mem := rfl
@[simp] theorem State.setGrp_channels (g : Nat) (v : Group) : (s.setGrp g v).channels = s.channels := rfl
@[simp] theorem State.setGrp_ports (g : Nat) (v : Group) : (s.setGrp g v).ports = s.ports := rfl
@[simp] theorem State.setGrp_chans (g : Nat) (v : Group) : (s.setGrp g v).chans = s.chans := rfl
@[simp] theorem State.setGrp_eqx (g : Nat) (v : Group) : (s.setGrp g v).eqx = s.eqx := rfl
@[simp] theorem State.setGrp_cometUnit (g : Nat) (v : Group) : (s.setGrp g v).cometUnit = s.cometUnit := rfl
@[simp] theorem State.setGrp_cometToOff (g : Nat) (v : Group) : (s.setGrp g v).cometToOff = s.cometToOff := rfl
@[simp] theorem State.setGrp_cometResetAfter (g : Nat) (v : Group) : (s.setGrp g v).cometResetAfter = s.cometResetAfter := rfl
@[simp] theorem State.setGrp_cfg (g : Nat) (v : Group) : (s.setGrp g v).cfg = s.cfg := rfl
@[simp] theorem State.setGrp_power (g : Nat) (v : Group) : (s.setGrp g v).power = s.power := rfl
@[simp] theorem State.setGrp_safety (g : Nat) (v : Group) : (s.setGrp g v).safety = s.safety := rfl
@[simp] theorem State.setGrp_vigil (g : Nat) (v : Group) : (s.setGrp g v).vigil = s.vigil := rfl
@[simp] theorem State.setGrp_log (g : Nat) (v : Group) : (s.setGrp g v).log = s.log := rfl
@[simp] theorem State.setGrp_repair (g : Nat) (v : Group) : (s.setGrp g v).repair = s.repair := rfl
@[simp] theorem State.setGrp_armed (g : Nat) (v : Group) : (s.setGrp g v).armed = s.armed := rfl
@[simp] theorem State.setGrp_boot (g : Nat) (v : Group) : (s.setGrp g v).boot = s.boot := rfl
@[simp] theorem State.setGrp_keys (g : Nat) (v : Group) : (s.setGrp g v).keys = s.keys := rfl
@[simp] theorem State.setGrp_spillKey (g : Nat) (v : Group) : (s.setGrp g v).spillKey = s.spillKey := rfl

@[simp] theorem State.setGrp_clu (g : Nat) (v : Group) (g' p' : Nat) : (s.setGrp g v).clu g' p' = s.clu g' p' := rfl
@[simp] theorem State.setGrp_str (g : Nat) (v : Group) (n' : Nat) : (s.setGrp g v).str n' = s.str n' := rfl
@[simp] theorem State.setGrp_img (g : Nat) (v : Group) (h' : Nat) : (s.setGrp g v).img h' = s.img h' := rfl
@[simp] theorem State.setGrp_sqr (g : Nat) (v : Group) (n' : Nat) : (s.setGrp g v).sqr n' = s.sqr n' := rfl
@[simp] theorem State.setGrp_cqr (g : Nat) (v : Group) (n' : Nat) : (s.setGrp g v).cqr n' = s.cqr n' := rfl
@[simp] theorem State.setGrp_prt (g : Nat) (v : Group) (p' : Nat) : (s.setGrp g v).prt p' = s.prt p' := rfl
@[simp] theorem State.setGrp_eqxOf (g : Nat) (v : Group) (e' : Nat) : (s.setGrp g v).eqxOf e' = s.eqxOf e' := rfl
@[simp] theorem State.setGrp_memCh (g : Nat) (v : Group) (c' : Nat) : (s.setGrp g v).memCh c' = s.memCh c' := rfl
@[simp] theorem State.setGrp_ctrAt (g : Nat) (v : Group) (o' : Nat) : (s.setGrp g v).ctrAt o' = s.ctrAt o' := rfl
@[simp] theorem State.setGrp_safeS (g : Nat) (v : Group) (n' : Nat) : (s.setGrp g v).safeS n' = s.safeS n' := rfl
@[simp] theorem State.setGrp_armedAt (g : Nat) (v : Group) (d' : Nat) : (s.setGrp g v).armedAt d' = s.armedAt d' := rfl
@[simp] theorem State.setGrp_keyAt (g : Nat) (v : Group) (n' : Nat) : (s.setGrp g v).keyAt n' = s.keyAt n' := rfl

/-! ### `State.setClu` -/

@[simp] theorem State.setClu_pending (g p : Nat) (v : Cluster) : (s.setClu g p v).pending = s.pending := rfl
@[simp] theorem State.setClu_now (g p : Nat) (v : Cluster) : (s.setClu g p v).now = s.now := rfl
@[simp] theorem State.setClu_free (g p : Nat) (v : Cluster) : (s.setClu g p v).free = s.free := rfl
@[simp] theorem State.setClu_outs (g p : Nat) (v : Cluster) : (s.setClu g p v).outs = s.outs := rfl
@[simp] theorem State.setClu_life (g p : Nat) (v : Cluster) : (s.setClu g p v).life = s.life := rfl
@[simp] theorem State.setClu_owner (g p : Nat) (v : Cluster) : (s.setClu g p v).owner = s.owner := rfl
@[simp] theorem State.setClu_sq (g p : Nat) (v : Cluster) : (s.setClu g p v).sq = s.sq := rfl
@[simp] theorem State.setClu_cq (g p : Nat) (v : Cluster) : (s.setClu g p v).cq = s.cq := rfl
@[simp] theorem State.setClu_hif (g p : Nat) (v : Cluster) : (s.setClu g p v).hif = s.hif := rfl
@[simp] theorem State.setClu_inflight (g p : Nat) (v : Cluster) : (s.setClu g p v).inflight = s.inflight := rfl
@[simp] theorem State.setClu_nextCmd (g p : Nat) (v : Cluster) : (s.setClu g p v).nextCmd = s.nextCmd := rfl
@[simp] theorem State.setClu_fenced (g p : Nat) (v : Cluster) : (s.setClu g p v).fenced = s.fenced := rfl
@[simp] theorem State.setClu_safePort (g p : Nat) (v : Cluster) : (s.setClu g p v).safePort = s.safePort := rfl
@[simp] theorem State.setClu_latches (g p : Nat) (v : Cluster) : (s.setClu g p v).latches = s.latches := rfl
@[simp] theorem State.setClu_hostMem (g p : Nat) (v : Cluster) : (s.setClu g p v).hostMem = s.hostMem := rfl
@[simp] theorem State.setClu_streams (g p : Nat) (v : Cluster) : (s.setClu g p v).streams = s.streams := rfl
@[simp] theorem State.setClu_images (g p : Nat) (v : Cluster) : (s.setClu g p v).images = s.images := rfl
@[simp] theorem State.setClu_nearAlloc (g p : Nat) (v : Cluster) : (s.setClu g p v).nearAlloc = s.nearAlloc := rfl
@[simp] theorem State.setClu_farAlloc (g p : Nat) (v : Cluster) : (s.setClu g p v).farAlloc = s.farAlloc := rfl
@[simp] theorem State.setClu_spillAlloc (g p : Nat) (v : Cluster) : (s.setClu g p v).spillAlloc = s.spillAlloc := rfl
@[simp] theorem State.setClu_spill (g p : Nat) (v : Cluster) : (s.setClu g p v).spill = s.spill := rfl
@[simp] theorem State.setClu_groups (g p : Nat) (v : Cluster) : (s.setClu g p v).groups = s.groups := rfl
@[simp] theorem State.setClu_ctr (g p : Nat) (v : Cluster) : (s.setClu g p v).ctr = s.ctr := rfl
@[simp] theorem State.setClu_mem (g p : Nat) (v : Cluster) : (s.setClu g p v).mem = s.mem := rfl
@[simp] theorem State.setClu_channels (g p : Nat) (v : Cluster) : (s.setClu g p v).channels = s.channels := rfl
@[simp] theorem State.setClu_ports (g p : Nat) (v : Cluster) : (s.setClu g p v).ports = s.ports := rfl
@[simp] theorem State.setClu_chans (g p : Nat) (v : Cluster) : (s.setClu g p v).chans = s.chans := rfl
@[simp] theorem State.setClu_eqx (g p : Nat) (v : Cluster) : (s.setClu g p v).eqx = s.eqx := rfl
@[simp] theorem State.setClu_cometUnit (g p : Nat) (v : Cluster) : (s.setClu g p v).cometUnit = s.cometUnit := rfl
@[simp] theorem State.setClu_cometToOff (g p : Nat) (v : Cluster) : (s.setClu g p v).cometToOff = s.cometToOff := rfl
@[simp] theorem State.setClu_cometResetAfter (g p : Nat) (v : Cluster) : (s.setClu g p v).cometResetAfter = s.cometResetAfter := rfl
@[simp] theorem State.setClu_cfg (g p : Nat) (v : Cluster) : (s.setClu g p v).cfg = s.cfg := rfl
@[simp] theorem State.setClu_power (g p : Nat) (v : Cluster) : (s.setClu g p v).power = s.power := rfl
@[simp] theorem State.setClu_safety (g p : Nat) (v : Cluster) : (s.setClu g p v).safety = s.safety := rfl
@[simp] theorem State.setClu_vigil (g p : Nat) (v : Cluster) : (s.setClu g p v).vigil = s.vigil := rfl
@[simp] theorem State.setClu_log (g p : Nat) (v : Cluster) : (s.setClu g p v).log = s.log := rfl
@[simp] theorem State.setClu_repair (g p : Nat) (v : Cluster) : (s.setClu g p v).repair = s.repair := rfl
@[simp] theorem State.setClu_armed (g p : Nat) (v : Cluster) : (s.setClu g p v).armed = s.armed := rfl
@[simp] theorem State.setClu_boot (g p : Nat) (v : Cluster) : (s.setClu g p v).boot = s.boot := rfl
@[simp] theorem State.setClu_keys (g p : Nat) (v : Cluster) : (s.setClu g p v).keys = s.keys := rfl
@[simp] theorem State.setClu_spillKey (g p : Nat) (v : Cluster) : (s.setClu g p v).spillKey = s.spillKey := rfl

@[simp] theorem State.setClu_grp (g p : Nat) (v : Cluster) (g' : Nat) : (s.setClu g p v).grp g' = s.grp g' := rfl
@[simp] theorem State.setClu_str (g p : Nat) (v : Cluster) (n' : Nat) : (s.setClu g p v).str n' = s.str n' := rfl
@[simp] theorem State.setClu_img (g p : Nat) (v : Cluster) (h' : Nat) : (s.setClu g p v).img h' = s.img h' := rfl
@[simp] theorem State.setClu_sqr (g p : Nat) (v : Cluster) (n' : Nat) : (s.setClu g p v).sqr n' = s.sqr n' := rfl
@[simp] theorem State.setClu_cqr (g p : Nat) (v : Cluster) (n' : Nat) : (s.setClu g p v).cqr n' = s.cqr n' := rfl
@[simp] theorem State.setClu_prt (g p : Nat) (v : Cluster) (p' : Nat) : (s.setClu g p v).prt p' = s.prt p' := rfl
@[simp] theorem State.setClu_eqxOf (g p : Nat) (v : Cluster) (e' : Nat) : (s.setClu g p v).eqxOf e' = s.eqxOf e' := rfl
@[simp] theorem State.setClu_memCh (g p : Nat) (v : Cluster) (c' : Nat) : (s.setClu g p v).memCh c' = s.memCh c' := rfl
@[simp] theorem State.setClu_ctrAt (g p : Nat) (v : Cluster) (o' : Nat) : (s.setClu g p v).ctrAt o' = s.ctrAt o' := rfl
@[simp] theorem State.setClu_safeS (g p : Nat) (v : Cluster) (n' : Nat) : (s.setClu g p v).safeS n' = s.safeS n' := rfl
@[simp] theorem State.setClu_armedAt (g p : Nat) (v : Cluster) (d' : Nat) : (s.setClu g p v).armedAt d' = s.armedAt d' := rfl
@[simp] theorem State.setClu_keyAt (g p : Nat) (v : Cluster) (n' : Nat) : (s.setClu g p v).keyAt n' = s.keyAt n' := rfl

/-! ### `State.setStr` -/

@[simp] theorem State.setStr_pending (n : Nat) (v : Stream) : (s.setStr n v).pending = s.pending := rfl
@[simp] theorem State.setStr_now (n : Nat) (v : Stream) : (s.setStr n v).now = s.now := rfl
@[simp] theorem State.setStr_free (n : Nat) (v : Stream) : (s.setStr n v).free = s.free := rfl
@[simp] theorem State.setStr_outs (n : Nat) (v : Stream) : (s.setStr n v).outs = s.outs := rfl
@[simp] theorem State.setStr_life (n : Nat) (v : Stream) : (s.setStr n v).life = s.life := rfl
@[simp] theorem State.setStr_owner (n : Nat) (v : Stream) : (s.setStr n v).owner = s.owner := rfl
@[simp] theorem State.setStr_sq (n : Nat) (v : Stream) : (s.setStr n v).sq = s.sq := rfl
@[simp] theorem State.setStr_cq (n : Nat) (v : Stream) : (s.setStr n v).cq = s.cq := rfl
@[simp] theorem State.setStr_hif (n : Nat) (v : Stream) : (s.setStr n v).hif = s.hif := rfl
@[simp] theorem State.setStr_inflight (n : Nat) (v : Stream) : (s.setStr n v).inflight = s.inflight := rfl
@[simp] theorem State.setStr_nextCmd (n : Nat) (v : Stream) : (s.setStr n v).nextCmd = s.nextCmd := rfl
@[simp] theorem State.setStr_fenced (n : Nat) (v : Stream) : (s.setStr n v).fenced = s.fenced := rfl
@[simp] theorem State.setStr_safePort (n : Nat) (v : Stream) : (s.setStr n v).safePort = s.safePort := rfl
@[simp] theorem State.setStr_latches (n : Nat) (v : Stream) : (s.setStr n v).latches = s.latches := rfl
@[simp] theorem State.setStr_hostMem (n : Nat) (v : Stream) : (s.setStr n v).hostMem = s.hostMem := rfl
@[simp] theorem State.setStr_images (n : Nat) (v : Stream) : (s.setStr n v).images = s.images := rfl
@[simp] theorem State.setStr_nearAlloc (n : Nat) (v : Stream) : (s.setStr n v).nearAlloc = s.nearAlloc := rfl
@[simp] theorem State.setStr_farAlloc (n : Nat) (v : Stream) : (s.setStr n v).farAlloc = s.farAlloc := rfl
@[simp] theorem State.setStr_spillAlloc (n : Nat) (v : Stream) : (s.setStr n v).spillAlloc = s.spillAlloc := rfl
@[simp] theorem State.setStr_spill (n : Nat) (v : Stream) : (s.setStr n v).spill = s.spill := rfl
@[simp] theorem State.setStr_groups (n : Nat) (v : Stream) : (s.setStr n v).groups = s.groups := rfl
@[simp] theorem State.setStr_clusters (n : Nat) (v : Stream) : (s.setStr n v).clusters = s.clusters := rfl
@[simp] theorem State.setStr_ctr (n : Nat) (v : Stream) : (s.setStr n v).ctr = s.ctr := rfl
@[simp] theorem State.setStr_mem (n : Nat) (v : Stream) : (s.setStr n v).mem = s.mem := rfl
@[simp] theorem State.setStr_channels (n : Nat) (v : Stream) : (s.setStr n v).channels = s.channels := rfl
@[simp] theorem State.setStr_ports (n : Nat) (v : Stream) : (s.setStr n v).ports = s.ports := rfl
@[simp] theorem State.setStr_chans (n : Nat) (v : Stream) : (s.setStr n v).chans = s.chans := rfl
@[simp] theorem State.setStr_eqx (n : Nat) (v : Stream) : (s.setStr n v).eqx = s.eqx := rfl
@[simp] theorem State.setStr_cometUnit (n : Nat) (v : Stream) : (s.setStr n v).cometUnit = s.cometUnit := rfl
@[simp] theorem State.setStr_cometToOff (n : Nat) (v : Stream) : (s.setStr n v).cometToOff = s.cometToOff := rfl
@[simp] theorem State.setStr_cometResetAfter (n : Nat) (v : Stream) : (s.setStr n v).cometResetAfter = s.cometResetAfter := rfl
@[simp] theorem State.setStr_cfg (n : Nat) (v : Stream) : (s.setStr n v).cfg = s.cfg := rfl
@[simp] theorem State.setStr_power (n : Nat) (v : Stream) : (s.setStr n v).power = s.power := rfl
@[simp] theorem State.setStr_safety (n : Nat) (v : Stream) : (s.setStr n v).safety = s.safety := rfl
@[simp] theorem State.setStr_vigil (n : Nat) (v : Stream) : (s.setStr n v).vigil = s.vigil := rfl
@[simp] theorem State.setStr_log (n : Nat) (v : Stream) : (s.setStr n v).log = s.log := rfl
@[simp] theorem State.setStr_repair (n : Nat) (v : Stream) : (s.setStr n v).repair = s.repair := rfl
@[simp] theorem State.setStr_armed (n : Nat) (v : Stream) : (s.setStr n v).armed = s.armed := rfl
@[simp] theorem State.setStr_boot (n : Nat) (v : Stream) : (s.setStr n v).boot = s.boot := rfl
@[simp] theorem State.setStr_keys (n : Nat) (v : Stream) : (s.setStr n v).keys = s.keys := rfl
@[simp] theorem State.setStr_spillKey (n : Nat) (v : Stream) : (s.setStr n v).spillKey = s.spillKey := rfl

@[simp] theorem State.setStr_grp (n : Nat) (v : Stream) (g' : Nat) : (s.setStr n v).grp g' = s.grp g' := rfl
@[simp] theorem State.setStr_clu (n : Nat) (v : Stream) (g' p' : Nat) : (s.setStr n v).clu g' p' = s.clu g' p' := rfl
@[simp] theorem State.setStr_img (n : Nat) (v : Stream) (h' : Nat) : (s.setStr n v).img h' = s.img h' := rfl
@[simp] theorem State.setStr_sqr (n : Nat) (v : Stream) (n' : Nat) : (s.setStr n v).sqr n' = s.sqr n' := rfl
@[simp] theorem State.setStr_cqr (n : Nat) (v : Stream) (n' : Nat) : (s.setStr n v).cqr n' = s.cqr n' := rfl
@[simp] theorem State.setStr_prt (n : Nat) (v : Stream) (p' : Nat) : (s.setStr n v).prt p' = s.prt p' := rfl
@[simp] theorem State.setStr_eqxOf (n : Nat) (v : Stream) (e' : Nat) : (s.setStr n v).eqxOf e' = s.eqxOf e' := rfl
@[simp] theorem State.setStr_memCh (n : Nat) (v : Stream) (c' : Nat) : (s.setStr n v).memCh c' = s.memCh c' := rfl
@[simp] theorem State.setStr_ctrAt (n : Nat) (v : Stream) (o' : Nat) : (s.setStr n v).ctrAt o' = s.ctrAt o' := rfl
@[simp] theorem State.setStr_safeS (n : Nat) (v : Stream) (n' : Nat) : (s.setStr n v).safeS n' = s.safeS n' := rfl
@[simp] theorem State.setStr_armedAt (n : Nat) (v : Stream) (d' : Nat) : (s.setStr n v).armedAt d' = s.armedAt d' := rfl
@[simp] theorem State.setStr_keyAt (n : Nat) (v : Stream) (n' : Nat) : (s.setStr n v).keyAt n' = s.keyAt n' := rfl

/-! ### `State.setImg` -/

@[simp] theorem State.setImg_pending (h : Nat) (v : Image) : (s.setImg h v).pending = s.pending := rfl
@[simp] theorem State.setImg_now (h : Nat) (v : Image) : (s.setImg h v).now = s.now := rfl
@[simp] theorem State.setImg_free (h : Nat) (v : Image) : (s.setImg h v).free = s.free := rfl
@[simp] theorem State.setImg_outs (h : Nat) (v : Image) : (s.setImg h v).outs = s.outs := rfl
@[simp] theorem State.setImg_life (h : Nat) (v : Image) : (s.setImg h v).life = s.life := rfl
@[simp] theorem State.setImg_owner (h : Nat) (v : Image) : (s.setImg h v).owner = s.owner := rfl
@[simp] theorem State.setImg_sq (h : Nat) (v : Image) : (s.setImg h v).sq = s.sq := rfl
@[simp] theorem State.setImg_cq (h : Nat) (v : Image) : (s.setImg h v).cq = s.cq := rfl
@[simp] theorem State.setImg_hif (h : Nat) (v : Image) : (s.setImg h v).hif = s.hif := rfl
@[simp] theorem State.setImg_inflight (h : Nat) (v : Image) : (s.setImg h v).inflight = s.inflight := rfl
@[simp] theorem State.setImg_nextCmd (h : Nat) (v : Image) : (s.setImg h v).nextCmd = s.nextCmd := rfl
@[simp] theorem State.setImg_fenced (h : Nat) (v : Image) : (s.setImg h v).fenced = s.fenced := rfl
@[simp] theorem State.setImg_safePort (h : Nat) (v : Image) : (s.setImg h v).safePort = s.safePort := rfl
@[simp] theorem State.setImg_latches (h : Nat) (v : Image) : (s.setImg h v).latches = s.latches := rfl
@[simp] theorem State.setImg_hostMem (h : Nat) (v : Image) : (s.setImg h v).hostMem = s.hostMem := rfl
@[simp] theorem State.setImg_streams (h : Nat) (v : Image) : (s.setImg h v).streams = s.streams := rfl
@[simp] theorem State.setImg_nearAlloc (h : Nat) (v : Image) : (s.setImg h v).nearAlloc = s.nearAlloc := rfl
@[simp] theorem State.setImg_farAlloc (h : Nat) (v : Image) : (s.setImg h v).farAlloc = s.farAlloc := rfl
@[simp] theorem State.setImg_spillAlloc (h : Nat) (v : Image) : (s.setImg h v).spillAlloc = s.spillAlloc := rfl
@[simp] theorem State.setImg_spill (h : Nat) (v : Image) : (s.setImg h v).spill = s.spill := rfl
@[simp] theorem State.setImg_groups (h : Nat) (v : Image) : (s.setImg h v).groups = s.groups := rfl
@[simp] theorem State.setImg_clusters (h : Nat) (v : Image) : (s.setImg h v).clusters = s.clusters := rfl
@[simp] theorem State.setImg_ctr (h : Nat) (v : Image) : (s.setImg h v).ctr = s.ctr := rfl
@[simp] theorem State.setImg_mem (h : Nat) (v : Image) : (s.setImg h v).mem = s.mem := rfl
@[simp] theorem State.setImg_channels (h : Nat) (v : Image) : (s.setImg h v).channels = s.channels := rfl
@[simp] theorem State.setImg_ports (h : Nat) (v : Image) : (s.setImg h v).ports = s.ports := rfl
@[simp] theorem State.setImg_chans (h : Nat) (v : Image) : (s.setImg h v).chans = s.chans := rfl
@[simp] theorem State.setImg_eqx (h : Nat) (v : Image) : (s.setImg h v).eqx = s.eqx := rfl
@[simp] theorem State.setImg_cometUnit (h : Nat) (v : Image) : (s.setImg h v).cometUnit = s.cometUnit := rfl
@[simp] theorem State.setImg_cometToOff (h : Nat) (v : Image) : (s.setImg h v).cometToOff = s.cometToOff := rfl
@[simp] theorem State.setImg_cometResetAfter (h : Nat) (v : Image) : (s.setImg h v).cometResetAfter = s.cometResetAfter := rfl
@[simp] theorem State.setImg_cfg (h : Nat) (v : Image) : (s.setImg h v).cfg = s.cfg := rfl
@[simp] theorem State.setImg_power (h : Nat) (v : Image) : (s.setImg h v).power = s.power := rfl
@[simp] theorem State.setImg_safety (h : Nat) (v : Image) : (s.setImg h v).safety = s.safety := rfl
@[simp] theorem State.setImg_vigil (h : Nat) (v : Image) : (s.setImg h v).vigil = s.vigil := rfl
@[simp] theorem State.setImg_log (h : Nat) (v : Image) : (s.setImg h v).log = s.log := rfl
@[simp] theorem State.setImg_repair (h : Nat) (v : Image) : (s.setImg h v).repair = s.repair := rfl
@[simp] theorem State.setImg_armed (h : Nat) (v : Image) : (s.setImg h v).armed = s.armed := rfl
@[simp] theorem State.setImg_boot (h : Nat) (v : Image) : (s.setImg h v).boot = s.boot := rfl
@[simp] theorem State.setImg_keys (h : Nat) (v : Image) : (s.setImg h v).keys = s.keys := rfl
@[simp] theorem State.setImg_spillKey (h : Nat) (v : Image) : (s.setImg h v).spillKey = s.spillKey := rfl

@[simp] theorem State.setImg_grp (h : Nat) (v : Image) (g' : Nat) : (s.setImg h v).grp g' = s.grp g' := rfl
@[simp] theorem State.setImg_clu (h : Nat) (v : Image) (g' p' : Nat) : (s.setImg h v).clu g' p' = s.clu g' p' := rfl
@[simp] theorem State.setImg_str (h : Nat) (v : Image) (n' : Nat) : (s.setImg h v).str n' = s.str n' := rfl
@[simp] theorem State.setImg_sqr (h : Nat) (v : Image) (n' : Nat) : (s.setImg h v).sqr n' = s.sqr n' := rfl
@[simp] theorem State.setImg_cqr (h : Nat) (v : Image) (n' : Nat) : (s.setImg h v).cqr n' = s.cqr n' := rfl
@[simp] theorem State.setImg_prt (h : Nat) (v : Image) (p' : Nat) : (s.setImg h v).prt p' = s.prt p' := rfl
@[simp] theorem State.setImg_eqxOf (h : Nat) (v : Image) (e' : Nat) : (s.setImg h v).eqxOf e' = s.eqxOf e' := rfl
@[simp] theorem State.setImg_memCh (h : Nat) (v : Image) (c' : Nat) : (s.setImg h v).memCh c' = s.memCh c' := rfl
@[simp] theorem State.setImg_ctrAt (h : Nat) (v : Image) (o' : Nat) : (s.setImg h v).ctrAt o' = s.ctrAt o' := rfl
@[simp] theorem State.setImg_safeS (h : Nat) (v : Image) (n' : Nat) : (s.setImg h v).safeS n' = s.safeS n' := rfl
@[simp] theorem State.setImg_armedAt (h : Nat) (v : Image) (d' : Nat) : (s.setImg h v).armedAt d' = s.armedAt d' := rfl
@[simp] theorem State.setImg_keyAt (h : Nat) (v : Image) (n' : Nat) : (s.setImg h v).keyAt n' = s.keyAt n' := rfl

/-! ### `State.setSq` -/

@[simp] theorem State.setSq_pending (n : Nat) (v : SqRing) : (s.setSq n v).pending = s.pending := rfl
@[simp] theorem State.setSq_now (n : Nat) (v : SqRing) : (s.setSq n v).now = s.now := rfl
@[simp] theorem State.setSq_free (n : Nat) (v : SqRing) : (s.setSq n v).free = s.free := rfl
@[simp] theorem State.setSq_outs (n : Nat) (v : SqRing) : (s.setSq n v).outs = s.outs := rfl
@[simp] theorem State.setSq_life (n : Nat) (v : SqRing) : (s.setSq n v).life = s.life := rfl
@[simp] theorem State.setSq_owner (n : Nat) (v : SqRing) : (s.setSq n v).owner = s.owner := rfl
@[simp] theorem State.setSq_cq (n : Nat) (v : SqRing) : (s.setSq n v).cq = s.cq := rfl
@[simp] theorem State.setSq_hif (n : Nat) (v : SqRing) : (s.setSq n v).hif = s.hif := rfl
@[simp] theorem State.setSq_inflight (n : Nat) (v : SqRing) : (s.setSq n v).inflight = s.inflight := rfl
@[simp] theorem State.setSq_nextCmd (n : Nat) (v : SqRing) : (s.setSq n v).nextCmd = s.nextCmd := rfl
@[simp] theorem State.setSq_fenced (n : Nat) (v : SqRing) : (s.setSq n v).fenced = s.fenced := rfl
@[simp] theorem State.setSq_safePort (n : Nat) (v : SqRing) : (s.setSq n v).safePort = s.safePort := rfl
@[simp] theorem State.setSq_latches (n : Nat) (v : SqRing) : (s.setSq n v).latches = s.latches := rfl
@[simp] theorem State.setSq_hostMem (n : Nat) (v : SqRing) : (s.setSq n v).hostMem = s.hostMem := rfl
@[simp] theorem State.setSq_streams (n : Nat) (v : SqRing) : (s.setSq n v).streams = s.streams := rfl
@[simp] theorem State.setSq_images (n : Nat) (v : SqRing) : (s.setSq n v).images = s.images := rfl
@[simp] theorem State.setSq_nearAlloc (n : Nat) (v : SqRing) : (s.setSq n v).nearAlloc = s.nearAlloc := rfl
@[simp] theorem State.setSq_farAlloc (n : Nat) (v : SqRing) : (s.setSq n v).farAlloc = s.farAlloc := rfl
@[simp] theorem State.setSq_spillAlloc (n : Nat) (v : SqRing) : (s.setSq n v).spillAlloc = s.spillAlloc := rfl
@[simp] theorem State.setSq_spill (n : Nat) (v : SqRing) : (s.setSq n v).spill = s.spill := rfl
@[simp] theorem State.setSq_groups (n : Nat) (v : SqRing) : (s.setSq n v).groups = s.groups := rfl
@[simp] theorem State.setSq_clusters (n : Nat) (v : SqRing) : (s.setSq n v).clusters = s.clusters := rfl
@[simp] theorem State.setSq_ctr (n : Nat) (v : SqRing) : (s.setSq n v).ctr = s.ctr := rfl
@[simp] theorem State.setSq_mem (n : Nat) (v : SqRing) : (s.setSq n v).mem = s.mem := rfl
@[simp] theorem State.setSq_channels (n : Nat) (v : SqRing) : (s.setSq n v).channels = s.channels := rfl
@[simp] theorem State.setSq_ports (n : Nat) (v : SqRing) : (s.setSq n v).ports = s.ports := rfl
@[simp] theorem State.setSq_chans (n : Nat) (v : SqRing) : (s.setSq n v).chans = s.chans := rfl
@[simp] theorem State.setSq_eqx (n : Nat) (v : SqRing) : (s.setSq n v).eqx = s.eqx := rfl
@[simp] theorem State.setSq_cometUnit (n : Nat) (v : SqRing) : (s.setSq n v).cometUnit = s.cometUnit := rfl
@[simp] theorem State.setSq_cometToOff (n : Nat) (v : SqRing) : (s.setSq n v).cometToOff = s.cometToOff := rfl
@[simp] theorem State.setSq_cometResetAfter (n : Nat) (v : SqRing) : (s.setSq n v).cometResetAfter = s.cometResetAfter := rfl
@[simp] theorem State.setSq_cfg (n : Nat) (v : SqRing) : (s.setSq n v).cfg = s.cfg := rfl
@[simp] theorem State.setSq_power (n : Nat) (v : SqRing) : (s.setSq n v).power = s.power := rfl
@[simp] theorem State.setSq_safety (n : Nat) (v : SqRing) : (s.setSq n v).safety = s.safety := rfl
@[simp] theorem State.setSq_vigil (n : Nat) (v : SqRing) : (s.setSq n v).vigil = s.vigil := rfl
@[simp] theorem State.setSq_log (n : Nat) (v : SqRing) : (s.setSq n v).log = s.log := rfl
@[simp] theorem State.setSq_repair (n : Nat) (v : SqRing) : (s.setSq n v).repair = s.repair := rfl
@[simp] theorem State.setSq_armed (n : Nat) (v : SqRing) : (s.setSq n v).armed = s.armed := rfl
@[simp] theorem State.setSq_boot (n : Nat) (v : SqRing) : (s.setSq n v).boot = s.boot := rfl
@[simp] theorem State.setSq_keys (n : Nat) (v : SqRing) : (s.setSq n v).keys = s.keys := rfl
@[simp] theorem State.setSq_spillKey (n : Nat) (v : SqRing) : (s.setSq n v).spillKey = s.spillKey := rfl

@[simp] theorem State.setSq_grp (n : Nat) (v : SqRing) (g' : Nat) : (s.setSq n v).grp g' = s.grp g' := rfl
@[simp] theorem State.setSq_clu (n : Nat) (v : SqRing) (g' p' : Nat) : (s.setSq n v).clu g' p' = s.clu g' p' := rfl
@[simp] theorem State.setSq_str (n : Nat) (v : SqRing) (n' : Nat) : (s.setSq n v).str n' = s.str n' := rfl
@[simp] theorem State.setSq_img (n : Nat) (v : SqRing) (h' : Nat) : (s.setSq n v).img h' = s.img h' := rfl
@[simp] theorem State.setSq_cqr (n : Nat) (v : SqRing) (n' : Nat) : (s.setSq n v).cqr n' = s.cqr n' := rfl
@[simp] theorem State.setSq_prt (n : Nat) (v : SqRing) (p' : Nat) : (s.setSq n v).prt p' = s.prt p' := rfl
@[simp] theorem State.setSq_eqxOf (n : Nat) (v : SqRing) (e' : Nat) : (s.setSq n v).eqxOf e' = s.eqxOf e' := rfl
@[simp] theorem State.setSq_memCh (n : Nat) (v : SqRing) (c' : Nat) : (s.setSq n v).memCh c' = s.memCh c' := rfl
@[simp] theorem State.setSq_ctrAt (n : Nat) (v : SqRing) (o' : Nat) : (s.setSq n v).ctrAt o' = s.ctrAt o' := rfl
@[simp] theorem State.setSq_safeS (n : Nat) (v : SqRing) (n' : Nat) : (s.setSq n v).safeS n' = s.safeS n' := rfl
@[simp] theorem State.setSq_armedAt (n : Nat) (v : SqRing) (d' : Nat) : (s.setSq n v).armedAt d' = s.armedAt d' := rfl
@[simp] theorem State.setSq_keyAt (n : Nat) (v : SqRing) (n' : Nat) : (s.setSq n v).keyAt n' = s.keyAt n' := rfl

/-! ### `State.setCq` -/

@[simp] theorem State.setCq_pending (n : Nat) (v : CqRing) : (s.setCq n v).pending = s.pending := rfl
@[simp] theorem State.setCq_now (n : Nat) (v : CqRing) : (s.setCq n v).now = s.now := rfl
@[simp] theorem State.setCq_free (n : Nat) (v : CqRing) : (s.setCq n v).free = s.free := rfl
@[simp] theorem State.setCq_outs (n : Nat) (v : CqRing) : (s.setCq n v).outs = s.outs := rfl
@[simp] theorem State.setCq_life (n : Nat) (v : CqRing) : (s.setCq n v).life = s.life := rfl
@[simp] theorem State.setCq_owner (n : Nat) (v : CqRing) : (s.setCq n v).owner = s.owner := rfl
@[simp] theorem State.setCq_sq (n : Nat) (v : CqRing) : (s.setCq n v).sq = s.sq := rfl
@[simp] theorem State.setCq_hif (n : Nat) (v : CqRing) : (s.setCq n v).hif = s.hif := rfl
@[simp] theorem State.setCq_inflight (n : Nat) (v : CqRing) : (s.setCq n v).inflight = s.inflight := rfl
@[simp] theorem State.setCq_nextCmd (n : Nat) (v : CqRing) : (s.setCq n v).nextCmd = s.nextCmd := rfl
@[simp] theorem State.setCq_fenced (n : Nat) (v : CqRing) : (s.setCq n v).fenced = s.fenced := rfl
@[simp] theorem State.setCq_safePort (n : Nat) (v : CqRing) : (s.setCq n v).safePort = s.safePort := rfl
@[simp] theorem State.setCq_latches (n : Nat) (v : CqRing) : (s.setCq n v).latches = s.latches := rfl
@[simp] theorem State.setCq_hostMem (n : Nat) (v : CqRing) : (s.setCq n v).hostMem = s.hostMem := rfl
@[simp] theorem State.setCq_streams (n : Nat) (v : CqRing) : (s.setCq n v).streams = s.streams := rfl
@[simp] theorem State.setCq_images (n : Nat) (v : CqRing) : (s.setCq n v).images = s.images := rfl
@[simp] theorem State.setCq_nearAlloc (n : Nat) (v : CqRing) : (s.setCq n v).nearAlloc = s.nearAlloc := rfl
@[simp] theorem State.setCq_farAlloc (n : Nat) (v : CqRing) : (s.setCq n v).farAlloc = s.farAlloc := rfl
@[simp] theorem State.setCq_spillAlloc (n : Nat) (v : CqRing) : (s.setCq n v).spillAlloc = s.spillAlloc := rfl
@[simp] theorem State.setCq_spill (n : Nat) (v : CqRing) : (s.setCq n v).spill = s.spill := rfl
@[simp] theorem State.setCq_groups (n : Nat) (v : CqRing) : (s.setCq n v).groups = s.groups := rfl
@[simp] theorem State.setCq_clusters (n : Nat) (v : CqRing) : (s.setCq n v).clusters = s.clusters := rfl
@[simp] theorem State.setCq_ctr (n : Nat) (v : CqRing) : (s.setCq n v).ctr = s.ctr := rfl
@[simp] theorem State.setCq_mem (n : Nat) (v : CqRing) : (s.setCq n v).mem = s.mem := rfl
@[simp] theorem State.setCq_channels (n : Nat) (v : CqRing) : (s.setCq n v).channels = s.channels := rfl
@[simp] theorem State.setCq_ports (n : Nat) (v : CqRing) : (s.setCq n v).ports = s.ports := rfl
@[simp] theorem State.setCq_chans (n : Nat) (v : CqRing) : (s.setCq n v).chans = s.chans := rfl
@[simp] theorem State.setCq_eqx (n : Nat) (v : CqRing) : (s.setCq n v).eqx = s.eqx := rfl
@[simp] theorem State.setCq_cometUnit (n : Nat) (v : CqRing) : (s.setCq n v).cometUnit = s.cometUnit := rfl
@[simp] theorem State.setCq_cometToOff (n : Nat) (v : CqRing) : (s.setCq n v).cometToOff = s.cometToOff := rfl
@[simp] theorem State.setCq_cometResetAfter (n : Nat) (v : CqRing) : (s.setCq n v).cometResetAfter = s.cometResetAfter := rfl
@[simp] theorem State.setCq_cfg (n : Nat) (v : CqRing) : (s.setCq n v).cfg = s.cfg := rfl
@[simp] theorem State.setCq_power (n : Nat) (v : CqRing) : (s.setCq n v).power = s.power := rfl
@[simp] theorem State.setCq_safety (n : Nat) (v : CqRing) : (s.setCq n v).safety = s.safety := rfl
@[simp] theorem State.setCq_vigil (n : Nat) (v : CqRing) : (s.setCq n v).vigil = s.vigil := rfl
@[simp] theorem State.setCq_log (n : Nat) (v : CqRing) : (s.setCq n v).log = s.log := rfl
@[simp] theorem State.setCq_repair (n : Nat) (v : CqRing) : (s.setCq n v).repair = s.repair := rfl
@[simp] theorem State.setCq_armed (n : Nat) (v : CqRing) : (s.setCq n v).armed = s.armed := rfl
@[simp] theorem State.setCq_boot (n : Nat) (v : CqRing) : (s.setCq n v).boot = s.boot := rfl
@[simp] theorem State.setCq_keys (n : Nat) (v : CqRing) : (s.setCq n v).keys = s.keys := rfl
@[simp] theorem State.setCq_spillKey (n : Nat) (v : CqRing) : (s.setCq n v).spillKey = s.spillKey := rfl

@[simp] theorem State.setCq_grp (n : Nat) (v : CqRing) (g' : Nat) : (s.setCq n v).grp g' = s.grp g' := rfl
@[simp] theorem State.setCq_clu (n : Nat) (v : CqRing) (g' p' : Nat) : (s.setCq n v).clu g' p' = s.clu g' p' := rfl
@[simp] theorem State.setCq_str (n : Nat) (v : CqRing) (n' : Nat) : (s.setCq n v).str n' = s.str n' := rfl
@[simp] theorem State.setCq_img (n : Nat) (v : CqRing) (h' : Nat) : (s.setCq n v).img h' = s.img h' := rfl
@[simp] theorem State.setCq_sqr (n : Nat) (v : CqRing) (n' : Nat) : (s.setCq n v).sqr n' = s.sqr n' := rfl
@[simp] theorem State.setCq_prt (n : Nat) (v : CqRing) (p' : Nat) : (s.setCq n v).prt p' = s.prt p' := rfl
@[simp] theorem State.setCq_eqxOf (n : Nat) (v : CqRing) (e' : Nat) : (s.setCq n v).eqxOf e' = s.eqxOf e' := rfl
@[simp] theorem State.setCq_memCh (n : Nat) (v : CqRing) (c' : Nat) : (s.setCq n v).memCh c' = s.memCh c' := rfl
@[simp] theorem State.setCq_ctrAt (n : Nat) (v : CqRing) (o' : Nat) : (s.setCq n v).ctrAt o' = s.ctrAt o' := rfl
@[simp] theorem State.setCq_safeS (n : Nat) (v : CqRing) (n' : Nat) : (s.setCq n v).safeS n' = s.safeS n' := rfl
@[simp] theorem State.setCq_armedAt (n : Nat) (v : CqRing) (d' : Nat) : (s.setCq n v).armedAt d' = s.armedAt d' := rfl
@[simp] theorem State.setCq_keyAt (n : Nat) (v : CqRing) (n' : Nat) : (s.setCq n v).keyAt n' = s.keyAt n' := rfl

/-! ### `State.setPrt` -/

@[simp] theorem State.setPrt_pending (p : Nat) (v : Port) : (s.setPrt p v).pending = s.pending := rfl
@[simp] theorem State.setPrt_now (p : Nat) (v : Port) : (s.setPrt p v).now = s.now := rfl
@[simp] theorem State.setPrt_free (p : Nat) (v : Port) : (s.setPrt p v).free = s.free := rfl
@[simp] theorem State.setPrt_outs (p : Nat) (v : Port) : (s.setPrt p v).outs = s.outs := rfl
@[simp] theorem State.setPrt_life (p : Nat) (v : Port) : (s.setPrt p v).life = s.life := rfl
@[simp] theorem State.setPrt_owner (p : Nat) (v : Port) : (s.setPrt p v).owner = s.owner := rfl
@[simp] theorem State.setPrt_sq (p : Nat) (v : Port) : (s.setPrt p v).sq = s.sq := rfl
@[simp] theorem State.setPrt_cq (p : Nat) (v : Port) : (s.setPrt p v).cq = s.cq := rfl
@[simp] theorem State.setPrt_hif (p : Nat) (v : Port) : (s.setPrt p v).hif = s.hif := rfl
@[simp] theorem State.setPrt_inflight (p : Nat) (v : Port) : (s.setPrt p v).inflight = s.inflight := rfl
@[simp] theorem State.setPrt_nextCmd (p : Nat) (v : Port) : (s.setPrt p v).nextCmd = s.nextCmd := rfl
@[simp] theorem State.setPrt_fenced (p : Nat) (v : Port) : (s.setPrt p v).fenced = s.fenced := rfl
@[simp] theorem State.setPrt_safePort (p : Nat) (v : Port) : (s.setPrt p v).safePort = s.safePort := rfl
@[simp] theorem State.setPrt_latches (p : Nat) (v : Port) : (s.setPrt p v).latches = s.latches := rfl
@[simp] theorem State.setPrt_hostMem (p : Nat) (v : Port) : (s.setPrt p v).hostMem = s.hostMem := rfl
@[simp] theorem State.setPrt_streams (p : Nat) (v : Port) : (s.setPrt p v).streams = s.streams := rfl
@[simp] theorem State.setPrt_images (p : Nat) (v : Port) : (s.setPrt p v).images = s.images := rfl
@[simp] theorem State.setPrt_nearAlloc (p : Nat) (v : Port) : (s.setPrt p v).nearAlloc = s.nearAlloc := rfl
@[simp] theorem State.setPrt_farAlloc (p : Nat) (v : Port) : (s.setPrt p v).farAlloc = s.farAlloc := rfl
@[simp] theorem State.setPrt_spillAlloc (p : Nat) (v : Port) : (s.setPrt p v).spillAlloc = s.spillAlloc := rfl
@[simp] theorem State.setPrt_spill (p : Nat) (v : Port) : (s.setPrt p v).spill = s.spill := rfl
@[simp] theorem State.setPrt_groups (p : Nat) (v : Port) : (s.setPrt p v).groups = s.groups := rfl
@[simp] theorem State.setPrt_clusters (p : Nat) (v : Port) : (s.setPrt p v).clusters = s.clusters := rfl
@[simp] theorem State.setPrt_ctr (p : Nat) (v : Port) : (s.setPrt p v).ctr = s.ctr := rfl
@[simp] theorem State.setPrt_mem (p : Nat) (v : Port) : (s.setPrt p v).mem = s.mem := rfl
@[simp] theorem State.setPrt_channels (p : Nat) (v : Port) : (s.setPrt p v).channels = s.channels := rfl
@[simp] theorem State.setPrt_chans (p : Nat) (v : Port) : (s.setPrt p v).chans = s.chans := rfl
@[simp] theorem State.setPrt_eqx (p : Nat) (v : Port) : (s.setPrt p v).eqx = s.eqx := rfl
@[simp] theorem State.setPrt_cometUnit (p : Nat) (v : Port) : (s.setPrt p v).cometUnit = s.cometUnit := rfl
@[simp] theorem State.setPrt_cometToOff (p : Nat) (v : Port) : (s.setPrt p v).cometToOff = s.cometToOff := rfl
@[simp] theorem State.setPrt_cometResetAfter (p : Nat) (v : Port) : (s.setPrt p v).cometResetAfter = s.cometResetAfter := rfl
@[simp] theorem State.setPrt_cfg (p : Nat) (v : Port) : (s.setPrt p v).cfg = s.cfg := rfl
@[simp] theorem State.setPrt_power (p : Nat) (v : Port) : (s.setPrt p v).power = s.power := rfl
@[simp] theorem State.setPrt_safety (p : Nat) (v : Port) : (s.setPrt p v).safety = s.safety := rfl
@[simp] theorem State.setPrt_vigil (p : Nat) (v : Port) : (s.setPrt p v).vigil = s.vigil := rfl
@[simp] theorem State.setPrt_log (p : Nat) (v : Port) : (s.setPrt p v).log = s.log := rfl
@[simp] theorem State.setPrt_repair (p : Nat) (v : Port) : (s.setPrt p v).repair = s.repair := rfl
@[simp] theorem State.setPrt_armed (p : Nat) (v : Port) : (s.setPrt p v).armed = s.armed := rfl
@[simp] theorem State.setPrt_boot (p : Nat) (v : Port) : (s.setPrt p v).boot = s.boot := rfl
@[simp] theorem State.setPrt_keys (p : Nat) (v : Port) : (s.setPrt p v).keys = s.keys := rfl
@[simp] theorem State.setPrt_spillKey (p : Nat) (v : Port) : (s.setPrt p v).spillKey = s.spillKey := rfl

@[simp] theorem State.setPrt_grp (p : Nat) (v : Port) (g' : Nat) : (s.setPrt p v).grp g' = s.grp g' := rfl
@[simp] theorem State.setPrt_clu (p : Nat) (v : Port) (g' p' : Nat) : (s.setPrt p v).clu g' p' = s.clu g' p' := rfl
@[simp] theorem State.setPrt_str (p : Nat) (v : Port) (n' : Nat) : (s.setPrt p v).str n' = s.str n' := rfl
@[simp] theorem State.setPrt_img (p : Nat) (v : Port) (h' : Nat) : (s.setPrt p v).img h' = s.img h' := rfl
@[simp] theorem State.setPrt_sqr (p : Nat) (v : Port) (n' : Nat) : (s.setPrt p v).sqr n' = s.sqr n' := rfl
@[simp] theorem State.setPrt_cqr (p : Nat) (v : Port) (n' : Nat) : (s.setPrt p v).cqr n' = s.cqr n' := rfl
@[simp] theorem State.setPrt_eqxOf (p : Nat) (v : Port) (e' : Nat) : (s.setPrt p v).eqxOf e' = s.eqxOf e' := rfl
@[simp] theorem State.setPrt_memCh (p : Nat) (v : Port) (c' : Nat) : (s.setPrt p v).memCh c' = s.memCh c' := rfl
@[simp] theorem State.setPrt_ctrAt (p : Nat) (v : Port) (o' : Nat) : (s.setPrt p v).ctrAt o' = s.ctrAt o' := rfl
@[simp] theorem State.setPrt_safeS (p : Nat) (v : Port) (n' : Nat) : (s.setPrt p v).safeS n' = s.safeS n' := rfl
@[simp] theorem State.setPrt_armedAt (p : Nat) (v : Port) (d' : Nat) : (s.setPrt p v).armedAt d' = s.armedAt d' := rfl
@[simp] theorem State.setPrt_keyAt (p : Nat) (v : Port) (n' : Nat) : (s.setPrt p v).keyAt n' = s.keyAt n' := rfl

/-! ### `State.setChn` -/

@[simp] theorem State.setChn_pending (p k d : Nat) (v : Chan) : (s.setChn p k d v).pending = s.pending := rfl
@[simp] theorem State.setChn_now (p k d : Nat) (v : Chan) : (s.setChn p k d v).now = s.now := rfl
@[simp] theorem State.setChn_free (p k d : Nat) (v : Chan) : (s.setChn p k d v).free = s.free := rfl
@[simp] theorem State.setChn_outs (p k d : Nat) (v : Chan) : (s.setChn p k d v).outs = s.outs := rfl
@[simp] theorem State.setChn_life (p k d : Nat) (v : Chan) : (s.setChn p k d v).life = s.life := rfl
@[simp] theorem State.setChn_owner (p k d : Nat) (v : Chan) : (s.setChn p k d v).owner = s.owner := rfl
@[simp] theorem State.setChn_sq (p k d : Nat) (v : Chan) : (s.setChn p k d v).sq = s.sq := rfl
@[simp] theorem State.setChn_cq (p k d : Nat) (v : Chan) : (s.setChn p k d v).cq = s.cq := rfl
@[simp] theorem State.setChn_hif (p k d : Nat) (v : Chan) : (s.setChn p k d v).hif = s.hif := rfl
@[simp] theorem State.setChn_inflight (p k d : Nat) (v : Chan) : (s.setChn p k d v).inflight = s.inflight := rfl
@[simp] theorem State.setChn_nextCmd (p k d : Nat) (v : Chan) : (s.setChn p k d v).nextCmd = s.nextCmd := rfl
@[simp] theorem State.setChn_fenced (p k d : Nat) (v : Chan) : (s.setChn p k d v).fenced = s.fenced := rfl
@[simp] theorem State.setChn_safePort (p k d : Nat) (v : Chan) : (s.setChn p k d v).safePort = s.safePort := rfl
@[simp] theorem State.setChn_latches (p k d : Nat) (v : Chan) : (s.setChn p k d v).latches = s.latches := rfl
@[simp] theorem State.setChn_hostMem (p k d : Nat) (v : Chan) : (s.setChn p k d v).hostMem = s.hostMem := rfl
@[simp] theorem State.setChn_streams (p k d : Nat) (v : Chan) : (s.setChn p k d v).streams = s.streams := rfl
@[simp] theorem State.setChn_images (p k d : Nat) (v : Chan) : (s.setChn p k d v).images = s.images := rfl
@[simp] theorem State.setChn_nearAlloc (p k d : Nat) (v : Chan) : (s.setChn p k d v).nearAlloc = s.nearAlloc := rfl
@[simp] theorem State.setChn_farAlloc (p k d : Nat) (v : Chan) : (s.setChn p k d v).farAlloc = s.farAlloc := rfl
@[simp] theorem State.setChn_spillAlloc (p k d : Nat) (v : Chan) : (s.setChn p k d v).spillAlloc = s.spillAlloc := rfl
@[simp] theorem State.setChn_spill (p k d : Nat) (v : Chan) : (s.setChn p k d v).spill = s.spill := rfl
@[simp] theorem State.setChn_groups (p k d : Nat) (v : Chan) : (s.setChn p k d v).groups = s.groups := rfl
@[simp] theorem State.setChn_clusters (p k d : Nat) (v : Chan) : (s.setChn p k d v).clusters = s.clusters := rfl
@[simp] theorem State.setChn_ctr (p k d : Nat) (v : Chan) : (s.setChn p k d v).ctr = s.ctr := rfl
@[simp] theorem State.setChn_mem (p k d : Nat) (v : Chan) : (s.setChn p k d v).mem = s.mem := rfl
@[simp] theorem State.setChn_channels (p k d : Nat) (v : Chan) : (s.setChn p k d v).channels = s.channels := rfl
@[simp] theorem State.setChn_ports (p k d : Nat) (v : Chan) : (s.setChn p k d v).ports = s.ports := rfl
@[simp] theorem State.setChn_eqx (p k d : Nat) (v : Chan) : (s.setChn p k d v).eqx = s.eqx := rfl
@[simp] theorem State.setChn_cometUnit (p k d : Nat) (v : Chan) : (s.setChn p k d v).cometUnit = s.cometUnit := rfl
@[simp] theorem State.setChn_cometToOff (p k d : Nat) (v : Chan) : (s.setChn p k d v).cometToOff = s.cometToOff := rfl
@[simp] theorem State.setChn_cometResetAfter (p k d : Nat) (v : Chan) : (s.setChn p k d v).cometResetAfter = s.cometResetAfter := rfl
@[simp] theorem State.setChn_cfg (p k d : Nat) (v : Chan) : (s.setChn p k d v).cfg = s.cfg := rfl
@[simp] theorem State.setChn_power (p k d : Nat) (v : Chan) : (s.setChn p k d v).power = s.power := rfl
@[simp] theorem State.setChn_safety (p k d : Nat) (v : Chan) : (s.setChn p k d v).safety = s.safety := rfl
@[simp] theorem State.setChn_vigil (p k d : Nat) (v : Chan) : (s.setChn p k d v).vigil = s.vigil := rfl
@[simp] theorem State.setChn_log (p k d : Nat) (v : Chan) : (s.setChn p k d v).log = s.log := rfl
@[simp] theorem State.setChn_repair (p k d : Nat) (v : Chan) : (s.setChn p k d v).repair = s.repair := rfl
@[simp] theorem State.setChn_armed (p k d : Nat) (v : Chan) : (s.setChn p k d v).armed = s.armed := rfl
@[simp] theorem State.setChn_boot (p k d : Nat) (v : Chan) : (s.setChn p k d v).boot = s.boot := rfl
@[simp] theorem State.setChn_keys (p k d : Nat) (v : Chan) : (s.setChn p k d v).keys = s.keys := rfl
@[simp] theorem State.setChn_spillKey (p k d : Nat) (v : Chan) : (s.setChn p k d v).spillKey = s.spillKey := rfl

@[simp] theorem State.setChn_grp (p k d : Nat) (v : Chan) (g' : Nat) : (s.setChn p k d v).grp g' = s.grp g' := rfl
@[simp] theorem State.setChn_clu (p k d : Nat) (v : Chan) (g' p' : Nat) : (s.setChn p k d v).clu g' p' = s.clu g' p' := rfl
@[simp] theorem State.setChn_str (p k d : Nat) (v : Chan) (n' : Nat) : (s.setChn p k d v).str n' = s.str n' := rfl
@[simp] theorem State.setChn_img (p k d : Nat) (v : Chan) (h' : Nat) : (s.setChn p k d v).img h' = s.img h' := rfl
@[simp] theorem State.setChn_sqr (p k d : Nat) (v : Chan) (n' : Nat) : (s.setChn p k d v).sqr n' = s.sqr n' := rfl
@[simp] theorem State.setChn_cqr (p k d : Nat) (v : Chan) (n' : Nat) : (s.setChn p k d v).cqr n' = s.cqr n' := rfl
@[simp] theorem State.setChn_prt (p k d : Nat) (v : Chan) (p' : Nat) : (s.setChn p k d v).prt p' = s.prt p' := rfl
@[simp] theorem State.setChn_eqxOf (p k d : Nat) (v : Chan) (e' : Nat) : (s.setChn p k d v).eqxOf e' = s.eqxOf e' := rfl
@[simp] theorem State.setChn_memCh (p k d : Nat) (v : Chan) (c' : Nat) : (s.setChn p k d v).memCh c' = s.memCh c' := rfl
@[simp] theorem State.setChn_ctrAt (p k d : Nat) (v : Chan) (o' : Nat) : (s.setChn p k d v).ctrAt o' = s.ctrAt o' := rfl
@[simp] theorem State.setChn_safeS (p k d : Nat) (v : Chan) (n' : Nat) : (s.setChn p k d v).safeS n' = s.safeS n' := rfl
@[simp] theorem State.setChn_armedAt (p k d : Nat) (v : Chan) (d' : Nat) : (s.setChn p k d v).armedAt d' = s.armedAt d' := rfl
@[simp] theorem State.setChn_keyAt (p k d : Nat) (v : Chan) (n' : Nat) : (s.setChn p k d v).keyAt n' = s.keyAt n' := rfl

/-! ### `State.setEqx` -/

@[simp] theorem State.setEqx_pending (e : Nat) (v : Eqx) : (s.setEqx e v).pending = s.pending := rfl
@[simp] theorem State.setEqx_now (e : Nat) (v : Eqx) : (s.setEqx e v).now = s.now := rfl
@[simp] theorem State.setEqx_free (e : Nat) (v : Eqx) : (s.setEqx e v).free = s.free := rfl
@[simp] theorem State.setEqx_outs (e : Nat) (v : Eqx) : (s.setEqx e v).outs = s.outs := rfl
@[simp] theorem State.setEqx_life (e : Nat) (v : Eqx) : (s.setEqx e v).life = s.life := rfl
@[simp] theorem State.setEqx_owner (e : Nat) (v : Eqx) : (s.setEqx e v).owner = s.owner := rfl
@[simp] theorem State.setEqx_sq (e : Nat) (v : Eqx) : (s.setEqx e v).sq = s.sq := rfl
@[simp] theorem State.setEqx_cq (e : Nat) (v : Eqx) : (s.setEqx e v).cq = s.cq := rfl
@[simp] theorem State.setEqx_hif (e : Nat) (v : Eqx) : (s.setEqx e v).hif = s.hif := rfl
@[simp] theorem State.setEqx_inflight (e : Nat) (v : Eqx) : (s.setEqx e v).inflight = s.inflight := rfl
@[simp] theorem State.setEqx_nextCmd (e : Nat) (v : Eqx) : (s.setEqx e v).nextCmd = s.nextCmd := rfl
@[simp] theorem State.setEqx_fenced (e : Nat) (v : Eqx) : (s.setEqx e v).fenced = s.fenced := rfl
@[simp] theorem State.setEqx_safePort (e : Nat) (v : Eqx) : (s.setEqx e v).safePort = s.safePort := rfl
@[simp] theorem State.setEqx_latches (e : Nat) (v : Eqx) : (s.setEqx e v).latches = s.latches := rfl
@[simp] theorem State.setEqx_hostMem (e : Nat) (v : Eqx) : (s.setEqx e v).hostMem = s.hostMem := rfl
@[simp] theorem State.setEqx_streams (e : Nat) (v : Eqx) : (s.setEqx e v).streams = s.streams := rfl
@[simp] theorem State.setEqx_images (e : Nat) (v : Eqx) : (s.setEqx e v).images = s.images := rfl
@[simp] theorem State.setEqx_nearAlloc (e : Nat) (v : Eqx) : (s.setEqx e v).nearAlloc = s.nearAlloc := rfl
@[simp] theorem State.setEqx_farAlloc (e : Nat) (v : Eqx) : (s.setEqx e v).farAlloc = s.farAlloc := rfl
@[simp] theorem State.setEqx_spillAlloc (e : Nat) (v : Eqx) : (s.setEqx e v).spillAlloc = s.spillAlloc := rfl
@[simp] theorem State.setEqx_spill (e : Nat) (v : Eqx) : (s.setEqx e v).spill = s.spill := rfl
@[simp] theorem State.setEqx_groups (e : Nat) (v : Eqx) : (s.setEqx e v).groups = s.groups := rfl
@[simp] theorem State.setEqx_clusters (e : Nat) (v : Eqx) : (s.setEqx e v).clusters = s.clusters := rfl
@[simp] theorem State.setEqx_ctr (e : Nat) (v : Eqx) : (s.setEqx e v).ctr = s.ctr := rfl
@[simp] theorem State.setEqx_mem (e : Nat) (v : Eqx) : (s.setEqx e v).mem = s.mem := rfl
@[simp] theorem State.setEqx_channels (e : Nat) (v : Eqx) : (s.setEqx e v).channels = s.channels := rfl
@[simp] theorem State.setEqx_ports (e : Nat) (v : Eqx) : (s.setEqx e v).ports = s.ports := rfl
@[simp] theorem State.setEqx_chans (e : Nat) (v : Eqx) : (s.setEqx e v).chans = s.chans := rfl
@[simp] theorem State.setEqx_cometUnit (e : Nat) (v : Eqx) : (s.setEqx e v).cometUnit = s.cometUnit := rfl
@[simp] theorem State.setEqx_cometToOff (e : Nat) (v : Eqx) : (s.setEqx e v).cometToOff = s.cometToOff := rfl
@[simp] theorem State.setEqx_cometResetAfter (e : Nat) (v : Eqx) : (s.setEqx e v).cometResetAfter = s.cometResetAfter := rfl
@[simp] theorem State.setEqx_cfg (e : Nat) (v : Eqx) : (s.setEqx e v).cfg = s.cfg := rfl
@[simp] theorem State.setEqx_power (e : Nat) (v : Eqx) : (s.setEqx e v).power = s.power := rfl
@[simp] theorem State.setEqx_safety (e : Nat) (v : Eqx) : (s.setEqx e v).safety = s.safety := rfl
@[simp] theorem State.setEqx_vigil (e : Nat) (v : Eqx) : (s.setEqx e v).vigil = s.vigil := rfl
@[simp] theorem State.setEqx_log (e : Nat) (v : Eqx) : (s.setEqx e v).log = s.log := rfl
@[simp] theorem State.setEqx_repair (e : Nat) (v : Eqx) : (s.setEqx e v).repair = s.repair := rfl
@[simp] theorem State.setEqx_armed (e : Nat) (v : Eqx) : (s.setEqx e v).armed = s.armed := rfl
@[simp] theorem State.setEqx_boot (e : Nat) (v : Eqx) : (s.setEqx e v).boot = s.boot := rfl
@[simp] theorem State.setEqx_keys (e : Nat) (v : Eqx) : (s.setEqx e v).keys = s.keys := rfl
@[simp] theorem State.setEqx_spillKey (e : Nat) (v : Eqx) : (s.setEqx e v).spillKey = s.spillKey := rfl

@[simp] theorem State.setEqx_grp (e : Nat) (v : Eqx) (g' : Nat) : (s.setEqx e v).grp g' = s.grp g' := rfl
@[simp] theorem State.setEqx_clu (e : Nat) (v : Eqx) (g' p' : Nat) : (s.setEqx e v).clu g' p' = s.clu g' p' := rfl
@[simp] theorem State.setEqx_str (e : Nat) (v : Eqx) (n' : Nat) : (s.setEqx e v).str n' = s.str n' := rfl
@[simp] theorem State.setEqx_img (e : Nat) (v : Eqx) (h' : Nat) : (s.setEqx e v).img h' = s.img h' := rfl
@[simp] theorem State.setEqx_sqr (e : Nat) (v : Eqx) (n' : Nat) : (s.setEqx e v).sqr n' = s.sqr n' := rfl
@[simp] theorem State.setEqx_cqr (e : Nat) (v : Eqx) (n' : Nat) : (s.setEqx e v).cqr n' = s.cqr n' := rfl
@[simp] theorem State.setEqx_prt (e : Nat) (v : Eqx) (p' : Nat) : (s.setEqx e v).prt p' = s.prt p' := rfl
@[simp] theorem State.setEqx_memCh (e : Nat) (v : Eqx) (c' : Nat) : (s.setEqx e v).memCh c' = s.memCh c' := rfl
@[simp] theorem State.setEqx_ctrAt (e : Nat) (v : Eqx) (o' : Nat) : (s.setEqx e v).ctrAt o' = s.ctrAt o' := rfl
@[simp] theorem State.setEqx_safeS (e : Nat) (v : Eqx) (n' : Nat) : (s.setEqx e v).safeS n' = s.safeS n' := rfl
@[simp] theorem State.setEqx_armedAt (e : Nat) (v : Eqx) (d' : Nat) : (s.setEqx e v).armedAt d' = s.armedAt d' := rfl
@[simp] theorem State.setEqx_keyAt (e : Nat) (v : Eqx) (n' : Nat) : (s.setEqx e v).keyAt n' = s.keyAt n' := rfl

/-! ### `State.setMemCh` -/

@[simp] theorem State.setMemCh_pending (c : Nat) (v : Channel) : (s.setMemCh c v).pending = s.pending := rfl
@[simp] theorem State.setMemCh_now (c : Nat) (v : Channel) : (s.setMemCh c v).now = s.now := rfl
@[simp] theorem State.setMemCh_free (c : Nat) (v : Channel) : (s.setMemCh c v).free = s.free := rfl
@[simp] theorem State.setMemCh_outs (c : Nat) (v : Channel) : (s.setMemCh c v).outs = s.outs := rfl
@[simp] theorem State.setMemCh_life (c : Nat) (v : Channel) : (s.setMemCh c v).life = s.life := rfl
@[simp] theorem State.setMemCh_owner (c : Nat) (v : Channel) : (s.setMemCh c v).owner = s.owner := rfl
@[simp] theorem State.setMemCh_sq (c : Nat) (v : Channel) : (s.setMemCh c v).sq = s.sq := rfl
@[simp] theorem State.setMemCh_cq (c : Nat) (v : Channel) : (s.setMemCh c v).cq = s.cq := rfl
@[simp] theorem State.setMemCh_hif (c : Nat) (v : Channel) : (s.setMemCh c v).hif = s.hif := rfl
@[simp] theorem State.setMemCh_inflight (c : Nat) (v : Channel) : (s.setMemCh c v).inflight = s.inflight := rfl
@[simp] theorem State.setMemCh_nextCmd (c : Nat) (v : Channel) : (s.setMemCh c v).nextCmd = s.nextCmd := rfl
@[simp] theorem State.setMemCh_fenced (c : Nat) (v : Channel) : (s.setMemCh c v).fenced = s.fenced := rfl
@[simp] theorem State.setMemCh_safePort (c : Nat) (v : Channel) : (s.setMemCh c v).safePort = s.safePort := rfl
@[simp] theorem State.setMemCh_latches (c : Nat) (v : Channel) : (s.setMemCh c v).latches = s.latches := rfl
@[simp] theorem State.setMemCh_hostMem (c : Nat) (v : Channel) : (s.setMemCh c v).hostMem = s.hostMem := rfl
@[simp] theorem State.setMemCh_streams (c : Nat) (v : Channel) : (s.setMemCh c v).streams = s.streams := rfl
@[simp] theorem State.setMemCh_images (c : Nat) (v : Channel) : (s.setMemCh c v).images = s.images := rfl
@[simp] theorem State.setMemCh_nearAlloc (c : Nat) (v : Channel) : (s.setMemCh c v).nearAlloc = s.nearAlloc := rfl
@[simp] theorem State.setMemCh_farAlloc (c : Nat) (v : Channel) : (s.setMemCh c v).farAlloc = s.farAlloc := rfl
@[simp] theorem State.setMemCh_spillAlloc (c : Nat) (v : Channel) : (s.setMemCh c v).spillAlloc = s.spillAlloc := rfl
@[simp] theorem State.setMemCh_spill (c : Nat) (v : Channel) : (s.setMemCh c v).spill = s.spill := rfl
@[simp] theorem State.setMemCh_groups (c : Nat) (v : Channel) : (s.setMemCh c v).groups = s.groups := rfl
@[simp] theorem State.setMemCh_clusters (c : Nat) (v : Channel) : (s.setMemCh c v).clusters = s.clusters := rfl
@[simp] theorem State.setMemCh_ctr (c : Nat) (v : Channel) : (s.setMemCh c v).ctr = s.ctr := rfl
@[simp] theorem State.setMemCh_mem (c : Nat) (v : Channel) : (s.setMemCh c v).mem = s.mem := rfl
@[simp] theorem State.setMemCh_ports (c : Nat) (v : Channel) : (s.setMemCh c v).ports = s.ports := rfl
@[simp] theorem State.setMemCh_chans (c : Nat) (v : Channel) : (s.setMemCh c v).chans = s.chans := rfl
@[simp] theorem State.setMemCh_eqx (c : Nat) (v : Channel) : (s.setMemCh c v).eqx = s.eqx := rfl
@[simp] theorem State.setMemCh_cometUnit (c : Nat) (v : Channel) : (s.setMemCh c v).cometUnit = s.cometUnit := rfl
@[simp] theorem State.setMemCh_cometToOff (c : Nat) (v : Channel) : (s.setMemCh c v).cometToOff = s.cometToOff := rfl
@[simp] theorem State.setMemCh_cometResetAfter (c : Nat) (v : Channel) : (s.setMemCh c v).cometResetAfter = s.cometResetAfter := rfl
@[simp] theorem State.setMemCh_cfg (c : Nat) (v : Channel) : (s.setMemCh c v).cfg = s.cfg := rfl
@[simp] theorem State.setMemCh_power (c : Nat) (v : Channel) : (s.setMemCh c v).power = s.power := rfl
@[simp] theorem State.setMemCh_safety (c : Nat) (v : Channel) : (s.setMemCh c v).safety = s.safety := rfl
@[simp] theorem State.setMemCh_vigil (c : Nat) (v : Channel) : (s.setMemCh c v).vigil = s.vigil := rfl
@[simp] theorem State.setMemCh_log (c : Nat) (v : Channel) : (s.setMemCh c v).log = s.log := rfl
@[simp] theorem State.setMemCh_repair (c : Nat) (v : Channel) : (s.setMemCh c v).repair = s.repair := rfl
@[simp] theorem State.setMemCh_armed (c : Nat) (v : Channel) : (s.setMemCh c v).armed = s.armed := rfl
@[simp] theorem State.setMemCh_boot (c : Nat) (v : Channel) : (s.setMemCh c v).boot = s.boot := rfl
@[simp] theorem State.setMemCh_keys (c : Nat) (v : Channel) : (s.setMemCh c v).keys = s.keys := rfl
@[simp] theorem State.setMemCh_spillKey (c : Nat) (v : Channel) : (s.setMemCh c v).spillKey = s.spillKey := rfl

@[simp] theorem State.setMemCh_grp (c : Nat) (v : Channel) (g' : Nat) : (s.setMemCh c v).grp g' = s.grp g' := rfl
@[simp] theorem State.setMemCh_clu (c : Nat) (v : Channel) (g' p' : Nat) : (s.setMemCh c v).clu g' p' = s.clu g' p' := rfl
@[simp] theorem State.setMemCh_str (c : Nat) (v : Channel) (n' : Nat) : (s.setMemCh c v).str n' = s.str n' := rfl
@[simp] theorem State.setMemCh_img (c : Nat) (v : Channel) (h' : Nat) : (s.setMemCh c v).img h' = s.img h' := rfl
@[simp] theorem State.setMemCh_sqr (c : Nat) (v : Channel) (n' : Nat) : (s.setMemCh c v).sqr n' = s.sqr n' := rfl
@[simp] theorem State.setMemCh_cqr (c : Nat) (v : Channel) (n' : Nat) : (s.setMemCh c v).cqr n' = s.cqr n' := rfl
@[simp] theorem State.setMemCh_prt (c : Nat) (v : Channel) (p' : Nat) : (s.setMemCh c v).prt p' = s.prt p' := rfl
@[simp] theorem State.setMemCh_eqxOf (c : Nat) (v : Channel) (e' : Nat) : (s.setMemCh c v).eqxOf e' = s.eqxOf e' := rfl
@[simp] theorem State.setMemCh_ctrAt (c : Nat) (v : Channel) (o' : Nat) : (s.setMemCh c v).ctrAt o' = s.ctrAt o' := rfl
@[simp] theorem State.setMemCh_safeS (c : Nat) (v : Channel) (n' : Nat) : (s.setMemCh c v).safeS n' = s.safeS n' := rfl
@[simp] theorem State.setMemCh_armedAt (c : Nat) (v : Channel) (d' : Nat) : (s.setMemCh c v).armedAt d' = s.armedAt d' := rfl
@[simp] theorem State.setMemCh_keyAt (c : Nat) (v : Channel) (n' : Nat) : (s.setMemCh c v).keyAt n' = s.keyAt n' := rfl

/-! ### `State.setSafeS` -/

@[simp] theorem State.setSafeS_pending (n : Nat) (v : SafeS) : (s.setSafeS n v).pending = s.pending := rfl
@[simp] theorem State.setSafeS_now (n : Nat) (v : SafeS) : (s.setSafeS n v).now = s.now := rfl
@[simp] theorem State.setSafeS_free (n : Nat) (v : SafeS) : (s.setSafeS n v).free = s.free := rfl
@[simp] theorem State.setSafeS_outs (n : Nat) (v : SafeS) : (s.setSafeS n v).outs = s.outs := rfl
@[simp] theorem State.setSafeS_life (n : Nat) (v : SafeS) : (s.setSafeS n v).life = s.life := rfl
@[simp] theorem State.setSafeS_owner (n : Nat) (v : SafeS) : (s.setSafeS n v).owner = s.owner := rfl
@[simp] theorem State.setSafeS_sq (n : Nat) (v : SafeS) : (s.setSafeS n v).sq = s.sq := rfl
@[simp] theorem State.setSafeS_cq (n : Nat) (v : SafeS) : (s.setSafeS n v).cq = s.cq := rfl
@[simp] theorem State.setSafeS_hif (n : Nat) (v : SafeS) : (s.setSafeS n v).hif = s.hif := rfl
@[simp] theorem State.setSafeS_inflight (n : Nat) (v : SafeS) : (s.setSafeS n v).inflight = s.inflight := rfl
@[simp] theorem State.setSafeS_nextCmd (n : Nat) (v : SafeS) : (s.setSafeS n v).nextCmd = s.nextCmd := rfl
@[simp] theorem State.setSafeS_fenced (n : Nat) (v : SafeS) : (s.setSafeS n v).fenced = s.fenced := rfl
@[simp] theorem State.setSafeS_safePort (n : Nat) (v : SafeS) : (s.setSafeS n v).safePort = s.safePort := rfl
@[simp] theorem State.setSafeS_latches (n : Nat) (v : SafeS) : (s.setSafeS n v).latches = s.latches := rfl
@[simp] theorem State.setSafeS_hostMem (n : Nat) (v : SafeS) : (s.setSafeS n v).hostMem = s.hostMem := rfl
@[simp] theorem State.setSafeS_streams (n : Nat) (v : SafeS) : (s.setSafeS n v).streams = s.streams := rfl
@[simp] theorem State.setSafeS_images (n : Nat) (v : SafeS) : (s.setSafeS n v).images = s.images := rfl
@[simp] theorem State.setSafeS_nearAlloc (n : Nat) (v : SafeS) : (s.setSafeS n v).nearAlloc = s.nearAlloc := rfl
@[simp] theorem State.setSafeS_farAlloc (n : Nat) (v : SafeS) : (s.setSafeS n v).farAlloc = s.farAlloc := rfl
@[simp] theorem State.setSafeS_spillAlloc (n : Nat) (v : SafeS) : (s.setSafeS n v).spillAlloc = s.spillAlloc := rfl
@[simp] theorem State.setSafeS_spill (n : Nat) (v : SafeS) : (s.setSafeS n v).spill = s.spill := rfl
@[simp] theorem State.setSafeS_groups (n : Nat) (v : SafeS) : (s.setSafeS n v).groups = s.groups := rfl
@[simp] theorem State.setSafeS_clusters (n : Nat) (v : SafeS) : (s.setSafeS n v).clusters = s.clusters := rfl
@[simp] theorem State.setSafeS_ctr (n : Nat) (v : SafeS) : (s.setSafeS n v).ctr = s.ctr := rfl
@[simp] theorem State.setSafeS_mem (n : Nat) (v : SafeS) : (s.setSafeS n v).mem = s.mem := rfl
@[simp] theorem State.setSafeS_channels (n : Nat) (v : SafeS) : (s.setSafeS n v).channels = s.channels := rfl
@[simp] theorem State.setSafeS_ports (n : Nat) (v : SafeS) : (s.setSafeS n v).ports = s.ports := rfl
@[simp] theorem State.setSafeS_chans (n : Nat) (v : SafeS) : (s.setSafeS n v).chans = s.chans := rfl
@[simp] theorem State.setSafeS_eqx (n : Nat) (v : SafeS) : (s.setSafeS n v).eqx = s.eqx := rfl
@[simp] theorem State.setSafeS_cometUnit (n : Nat) (v : SafeS) : (s.setSafeS n v).cometUnit = s.cometUnit := rfl
@[simp] theorem State.setSafeS_cometToOff (n : Nat) (v : SafeS) : (s.setSafeS n v).cometToOff = s.cometToOff := rfl
@[simp] theorem State.setSafeS_cometResetAfter (n : Nat) (v : SafeS) : (s.setSafeS n v).cometResetAfter = s.cometResetAfter := rfl
@[simp] theorem State.setSafeS_cfg (n : Nat) (v : SafeS) : (s.setSafeS n v).cfg = s.cfg := rfl
@[simp] theorem State.setSafeS_power (n : Nat) (v : SafeS) : (s.setSafeS n v).power = s.power := rfl
@[simp] theorem State.setSafeS_vigil (n : Nat) (v : SafeS) : (s.setSafeS n v).vigil = s.vigil := rfl
@[simp] theorem State.setSafeS_log (n : Nat) (v : SafeS) : (s.setSafeS n v).log = s.log := rfl
@[simp] theorem State.setSafeS_repair (n : Nat) (v : SafeS) : (s.setSafeS n v).repair = s.repair := rfl
@[simp] theorem State.setSafeS_armed (n : Nat) (v : SafeS) : (s.setSafeS n v).armed = s.armed := rfl
@[simp] theorem State.setSafeS_boot (n : Nat) (v : SafeS) : (s.setSafeS n v).boot = s.boot := rfl
@[simp] theorem State.setSafeS_keys (n : Nat) (v : SafeS) : (s.setSafeS n v).keys = s.keys := rfl
@[simp] theorem State.setSafeS_spillKey (n : Nat) (v : SafeS) : (s.setSafeS n v).spillKey = s.spillKey := rfl

@[simp] theorem State.setSafeS_grp (n : Nat) (v : SafeS) (g' : Nat) : (s.setSafeS n v).grp g' = s.grp g' := rfl
@[simp] theorem State.setSafeS_clu (n : Nat) (v : SafeS) (g' p' : Nat) : (s.setSafeS n v).clu g' p' = s.clu g' p' := rfl
@[simp] theorem State.setSafeS_str (n : Nat) (v : SafeS) (n' : Nat) : (s.setSafeS n v).str n' = s.str n' := rfl
@[simp] theorem State.setSafeS_img (n : Nat) (v : SafeS) (h' : Nat) : (s.setSafeS n v).img h' = s.img h' := rfl
@[simp] theorem State.setSafeS_sqr (n : Nat) (v : SafeS) (n' : Nat) : (s.setSafeS n v).sqr n' = s.sqr n' := rfl
@[simp] theorem State.setSafeS_cqr (n : Nat) (v : SafeS) (n' : Nat) : (s.setSafeS n v).cqr n' = s.cqr n' := rfl
@[simp] theorem State.setSafeS_prt (n : Nat) (v : SafeS) (p' : Nat) : (s.setSafeS n v).prt p' = s.prt p' := rfl
@[simp] theorem State.setSafeS_eqxOf (n : Nat) (v : SafeS) (e' : Nat) : (s.setSafeS n v).eqxOf e' = s.eqxOf e' := rfl
@[simp] theorem State.setSafeS_memCh (n : Nat) (v : SafeS) (c' : Nat) : (s.setSafeS n v).memCh c' = s.memCh c' := rfl
@[simp] theorem State.setSafeS_ctrAt (n : Nat) (v : SafeS) (o' : Nat) : (s.setSafeS n v).ctrAt o' = s.ctrAt o' := rfl
@[simp] theorem State.setSafeS_armedAt (n : Nat) (v : SafeS) (d' : Nat) : (s.setSafeS n v).armedAt d' = s.armedAt d' := rfl
@[simp] theorem State.setSafeS_keyAt (n : Nat) (v : SafeS) (n' : Nat) : (s.setSafeS n v).keyAt n' = s.keyAt n' := rfl

/-! ### `State.setCtr` -/

@[simp] theorem State.setCtr_pending (o v : Nat) : (s.setCtr o v).pending = s.pending := rfl
@[simp] theorem State.setCtr_now (o v : Nat) : (s.setCtr o v).now = s.now := rfl
@[simp] theorem State.setCtr_free (o v : Nat) : (s.setCtr o v).free = s.free := rfl
@[simp] theorem State.setCtr_outs (o v : Nat) : (s.setCtr o v).outs = s.outs := rfl
@[simp] theorem State.setCtr_life (o v : Nat) : (s.setCtr o v).life = s.life := rfl
@[simp] theorem State.setCtr_owner (o v : Nat) : (s.setCtr o v).owner = s.owner := rfl
@[simp] theorem State.setCtr_sq (o v : Nat) : (s.setCtr o v).sq = s.sq := rfl
@[simp] theorem State.setCtr_cq (o v : Nat) : (s.setCtr o v).cq = s.cq := rfl
@[simp] theorem State.setCtr_hif (o v : Nat) : (s.setCtr o v).hif = s.hif := rfl
@[simp] theorem State.setCtr_inflight (o v : Nat) : (s.setCtr o v).inflight = s.inflight := rfl
@[simp] theorem State.setCtr_nextCmd (o v : Nat) : (s.setCtr o v).nextCmd = s.nextCmd := rfl
@[simp] theorem State.setCtr_fenced (o v : Nat) : (s.setCtr o v).fenced = s.fenced := rfl
@[simp] theorem State.setCtr_safePort (o v : Nat) : (s.setCtr o v).safePort = s.safePort := rfl
@[simp] theorem State.setCtr_latches (o v : Nat) : (s.setCtr o v).latches = s.latches := rfl
@[simp] theorem State.setCtr_hostMem (o v : Nat) : (s.setCtr o v).hostMem = s.hostMem := rfl
@[simp] theorem State.setCtr_streams (o v : Nat) : (s.setCtr o v).streams = s.streams := rfl
@[simp] theorem State.setCtr_images (o v : Nat) : (s.setCtr o v).images = s.images := rfl
@[simp] theorem State.setCtr_nearAlloc (o v : Nat) : (s.setCtr o v).nearAlloc = s.nearAlloc := rfl
@[simp] theorem State.setCtr_farAlloc (o v : Nat) : (s.setCtr o v).farAlloc = s.farAlloc := rfl
@[simp] theorem State.setCtr_spillAlloc (o v : Nat) : (s.setCtr o v).spillAlloc = s.spillAlloc := rfl
@[simp] theorem State.setCtr_spill (o v : Nat) : (s.setCtr o v).spill = s.spill := rfl
@[simp] theorem State.setCtr_groups (o v : Nat) : (s.setCtr o v).groups = s.groups := rfl
@[simp] theorem State.setCtr_clusters (o v : Nat) : (s.setCtr o v).clusters = s.clusters := rfl
@[simp] theorem State.setCtr_mem (o v : Nat) : (s.setCtr o v).mem = s.mem := rfl
@[simp] theorem State.setCtr_channels (o v : Nat) : (s.setCtr o v).channels = s.channels := rfl
@[simp] theorem State.setCtr_ports (o v : Nat) : (s.setCtr o v).ports = s.ports := rfl
@[simp] theorem State.setCtr_chans (o v : Nat) : (s.setCtr o v).chans = s.chans := rfl
@[simp] theorem State.setCtr_eqx (o v : Nat) : (s.setCtr o v).eqx = s.eqx := rfl
@[simp] theorem State.setCtr_cometUnit (o v : Nat) : (s.setCtr o v).cometUnit = s.cometUnit := rfl
@[simp] theorem State.setCtr_cometToOff (o v : Nat) : (s.setCtr o v).cometToOff = s.cometToOff := rfl
@[simp] theorem State.setCtr_cometResetAfter (o v : Nat) : (s.setCtr o v).cometResetAfter = s.cometResetAfter := rfl
@[simp] theorem State.setCtr_cfg (o v : Nat) : (s.setCtr o v).cfg = s.cfg := rfl
@[simp] theorem State.setCtr_power (o v : Nat) : (s.setCtr o v).power = s.power := rfl
@[simp] theorem State.setCtr_safety (o v : Nat) : (s.setCtr o v).safety = s.safety := rfl
@[simp] theorem State.setCtr_vigil (o v : Nat) : (s.setCtr o v).vigil = s.vigil := rfl
@[simp] theorem State.setCtr_log (o v : Nat) : (s.setCtr o v).log = s.log := rfl
@[simp] theorem State.setCtr_repair (o v : Nat) : (s.setCtr o v).repair = s.repair := rfl
@[simp] theorem State.setCtr_armed (o v : Nat) : (s.setCtr o v).armed = s.armed := rfl
@[simp] theorem State.setCtr_boot (o v : Nat) : (s.setCtr o v).boot = s.boot := rfl
@[simp] theorem State.setCtr_keys (o v : Nat) : (s.setCtr o v).keys = s.keys := rfl
@[simp] theorem State.setCtr_spillKey (o v : Nat) : (s.setCtr o v).spillKey = s.spillKey := rfl

@[simp] theorem State.setCtr_grp (o v : Nat) (g' : Nat) : (s.setCtr o v).grp g' = s.grp g' := rfl
@[simp] theorem State.setCtr_clu (o v : Nat) (g' p' : Nat) : (s.setCtr o v).clu g' p' = s.clu g' p' := rfl
@[simp] theorem State.setCtr_str (o v : Nat) (n' : Nat) : (s.setCtr o v).str n' = s.str n' := rfl
@[simp] theorem State.setCtr_img (o v : Nat) (h' : Nat) : (s.setCtr o v).img h' = s.img h' := rfl
@[simp] theorem State.setCtr_sqr (o v : Nat) (n' : Nat) : (s.setCtr o v).sqr n' = s.sqr n' := rfl
@[simp] theorem State.setCtr_cqr (o v : Nat) (n' : Nat) : (s.setCtr o v).cqr n' = s.cqr n' := rfl
@[simp] theorem State.setCtr_prt (o v : Nat) (p' : Nat) : (s.setCtr o v).prt p' = s.prt p' := rfl
@[simp] theorem State.setCtr_eqxOf (o v : Nat) (e' : Nat) : (s.setCtr o v).eqxOf e' = s.eqxOf e' := rfl
@[simp] theorem State.setCtr_memCh (o v : Nat) (c' : Nat) : (s.setCtr o v).memCh c' = s.memCh c' := rfl
@[simp] theorem State.setCtr_safeS (o v : Nat) (n' : Nat) : (s.setCtr o v).safeS n' = s.safeS n' := rfl
@[simp] theorem State.setCtr_armedAt (o v : Nat) (d' : Nat) : (s.setCtr o v).armedAt d' = s.armedAt d' := rfl
@[simp] theorem State.setCtr_keyAt (o v : Nat) (n' : Nat) : (s.setCtr o v).keyAt n' = s.keyAt n' := rfl

/-! ### `State.emit` -/

@[simp] theorem State.emit_pending (o : Out) : (s.emit o).pending = s.pending := rfl
@[simp] theorem State.emit_now (o : Out) : (s.emit o).now = s.now := rfl
@[simp] theorem State.emit_free (o : Out) : (s.emit o).free = s.free := rfl
@[simp] theorem State.emit_life (o : Out) : (s.emit o).life = s.life := rfl
@[simp] theorem State.emit_owner (o : Out) : (s.emit o).owner = s.owner := rfl
@[simp] theorem State.emit_sq (o : Out) : (s.emit o).sq = s.sq := rfl
@[simp] theorem State.emit_cq (o : Out) : (s.emit o).cq = s.cq := rfl
@[simp] theorem State.emit_hif (o : Out) : (s.emit o).hif = s.hif := rfl
@[simp] theorem State.emit_inflight (o : Out) : (s.emit o).inflight = s.inflight := rfl
@[simp] theorem State.emit_nextCmd (o : Out) : (s.emit o).nextCmd = s.nextCmd := rfl
@[simp] theorem State.emit_fenced (o : Out) : (s.emit o).fenced = s.fenced := rfl
@[simp] theorem State.emit_safePort (o : Out) : (s.emit o).safePort = s.safePort := rfl
@[simp] theorem State.emit_latches (o : Out) : (s.emit o).latches = s.latches := rfl
@[simp] theorem State.emit_hostMem (o : Out) : (s.emit o).hostMem = s.hostMem := rfl
@[simp] theorem State.emit_streams (o : Out) : (s.emit o).streams = s.streams := rfl
@[simp] theorem State.emit_images (o : Out) : (s.emit o).images = s.images := rfl
@[simp] theorem State.emit_nearAlloc (o : Out) : (s.emit o).nearAlloc = s.nearAlloc := rfl
@[simp] theorem State.emit_farAlloc (o : Out) : (s.emit o).farAlloc = s.farAlloc := rfl
@[simp] theorem State.emit_spillAlloc (o : Out) : (s.emit o).spillAlloc = s.spillAlloc := rfl
@[simp] theorem State.emit_spill (o : Out) : (s.emit o).spill = s.spill := rfl
@[simp] theorem State.emit_groups (o : Out) : (s.emit o).groups = s.groups := rfl
@[simp] theorem State.emit_clusters (o : Out) : (s.emit o).clusters = s.clusters := rfl
@[simp] theorem State.emit_ctr (o : Out) : (s.emit o).ctr = s.ctr := rfl
@[simp] theorem State.emit_mem (o : Out) : (s.emit o).mem = s.mem := rfl
@[simp] theorem State.emit_channels (o : Out) : (s.emit o).channels = s.channels := rfl
@[simp] theorem State.emit_ports (o : Out) : (s.emit o).ports = s.ports := rfl
@[simp] theorem State.emit_chans (o : Out) : (s.emit o).chans = s.chans := rfl
@[simp] theorem State.emit_eqx (o : Out) : (s.emit o).eqx = s.eqx := rfl
@[simp] theorem State.emit_cometUnit (o : Out) : (s.emit o).cometUnit = s.cometUnit := rfl
@[simp] theorem State.emit_cometToOff (o : Out) : (s.emit o).cometToOff = s.cometToOff := rfl
@[simp] theorem State.emit_cometResetAfter (o : Out) : (s.emit o).cometResetAfter = s.cometResetAfter := rfl
@[simp] theorem State.emit_cfg (o : Out) : (s.emit o).cfg = s.cfg := rfl
@[simp] theorem State.emit_power (o : Out) : (s.emit o).power = s.power := rfl
@[simp] theorem State.emit_safety (o : Out) : (s.emit o).safety = s.safety := rfl
@[simp] theorem State.emit_vigil (o : Out) : (s.emit o).vigil = s.vigil := rfl
@[simp] theorem State.emit_log (o : Out) : (s.emit o).log = s.log := rfl
@[simp] theorem State.emit_repair (o : Out) : (s.emit o).repair = s.repair := rfl
@[simp] theorem State.emit_armed (o : Out) : (s.emit o).armed = s.armed := rfl
@[simp] theorem State.emit_boot (o : Out) : (s.emit o).boot = s.boot := rfl
@[simp] theorem State.emit_keys (o : Out) : (s.emit o).keys = s.keys := rfl
@[simp] theorem State.emit_spillKey (o : Out) : (s.emit o).spillKey = s.spillKey := rfl

@[simp] theorem State.emit_grp (o : Out) (g' : Nat) : (s.emit o).grp g' = s.grp g' := rfl
@[simp] theorem State.emit_clu (o : Out) (g' p' : Nat) : (s.emit o).clu g' p' = s.clu g' p' := rfl
@[simp] theorem State.emit_str (o : Out) (n' : Nat) : (s.emit o).str n' = s.str n' := rfl
@[simp] theorem State.emit_img (o : Out) (h' : Nat) : (s.emit o).img h' = s.img h' := rfl
@[simp] theorem State.emit_sqr (o : Out) (n' : Nat) : (s.emit o).sqr n' = s.sqr n' := rfl
@[simp] theorem State.emit_cqr (o : Out) (n' : Nat) : (s.emit o).cqr n' = s.cqr n' := rfl
@[simp] theorem State.emit_prt (o : Out) (p' : Nat) : (s.emit o).prt p' = s.prt p' := rfl
@[simp] theorem State.emit_eqxOf (o : Out) (e' : Nat) : (s.emit o).eqxOf e' = s.eqxOf e' := rfl
@[simp] theorem State.emit_memCh (o : Out) (c' : Nat) : (s.emit o).memCh c' = s.memCh c' := rfl
@[simp] theorem State.emit_ctrAt (o : Out) (o' : Nat) : (s.emit o).ctrAt o' = s.ctrAt o' := rfl
@[simp] theorem State.emit_safeS (o : Out) (n' : Nat) : (s.emit o).safeS n' = s.safeS n' := rfl
@[simp] theorem State.emit_armedAt (o : Out) (d' : Nat) : (s.emit o).armedAt d' = s.armedAt d' := rfl
@[simp] theorem State.emit_keyAt (o : Out) (n' : Nat) : (s.emit o).keyAt n' = s.keyAt n' := rfl

/-! ### What was written is read back -/

@[simp] theorem State.setGrp_grp_self (n : Nat) (v : Group) : (s.setGrp n v).grp n = v := tget_tput_self _ _ _ _
theorem State.setGrp_grp_of_ne {n m : Nat} (v : Group) (h : m ≠ n) : (s.setGrp n v).grp m = s.grp m :=
  tget_tput_of_ne _ _ _ h
@[simp] theorem State.setStr_str_self (n : Nat) (v : Stream) : (s.setStr n v).str n = v := tget_tput_self _ _ _ _
theorem State.setStr_str_of_ne {n m : Nat} (v : Stream) (h : m ≠ n) : (s.setStr n v).str m = s.str m :=
  tget_tput_of_ne _ _ _ h
@[simp] theorem State.setImg_img_self (n : Nat) (v : Image) : (s.setImg n v).img n = v := tget_tput_self _ _ _ _
theorem State.setImg_img_of_ne {n m : Nat} (v : Image) (h : m ≠ n) : (s.setImg n v).img m = s.img m :=
  tget_tput_of_ne _ _ _ h
@[simp] theorem State.setSq_sqr_self (n : Nat) (v : SqRing) : (s.setSq n v).sqr n = v := tget_tput_self _ _ _ _
theorem State.setSq_sqr_of_ne {n m : Nat} (v : SqRing) (h : m ≠ n) : (s.setSq n v).sqr m = s.sqr m :=
  tget_tput_of_ne _ _ _ h
@[simp] theorem State.setCq_cqr_self (n : Nat) (v : CqRing) : (s.setCq n v).cqr n = v := tget_tput_self _ _ _ _
theorem State.setCq_cqr_of_ne {n m : Nat} (v : CqRing) (h : m ≠ n) : (s.setCq n v).cqr m = s.cqr m :=
  tget_tput_of_ne _ _ _ h
@[simp] theorem State.setPrt_prt_self (n : Nat) (v : Port) : (s.setPrt n v).prt n = v := tget_tput_self _ _ _ _
theorem State.setPrt_prt_of_ne {n m : Nat} (v : Port) (h : m ≠ n) : (s.setPrt n v).prt m = s.prt m :=
  tget_tput_of_ne _ _ _ h
@[simp] theorem State.setEqx_eqxOf_self (n : Nat) (v : Eqx) : (s.setEqx n v).eqxOf n = v := tget_tput_self _ _ _ _
theorem State.setEqx_eqxOf_of_ne {n m : Nat} (v : Eqx) (h : m ≠ n) : (s.setEqx n v).eqxOf m = s.eqxOf m :=
  tget_tput_of_ne _ _ _ h
@[simp] theorem State.setMemCh_memCh_self (n : Nat) (v : Channel) : (s.setMemCh n v).memCh n = v := tget_tput_self _ _ _ _
theorem State.setMemCh_memCh_of_ne {n m : Nat} (v : Channel) (h : m ≠ n) : (s.setMemCh n v).memCh m = s.memCh m :=
  tget_tput_of_ne _ _ _ h
@[simp] theorem State.setCtr_ctrAt_self (n : Nat) (v : Nat) : (s.setCtr n v).ctrAt n = v := tget_tput_self _ _ _ _
theorem State.setCtr_ctrAt_of_ne {n m : Nat} (v : Nat) (h : m ≠ n) : (s.setCtr n v).ctrAt m = s.ctrAt m :=
  tget_tput_of_ne _ _ _ h
@[simp] theorem State.setClu_clu_self (g p : Nat) (v : Cluster) : (s.setClu g p v).clu g p = v := tget_tput_self _ _ _ _
@[simp] theorem State.setChn_chn_self (p k d : Nat) (v : Chan) : (s.setChn p k d v).chn p k d = v := tget_tput_self _ _ _ _
@[simp] theorem State.setSafeS_safeS_self (n : Nat) (v : SafeS) : (s.setSafeS n v).safeS n = v := tget_tput_self _ _ _ _
@[simp] theorem State.modGrp_eq (g : Nat) (f : Group → Group) : s.modGrp g f = s.setGrp g (f (s.grp g)) := rfl
@[simp] theorem State.modClu_eq (g p : Nat) (f : Cluster → Cluster) : s.modClu g p f = s.setClu g p (f (s.clu g p)) := rfl
@[simp] theorem State.modStr_eq (n : Nat) (f : Stream → Stream) : s.modStr n f = s.setStr n (f (s.str n)) := rfl
@[simp] theorem State.modPrt_eq (p : Nat) (f : Port → Port) : s.modPrt p f = s.setPrt p (f (s.prt p)) := rfl
@[simp] theorem State.tick_now (t : Nat) : (s.tick t).now = max s.now t := rfl
@[simp] theorem State.emit_outs (o : Out) : (s.emit o).outs = s.outs ++ [o] := rfl

end Sys2Proof.Machine
end

