-- ==== Sys2Proof/Laws/Commands.lean ====
section
/-! SUPPORT. How a command reaches its effect, in the terms of Sys2Proof/Safety.lean, and how events of a group reach
theirs: what the statements' hypotheses make of the shared operations. -/

namespace Sys2Proof.Machine

open Sys2Proof.Safety

/-- A part outside an operation's footprint is the same after it: with a `keeps_` lemma of the operation, applied to
`Keeps.rfl`, this gives each frame fact. -/
theorem Keeps.same {F : Nat} {s s' : State} (h : Keeps F s s') (p : Part) (k : F.testBit (Part.idx p) = false) : p.same s s' := by
  rcases h.frame.out p with h | h
  · exact h
  · rw [k] at h; cases h

/-! ### Armed detectors -/

theorem State.fireArmed_none {s : State} {d : Nat} (h : s.armedAt d = none) : s.fireArmed d = (false, s) := by
  simp [State.fireArmed, h]

theorem armedAt_of_unarmed {s : State} {g : Nat} {l : List Nat} (h : unarmed s g l = true) {k : Nat} (hk : k ∈ l) :
    s.armedAt (grpDetector g k) = none := by
  have := List.all_eq_true.1 h k hk
  simpa using this

/-- Whether detectors are armed depends on no other part. -/
theorem unarmed_congr {s s' : State} (h : s'.armed = s.armed) (g : Nat) (l : List Nat) : unarmed s' g l = unarmed s g l := by
  simp [unarmed, State.armedAt, h]

theorem State.guardFail_none {s : State} {g det st : Nat} {bad : Bool} (h : s.armedAt (grpDetector g det) = none) :
    s.guardFail g det bad st = if bad then some (s.failIssue g st false) else none := by
  cases bad <;> simp [State.guardFail, State.fireArmed_none h]

theorem State.engineFault_none {s : State} {g p det v : Nat} (h : s.armedAt (grpDetector g det) = none) :
    s.engineFault g p det v false = s := by
  simp [State.engineFault, State.fireArmed_none h]

theorem State.armedRead_none {s : State} {g : Nat} (h : unarmed s g [31, 32, 33] = true) (v : RowVerdict) :
    s.armedRead g v = (s, v) := by
  simp [State.armedRead, State.fireArmed_none (armedAt_of_unarmed h (show 31 ∈ [31, 32, 33] by simp)),
    State.fireArmed_none (armedAt_of_unarmed h (show 32 ∈ [31, 32, 33] by simp)),
    State.fireArmed_none (armedAt_of_unarmed h (show 33 ∈ [31, 32, 33] by simp))]

/-! ### Actions and words that are due -/

theorem State.onAction_of_due {s : State} {g op : Nat} {eff : RunInfo → Action → State → State} {r : RunInfo} {a : Action}
    (h : s.actionDue g op = some (r, a)) : s.onAction g op eff = eff r a (s.passEntry g) := by
  simp [State.onAction, h]

theorem State.onAction_of_none {s : State} {g op : Nat} {eff : RunInfo → Action → State → State}
    (h : s.actionDue g op = none) : s.onAction g op eff = s := by
  simp [State.onAction, h]

theorem State.onSlotAction_of_due {s : State} {g op : Nat} {out : Bool} {ecc : Ecc} {r : RunInfo} {a : Action}
    (h : s.actionDue g op = some (r, a)) (k : s.swapBlocked g a r = none) :
    s.onSlotAction g op out ecc = (s.passEntry g).moveRecord g r a out ecc := by
  simp [State.onSlotAction, h, k, State.onAction_of_due h]

theorem State.onWord_of_due {s : State} {g c unit op p : Nat} {w : MWord} {eff : Nat → Nat → MWord → State → State}
    (h : s.wordDue g c unit op = some (p, w)) :
    s.onWord g c unit op eff =
      eff (s.schedNow g) p w (s.modClu g p fun cl => cl.passWord w (s.schedNow g) cl.loops) := by
  simp [State.onWord, h]

theorem State.onWord_of_none {s : State} {g c unit op : Nat} {eff : Nat → Nat → MWord → State → State}
    (h : s.wordDue g c unit op = none) : s.onWord g c unit op eff = s := by
  simp [State.onWord, h]

/-! ### Commands -/

theorem fetchEntry_nextCmd (s : State) (n : Nat) : (s.fetchEntry n).nextCmd = s.nextCmd := rfl

@[simp] theorem atArbiter_nextCmd (s : State) (t : Nat) (h : Hdr) : (atArbiter s t h).nextCmd = s.nextCmd :=
  State.advance_nextCmd ..

theorem arrived_nextCmd (s : State) (t : Nat) (h : Hdr) : (arrived s t h).nextCmd = s.nextCmd := by
  unfold arrived
  cases h.master <;> exact atArbiter_nextCmd s t h

theorem State.reach_of_not_fenced {s : State} {h : Hdr} {i : Instr} {a b : Nat} {c : CmdInfo}
    {eff : Inflight → State → State}
    (w : (h.fence && ({ s with nextCmd := s.nextCmd + 1 } : State).fenceHolds h.master h.ring s.nextCmd) = false) :
    s.reach h i a b c eff = ({ s with nextCmd := s.nextCmd + 1 } : State).takeCmd
      { id := s.nextCmd, hdr := h, sqHead := a, instr := i, cq := b, objs := [] } c eff := by
  unfold State.reach
  exact if_neg (by rw [w]; simp)

/-- The arbiter takes a command that its entry spells, whose transport brings it and that need not wait. -/
theorem hostCommand_of_reaches {s : State} {t : Nat} {h : Hdr} {c : CmdInfo} (k : reaches s t h = true)
    (q : spells h c.op c.fields = true ∨ opcodeListed h = false) (i : Instr) (eff : Inflight → State → State) :
    s.hostCommand t h i c eff =
      ({ arrived s t h with nextCmd := s.nextCmd + 1 } : State).takeCmd (entryOf s t h i []) c eff := by
  simp only [reaches, Bool.and_eq_true, Bool.not_eq_true'] at k
  obtain ⟨k, w⟩ := k
  have n := arrived_nextCmd s t h
  have r : ∀ a b, (arrived s t h).reach h i a b c eff = ({ arrived s t h with nextCmd := s.nextCmd + 1 } : State).takeCmd
      { id := s.nextCmd, hdr := h, sqHead := a, instr := i, cq := b, objs := [] } c eff := by
    intro a b
    have := State.reach_of_not_fenced (s := arrived s t h) (h := h) (i := i) (a := a) (b := b) (c := c) (eff := eff)
      (by rw [n]; rw [mustWait, n] at w; exact w)
    rw [n] at this; exact this
  unfold comes at k
  rw [Bool.and_eq_true] at k
  obtain ⟨turn, k⟩ := k
  have m : s.hostCommand t h i c eff = (atArbiter s t h).arrive h i c eff := by
    rw [State.hostCommand, turn]; rfl
  have p : (opcodeListed h && !spells h c.op c.fields) = false := by rcases q with q | q <;> simp [q]
  rw [m]
  unfold State.arrive entryOf
  rw [if_neg (by rw [p]; simp)]
  cases e : h.master <;> simp only [e] at k ⊢
  · rw [if_pos k]
    have : arrived s t h = (atArbiter s t h).fetchEntry h.ring := by unfold arrived; simp only [e]
    rw [this] at r ⊢
    rw [fetchEntry_nextCmd, atArbiter_nextCmd]
    exact r _ _
  · simp only [Bool.and_eq_true, Bool.not_eq_true', decide_eq_true_eq] at k
    obtain ⟨⟨⟨k1, k2⟩, k3⟩, k4⟩ := k
    rw [if_neg (by simp [k1, k2]), if_neg (by omega), if_pos k4]
    have : arrived s t h = atArbiter s t h := by unfold arrived; simp only [e]
    rw [this] at r ⊢
    rw [atArbiter_nextCmd]
    exact r _ _
  · simp only [Bool.and_eq_true, Option.isNone_iff_eq_none] at k
    obtain ⟨⟨⟨⟨k1, k2⟩, k3⟩, k4⟩, k5⟩ := k
    have : arrived s t h = { atArbiter s t h with safePort :=
        { (atArbiter s t h).safePort with executing := some (atArbiter s t h).nextCmd, crcError := false, refused := false } } := by
      unfold arrived; simp only [e]
    rw [if_neg (by simp [k1]), State.fireArmed_none k2, if_neg (by simp), if_neg (by simp; exact ⟨k3, k4⟩)]
    rw [this] at r ⊢
    rw [if_pos (by exact k5)]
    simp only [atArbiter_nextCmd] at r ⊢
    exact r _ _

theorem State.takeCmd_of_none {s : State} {i : Inflight} {h : Hdr} {c : CmdInfo} {eff : Inflight → State → State}
    (e : i.hdr = h) (k : (s.expireLease.renewLease h.master).refusal h c = none) :
    s.takeCmd i c eff = (let j : Inflight := { i with objs := if c.cls == .read then [] else c.objs }
      let x := s.expireLease.renewLease h.master
      eff j { x with inflight := x.inflight ++ [j] }) := by
  subst e; simp only [State.takeCmd, k]

theorem State.takeCmd_of_some {s : State} {i : Inflight} {h : Hdr} {c : CmdInfo} {eff : Inflight → State → State} {st : Nat}
    (e : i.hdr = h) (k : (s.expireLease.renewLease h.master).refusal h c = some st) :
    s.takeCmd i c eff = (s.expireLease.renewLease h.master).deliver i st [] := by
  subst e; simp only [State.takeCmd, k]

theorem entryOf_hdr (s : State) (t : Nat) (h : Hdr) (i : Instr) (l : List Obj) : (entryOf s t h i l).hdr = h := by
  unfold entryOf; cases h.master <;> rfl

theorem entryOf_objs (s : State) (t : Nat) (h : Hdr) (i : Instr) (l m : List Obj) :
    ({ entryOf s t h i l with objs := m } : Inflight) = entryOf s t h i m := by
  unfold entryOf; cases h.master <;> rfl

theorem judged_eq (s : State) (t : Nat) (h : Hdr) :
    judged s t h = ({ arrived s t h with nextCmd := s.nextCmd + 1 } : State).expireLease.renewLease h.master := by
  rw [← arrived_nextCmd s t h]; rfl

/-- A command that executes takes its own effect. -/
theorem hostCommand_of_executes {s : State} {t : Nat} {h : Hdr} {c : CmdInfo} (k : executes s t h c = true) (i : Instr)
    (eff : Inflight → State → State) :
    s.hostCommand t h i c eff = eff (entryOf s t h i (if c.cls == .read then [] else c.objs)) (begun s t h i c) := by
  simp only [executes, Bool.and_eq_true, Option.isNone_iff_eq_none] at k
  obtain ⟨⟨q, k⟩, r⟩ := k
  rw [hostCommand_of_reaches k (.inl q), State.takeCmd_of_none (entryOf_hdr s t h i []) (by rw [← judged_eq]; exact r),
    ← judged_eq, entryOf_objs]
  rfl

/-- A command that a check refuses completes with that check's status. -/
theorem hostCommand_of_refused {s : State} {t : Nat} {h : Hdr} {c : CmdInfo} {st : Nat} (k : reaches s t h = true)
    (q : spells h c.op c.fields = true ∨ opcodeListed h = false) (r : (judged s t h).refusal h c = some st) (i : Instr)
    (eff : Inflight → State → State) :
    s.hostCommand t h i c eff = (judged s t h).deliver (entryOf s t h i []) st [] := by
  rw [hostCommand_of_reaches k q, State.takeCmd_of_some (entryOf_hdr s t h i []) (by rw [← judged_eq]; exact r),
    ← judged_eq]

end Sys2Proof.Machine
end

