-- ==== Sys2Proof/WellFormed.lean ====
section
/-! DEFINITION. Well-formed commands: every operand fits the field or the numbering that the spec gives it. -/

namespace Sys2Proof

def okGroup (g : Nat) : Bool := decide (g < 48)
def okCluster (c : Nat) : Bool := decide (c < 25)
def okPort (p : Nat) : Bool := decide (p < 16)
def okEqx (e : Nat) : Bool := decide (e < 4)
def okRing (n : Nat) : Bool := decide (n < 64)
def okStream (n : Nat) : Bool := decide (n < 2 ^ 20)
def okChannel (c : Nat) : Bool := decide (c < 48)
def okByte (v : Nat) : Bool := decide (v < 2 ^ 8)
def okU16 (v : Nat) : Bool := decide (v < 2 ^ 16)
def okU32 (v : Nat) : Bool := decide (v < 2 ^ 32)
def okU48 (v : Nat) : Bool := decide (v < 2 ^ 48)
def okU64 (v : Nat) : Bool := decide (v < 2 ^ 64)

/-- The ring of a command exists (R274), and its message tag fits (R280). -/
def Hdr.ok (h : Hdr) : Bool := okRing h.ring && decide (h.msgTag < 8)

/-- The fields of STREAM_OPEN fit their bytes (Table 13-5). -/
def OpenParams.ok (p : OpenParams) : Bool :=
  okStream p.stream && okByte p.image && okByte p.cls && okByte p.home && okByte p.cq && okByte p.rate
    && okU16 p.deadline && decide (p.stale < 2 ^ 24) && okU64 p.outBase

/-- The fields of STREAM_IMPORT fit their bytes (Table 13-4). -/
def ImportParams.ok (p : ImportParams) : Bool :=
  okStream p.stream && okByte p.cls && okByte p.home && okByte p.cq && okByte p.keySlot && okU64 p.addr
    && okU64 p.outBase && okU16 p.deadline && okU32 p.stale

/-- What a scratchpad read met names a cluster and a row of it (R83). -/
def EccHit.ok (x : EccHit) : Bool := okCluster x.cluster && decide (x.row < 8192)
def Ecc.ok (l : Ecc) : Bool := l.all EccHit.ok

/-- The errors of a burst are those that its code is stated for: at most three bytes (R225). -/
def RowRead.ok (r : RowRead) : Bool := decide (r.lower.bytes ≤ 3) && decide (r.upper.bytes ≤ 3)

def MemReads.ok (l : MemReads) : Bool := l.all fun x => x.2.1.ok && x.2.2.ok

/-- A write is repeated at most 8 times (R235). -/
def WriteRetries.ok (l : WriteRetries) : Bool := l.all fun x => decide (x.2 ≤ 9)

/-- Every operand fits its field or numbering. -/
def Instr.wellFormed : Instr → Bool
  | .nop _ h | .deviceQuery _ h | .claim _ h _ _ | .release _ h | .ownerQuery _ h | .powerQuery _ h
  | .vigilStatus _ h | .deviceReset _ h | .fwQuery _ h => h.ok
  | .grant _ h target _ => h.ok && decide (target < 4)
  | .imageLoad _ h addr len _ retries => h.ok && okU64 addr && okU64 len && retries.ok
  | .imageUnload _ h handle => h.ok && okByte handle
  | .imageReload _ h handle addr len _ retries => h.ok && okByte handle && okU64 addr && okU64 len && retries.ok
  | .imageQuery _ h handle dest => h.ok && okByte handle && okU64 dest
  | .streamOpen _ h p retries => h.ok && p.ok && retries.ok
  | .streamClose _ h stream => h.ok && okStream stream
  | .streamQuery _ h stream part dest => h.ok && okStream stream && decide (part < 4) && okU64 dest
  | .streamMark _ h stream index => h.ok && okStream stream && okU48 index
  | .streamExport _ h stream keySlot _ addr len =>
    h.ok && okStream stream && okByte keySlot && okU64 addr && okU32 len
  | .streamImport _ h p _ => h.ok && p.ok
  | .streamInput _ h stream first count addr _ => h.ok && okStream stream && okU48 first && okU32 count && okU64 addr
  | .streamMove _ h stream home => h.ok && okStream stream && decide (home < 64)
  | .spillAssign _ h base size => h.ok && okU64 base && okU64 size
  | .disable _ h type index _ => h.ok && okByte type && okByte index
  | .enable _ h type index => h.ok && okByte type && okByte index
  | .unitReset _ h type index _ => h.ok && okByte type && okByte index
  | .unitQuery _ h type index => h.ok && okByte type && okByte index
  | .powerCapSet _ h cap => h.ok && okU16 cap
  | .keyLoad _ h slot kind addr len _ => h.ok && okByte slot && okByte kind && okU64 addr && okU32 len
  | .keyClear _ h slot => h.ok && okByte slot
  | .keyEnrol _ h addr len _ => h.ok && okU64 addr && okU32 len
  | .attest _ h _ dest len => h.ok && okU64 dest && okU32 len
  | .safeStateRequest _ h reason => h.ok && okByte reason
  | .selfTest _ h group cluster => h.ok && okByte group && okByte cluster
  | .regRead _ h bar count offset => h.ok && okByte bar && okByte count && okU32 offset
  | .regWrite _ h bar count offset data => h.ok && okByte bar && okByte count && okU32 offset && decide (data.length = 4)
  | .inject _ h detector count => h.ok && okU16 detector && okByte count
  | .eventMirror _ h addr _ => h.ok && okU64 addr
  | .fwWrite _ h addr len _ => h.ok && okU64 addr && okU32 len
  | .fwActivate _ h slot => h.ok && okByte slot
  | .fenceWaitEnd _ _ ring => okRing ring
  | .sqTail _ ring tail => okRing ring && decide (tail < 4096)
  | .cqHead _ ring head => okRing ring && decide (head < 4096)
  | .ringSqEnable _ ring v | .ringCqEnable _ ring v => okRing ring && v.getLsbD 0
  | .ringSqDisable _ ring v | .ringCqDisable _ ring v => okRing ring && !v.getLsbD 0
  | .coalesceTimeout _ ring => okRing ring
  | .portCfgWrite _ _ port _ | .rxMaskWrite _ _ port _ | .txMaskWrite _ _ port _ => okPort port
  | .membersWrite _ _ e _ | .arm _ _ e | .fire _ _ e | .disarm _ _ e => okEqx e
  | .devIntClear _ _ _ _ | .devIntEnWrite _ _ _ => true
  | .msixUnmask _ vector => decide (vector < 256)
  | .registerWrite _ _ bar offset _ size | .readClear _ _ bar offset size | .pairLoRead _ _ bar offset size =>
    (bar == 0 || bar == 2) && decide (offset < 2 ^ 26) && [1, 2, 4, 8].contains size
  | .safetyPortResponse _ | .leaseExpiry _ | .linkDown _ | .functionLevelReset _ | .perstNLow _ | .perstNHigh _
  | .powerUp _ | .vigilImageVerify _ _ _ | .firmwareBoot _ _ _ | .groupsLeaveReset _ => true
  | .linkUp _ speed width flit => decide (1 ≤ speed ∧ speed ≤ 6) && [1, 2, 4, 8].contains width && (speed != 6 || flit)
  | .startupInjectionEnd _ failed => failed.all fun d => okU16 d.1 && decide (d.2 < 26)
  | .abandonRuns _ | .domainReset _ | .sStreamReopen _ | .resumption _ => true
  | .imageHashCheck _ decayed => decayed.all fun h => decide (1 ≤ h ∧ h ≤ 64)
  | .watchdogExpiry _ core => decide (core < 4)
  | .autoDegrade _ | .rootLockLoss _ | .rootRelock _ | .refclkLoss _ | .coolantLoss _ | .coolantGlitch _
  | .stopClockGate _ | .stopComplete _ | .vin48Loss _ | .vstbyLoss _ => true
  | .sensorRead _ readings => decide (readings.length = 56) && readings.all okByte
  | .powerInterval _ _ activity _ supply droop =>
    decide (activity.length = 48) && (activity.all fun l => decide (l.length = 11)) && decide (supply.length = 4)
      && decide (droop.length = 48) && supply.all okU16 && droop.all okU16
  | .capUpdate _ => true
  | .roundStart _ g => okGroup g
  | .almanacSlotEnd _ g result _ _ => okGroup g && decide (result.rows.length ≤ 8192)
  | .readinessNotice _ stream | .exportBegin _ stream | .moveBegin _ stream
  | .moveEnd _ stream | .streamClosed _ stream => okStream stream
  | .exportDone _ stream _ _ reads retries => okStream stream && reads.ok && retries.ok
  | .importDone _ stream retries => okStream stream && retries.ok
  | .swapInDone _ g slot _ reads retries => okGroup g && decide (slot < 128) && reads.ok && retries.ok
  | .swapOutDone _ g slot _ _ retries => okGroup g && decide (slot < 128) && retries.ok
  | .unitDisabled _ type index => okByte type && okByte index
  | .unitResetEnd _ type index failed _ => okByte type && okByte index && failed.all fun d => okU16 d.1 && decide (d.2 < 26)
  | .loadSeg _ g | .segmentArrival _ g _ | .start _ g | .expand _ g | .expanderBlockArrival _ g
  | .fetch _ g | .input _ g | .barrier _ g | .endRun _ g | .gapEnd _ g | .rowDue _ g
  | .storeBufferDrain _ g | .scrubHoldEnd _ g | .holdTimeout _ g => okGroup g
  | .quiesceEnd _ g retries => okGroup g && retries.ok
  | .store _ g ecc retries => okGroup g && ecc.ok && retries.ok
  | .blockDecode _ g _ reads => okGroup g && reads.all fun x => decide (x.1 < 260) && x.2.1.ok && x.2.2.all RowRead.ok
  | .rereadArrival _ g read => okGroup g && read.ok
  | .xfer _ g ecc | .stateIn _ g ecc | .stateOut _ g ecc | .output _ g ecc => okGroup g && ecc.ok
  | .memoryRowArrival _ g i read => okGroup g && decide (i < 65536) && read.ok
  | .commitState _ g _ p | .commitOutput _ g _ p | .completionStamp _ g _ p => okGroup g && decide (p < 64)
  | .controlNop _ g c | .wait _ g c | .loop _ g c | .halt _ g c | .mfac _ g c | .seta _ g c | .setb _ g c
  | .vectorOperationEnd _ g c | .factorFormationEnd _ g c _ => okGroup g && okCluster c
  | .mma _ g c ecc | .mepi _ g c ecc | .ldlut _ g c ecc => okGroup g && okCluster c && ecc.ok
  | .ew _ g c ecc _ | .cvt _ g c ecc _ | .red _ g c ecc _ | .scan _ g c ecc _ => okGroup g && okCluster c && ecc.ok
  | .epilogueEnd _ g c acc upset => okGroup g && okCluster c && decide (acc < 2) && (upset == 0 || decide (2 ≤ upset ∧ upset ≤ 6))
  | .receiveFrame _ port _ slots => okPort port && decide (slots.length ≤ 32)
  | .transmitFrameStart _ port | .paceTick _ port | .rateWindowEnd _ port | .subWindowEnd _ port | .noClock _ port =>
    okPort port
  | .equinoxMasterRestart _ e | .equinoxTrigger _ e | .eqxOffsetWindow _ e => okEqx e
  | .hopEnd _ _ _ | .vigilSelfCheck _ _ => true
  | .alertHoldEnd _ line => decide (line < 3)
  | .tapLost _ tap => decide (tap < 64)
  | .refresh _ channel tempC => okChannel channel && okByte tempC
  | .channelCalibration _ channel _ => okChannel channel
  | .patrolScrub _ channel offset read _ reread other otherAgain =>
    okChannel channel && decide (offset < 9 * 2 ^ 30) && read.ok && reread.ok && other.ok && otherAgain.ok
  | .injectTimeout _ detector => okU16 detector
  | .fwWriteDone _ _ | .repairRecordWritten _ | .safetyPortCommandRejected _ _ => true
  | .memoryWindowRead _ offset read reread => decide (offset < 2 ^ 24) && read.ok && reread.ok
  | .configurationRequest _ _ | .coolantRestored _ | .refclkReturn _ => true

end Sys2Proof
end

