-- ==== Sys2Proof/Tests/Slice0.lean ====
section
/-! SUPPORT. Tests: operands that `wellFormed` refuses; for every statement of Obligations.lean a concrete state and operands
that meet its hypotheses (`witness_…`, named after the statement); and for the commands small tests of one step whose
expected values are worked out from the spec by hand (`test_…`). -/

-- one theorem after the other: each thread of an elaboration in parallel reserves memory for its stack
set_option Elab.async false

namespace Sys2Proof.Tests

open Sys2Proof Sys2Proof.Machine Sys2Proof.Safety

/-! ### Small states and operands -/

/-- A command of a master with an entry of zeros, and one whose entry spells the command described, with TAG 7. -/
def bare (m : Master) : Hdr := { master := m, ring := 0, msgTag := 5, entry := 0 }
def hdr (m : Master) (i : CmdInfo) (fence : Bool := false) : Hdr :=
  { bare m with entry := encodeEntry i.op 7 fence i.fields }
def sb : Hdr := bare .sideband
def pc : Hdr := bare .pcie
def sp : Hdr := bare .safety

/-- The command executes at time 0, and the state in which it takes its own effect. -/
def ok (s : State) (i : CmdInfo) (m : Master := .sideband) : Bool := executes s 0 (hdr m i) i
def bg (s : State) (c : Hdr → Instr) (i : CmdInfo) : State := begun s 0 (hdr .sideband i) (c (hdr .sideband i)) i

/-- Memory reads without an error, with a wrong byte in one half, and with more in both. -/
def clean : RowRead := ⟨⟨0, false⟩, ⟨0, false⟩⟩
def oneWrong : RowRead := ⟨⟨1, false⟩, ⟨0, false⟩⟩
def allWrong : RowRead := ⟨⟨2, false⟩, ⟨3, true⟩⟩

/-- A powered device that is ready, with the sideband as owner and rack manager and the link up. -/
def up : State := { State.reset with
  life := { phase := .ready, ready := true, vin48 := true, vstby := true, refclk := true, rootLocked := true }
  owner := { owner := 1, role := true, leaseEnd := 1250000000 }
  hif := { linkUp := true } }

/-- The same with one group out of reset, whose image 1 is loaded with near rows from offset 0. -/
def work : State := { up with
  images := [(1, { loaded := true, recordRows := 64, chunkSamples := 16, nearExtent := 4096 })]
  groups := [(3, { running := true, planned := true })] }

/-- The device in a phase of Table 17-3, 17-4, 15-8 or 14-5. -/
def at_ (p : Phase) (k : StartKind) : State := { up with life := { up.life with phase := p, kind := k, ready := false } }

/-! ### Operands that are not well formed -/

def openOk : OpenParams :=
  { stream := 5, image := 1, cls := 1, home := 3, cq := 0, rate := 8, deadline := 100, stale := 0, source := 0, sink := 0
    outBase := 0 }

def importOk : ImportParams :=
  { stream := 5, cls := 1, home := 3, cq := 0, keySlot := 2, addr := 0, source := 0, sink := 0, outBase := 0
    deadline := 100, stale := 0, ovr := false }

/-- A header's ring, a master, and the fields of command parameters. -/
def badCommands : List Instr :=
  [.nop 0 { sb with ring := 64 }, .nop 0 { sb with msgTag := 8 }, .grant 0 sb 4 false
   , .imageLoad 0 sb (2 ^ 64) 0 none [], .imageLoad 0 sb 0 (2 ^ 64) none [], .imageLoad 0 sb 0 0 none [(0, 10)]
   , .imageUnload 0 sb 256, .imageReload 0 sb 256 0 0 none [], .imageQuery 0 sb 0 (2 ^ 64)
   , .streamOpen 0 sb { openOk with stream := 2 ^ 20 } [], .streamOpen 0 sb { openOk with image := 256 } []
   , .streamOpen 0 sb { openOk with cls := 256 } [], .streamOpen 0 sb { openOk with home := 256 } []
   , .streamOpen 0 sb { openOk with cq := 256 } [], .streamOpen 0 sb { openOk with rate := 256 } []
   , .streamOpen 0 sb { openOk with deadline := 2 ^ 16 } [], .streamOpen 0 sb { openOk with stale := 2 ^ 24 } []
   , .streamOpen 0 sb { openOk with outBase := 2 ^ 64 } [], .streamClose 0 sb (2 ^ 20), .streamQuery 0 sb 0 4 0
   , .streamMark 0 sb 0 (2 ^ 48), .streamExport 0 sb 0 256 false 0 0, .streamExport 0 sb 0 0 false 0 (2 ^ 32)
   , .streamImport 0 sb { importOk with stream := 2 ^ 20 } none, .streamImport 0 sb { importOk with cls := 256 } none
   , .streamImport 0 sb { importOk with home := 256 } none, .streamImport 0 sb { importOk with cq := 256 } none
   , .streamImport 0 sb { importOk with keySlot := 256 } none, .streamImport 0 sb { importOk with addr := 2 ^ 64 } none
   , .streamImport 0 sb { importOk with outBase := 2 ^ 64 } none, .streamImport 0 sb { importOk with deadline := 2 ^ 16 } none
   , .streamImport 0 sb { importOk with stale := 2 ^ 32 } none, .streamInput 0 sb 0 (2 ^ 48) 0 0 none
   , .streamInput 0 sb 0 0 (2 ^ 32) 0 none, .streamMove 0 sb 0 64]

def badCommands2 : List Instr :=
  [.spillAssign 0 sb (2 ^ 64) 0, .spillAssign 0 sb 0 (2 ^ 64), .disable 0 sb 256 0 false, .disable 0 sb 0 256 false
   , .enable 0 sb 0 256, .unitReset 0 sb 0 256 false, .unitQuery 0 sb 0 256, .powerCapSet 0 sb (2 ^ 16)
   , .keyLoad 0 sb 256 0 0 192 none, .keyLoad 0 sb 0 256 0 192 none, .keyLoad 0 sb 0 0 0 (2 ^ 32) none, .keyClear 0 sb 256
   , .keyEnrol 0 sb (2 ^ 64) 60 none, .attest 0 sb 0 0 (2 ^ 32), .safeStateRequest 0 sb 256, .selfTest 0 sb 0 256
   , .regRead 0 sb 256 1 0, .regWrite 0 sb 0 1 0 [0, 0, 0], .regWrite 0 sb 0 1 (2 ^ 32) [0, 0, 0, 0], .inject 0 sb (2 ^ 16) 1
   , .inject 0 sb 0 256, .eventMirror 0 sb (2 ^ 64) true, .fwWrite 0 sb 0 (2 ^ 32) none, .fwActivate 0 sb 256]

/-- Activity counts of the groups in a power interval. -/
def acts11 : List (List Nat) := List.replicate 48 (List.replicate 11 0)

/-- Events and register accesses. -/
def badEvents : List Instr :=
  [.fenceWaitEnd 0 .pcie 64, .sqTail 0 64 0, .sqTail 0 0 4096, .cqHead 0 64 0, .cqHead 0 0 4096, .ringSqEnable 0 0 0
   , .ringCqEnable 0 0 2, .ringSqDisable 0 0 1, .ringCqDisable 0 0 1, .coalesceTimeout 0 64, .portCfgWrite 0 .pcie 16 0
   , .rxMaskWrite 0 .pcie 16 0, .membersWrite 0 .pcie 4 0, .arm 0 .pcie 4, .msixUnmask 0 256, .registerWrite 0 .pcie 1 0 0
   , .registerWrite 0 .pcie 0 0 0 3, .readClear 0 .pcie 0 (2 ^ 26), .linkUp 0 0 8 true, .linkUp 0 7 8 true
   , .linkUp 0 5 3 true, .linkUp 0 6 8 false
   , .startupInjectionEnd 0 [(2 ^ 16, 0)], .startupInjectionEnd 0 [(0, 26)], .imageHashCheck 0 [0], .imageHashCheck 0 [65]
   , .watchdogExpiry 0 4, .sensorRead 0 (List.replicate 55 0), .sensorRead 0 (List.replicate 56 256)
   , .powerInterval 0 0 [] 0 [0, 0, 0, 0] (List.replicate 48 0)
   , .powerInterval 0 0 (List.replicate 48 []) 0 [0, 0, 0, 0] (List.replicate 48 0)
   , .powerInterval 0 0 acts11 0 [] (List.replicate 48 0)
   , .powerInterval 0 0 acts11 0 [0, 0, 0, 2 ^ 16] (List.replicate 48 0)
   , .powerInterval 0 0 acts11 0 [0, 0, 0, 0] []]

def badEvents2 : List Instr :=
  [.roundStart 0 48, .readinessNotice 0 (2 ^ 20), .swapInDone 0 48 0 .none [] [], .swapInDone 0 0 128 .none [] []
   , .swapOutDone 0 0 128 [] true [], .unitDisabled 0 256 0, .unitResetEnd 0 0 0 [(0, 26)], .loadSeg 0 48
   , .store 0 0 [] [(0, 10)], .store 0 0 [⟨0, 25, 0, .clean⟩] [], .xfer 0 0 [⟨0, 0, 8192, .clean⟩]
   , .stateIn 0 0 [⟨0, 25, 0, .uncorrectable false⟩], .memoryRowArrival 0 0 65536 clean
   , .rereadArrival 0 0 ⟨⟨4, false⟩, ⟨0, false⟩⟩, .commitState 0 0 0 64, .controlNop 0 0 25
   , .mma 0 48 0 [], .ew 0 0 25 [] .none, .epilogueEnd 0 0 0 2 0, .epilogueEnd 0 0 0 0 1, .epilogueEnd 0 0 0 0 7
   , .receiveFrame 0 16 0 [], .receiveFrame 0 0 0 (List.replicate 33 0), .paceTick 0 16, .equinoxTrigger 0 4
   , .alertHoldEnd 0 3, .tapLost 0 64, .refresh 0 48 0, .refresh 0 0 256, .channelCalibration 0 48 true
   , .patrolScrub 0 0 (9 * 2 ^ 30) clean false, .injectTimeout 0 (2 ^ 16)
   , .memoryWindowRead 0 (2 ^ 24) clean clean, .blockDecode 0 0 false [(260, clean, none)]
   , .equinoxMasterRestart 0 4, .almanacSlotEnd 0 48 ⟨[], false, false, false, false⟩ 0 []]

theorem test_ill_formed_commands_refused : (badCommands ++ badCommands2).all (fun c => !c.wellFormed) = true := by decide
theorem test_ill_formed_events_refused : (badEvents ++ badEvents2).all (fun c => !c.wellFormed) = true := by decide
theorem test_well_formed_accepted :
    ([.nop 0 { sb with ring := 63 }, .streamOpen 0 sb openOk [], .streamImport 0 sb importOk none, .streamMove 0 sb 0 63
      , .regWrite 0 sb 0 1 0 [0, 0, 0, 0], .linkUp 0 6 8 true, .store 0 47 [⟨0, 24, 8191, .corrected true⟩] [(7, 9)]
      , .epilogueEnd 0 0 0 1 6
   , .memoryWindowRead 0 (2 ^ 24 - 1) allWrong clean] : List Instr).all (·.wellFormed) = true := by decide


/-! ### Witnesses: commands and masters -/

theorem witness_StepTakesFront : ({ up with pending := [.nop 0 sb] } : State).pending = .nop 0 sb :: [] := rfl
theorem witness_EmptyQueueTicks : up.pending = [] := rfl
theorem witness_StepKeepsSound : Sound State.reset ∧ (∃ s', step { up with pending := [.deviceReset 0 sb] } = .next s')
    ∧ ∃ s', step State.reset = .next s' := by
  refine ⟨⟨⟨by decide, by decide⟩, by decide, by decide⟩, ⟨_, rfl⟩, ⟨_, rfl⟩⟩
theorem witness_FrameOfEveryCommand : (∃ s', exec (.powerUp 0) State.reset = .next s') ∧ Part.hostMem ∉ footprint (.powerUp 0)
    ∧ Part.mem ∈ footprint (.powerUp 0) ∧ Part.boot ∉ footprint (.refresh 0 0 40) ∧ Part.boot ∉ advanceParts :=
  ⟨⟨_, rfl⟩, by decide, by decide, by decide, by decide⟩
theorem witness_RollbackFloorAndEnrolment : ∃ s s' : State, s.boot.enrolled = true ∧ step s = .next s' :=
  ⟨{ up with boot := { enrolled := true, keyHash := List.replicate 32 1 } }, _, rfl, rfl⟩
theorem witness_JournalOnlyGrows : ∃ s', step up = .next s' := ⟨_, rfl⟩

/-- IMAGE_UNLOAD of image 1 by a master. -/
def unload1 (m : Master) : Hdr := hdr m (infoImageUnload 1)
theorem witness_CommandsTakeEffect : ∃ info eff, headerOf (.imageUnload 0 (unload1 .sideband) 1) = some (0, unload1 .sideband)
    ∧ commandOf (.imageUnload 0 (unload1 .sideband) 1) = some (info, eff)
    ∧ standbyServes (.imageUnload 0 (unload1 .sideband) 1) (unload1 .sideband) = false
    ∧ executes work 0 (unload1 .sideband) info = true := ⟨infoImageUnload 1, _, rfl, rfl, rfl, by decide +kernel⟩
theorem witness_RefusedCommandsDoNothing : ∃ info eff, headerOf (.imageUnload 0 (unload1 .safety) 1) = some (0, unload1 .safety)
    ∧ commandOf (.imageUnload 0 (unload1 .safety) 1) = some (info, eff)
    ∧ standbyServes (.imageUnload 0 (unload1 .safety) 1) (unload1 .safety) = false
    ∧ spells (unload1 .safety) info.op info.fields = true ∧ reaches work 0 (unload1 .safety) = true
    ∧ (judged work 0 (unload1 .safety)).refusal (unload1 .safety) info = some 0x0070 :=
  ⟨infoImageUnload 1, _, rfl, rfl, rfl, by decide +kernel, by decide +kernel, by decide +kernel⟩
theorem witness_RefusedCommandsDoNothing_unlisted : opcodeListed sb = false ∧ reaches work 0 sb = true
    ∧ (judged work 0 sb).refusal sb infoNop = some 0x0001 := by decide +kernel
theorem witness_ChecksInOrder :
    (opcodeListed sb = false ∧ opcodeListed (hdr .sideband infoNop) = true)
    ∧ ((infoImageLoad 0 0).cls = .owner ∧ up.owner.owner ≠ Master.num .pcie)
    ∧ ((infoPowerCapSet 300).cls = .rackManager ∧ up.owner.owner = Master.num .sideband
      ∧ ({ up with owner := { up.owner with role := false } } : State).owner.role = false)
    ∧ (infoNop.cls = .read ∧ up.owner.role = true)
    ∧ ((infoClaim pc false false).cls = .election ∧ up.owner.owner ≠ 3 ∧ (infoClaim pc false false).op = 0x0010)
    ∧ ((infoClaim sb true true).brk = true
      ∧ ({ up with owner := { up.owner with owner := 0 } } : State).owner.owner ≠ Master.num .sideband
      ∧ up.owner.expired = false)
    ∧ (infoRelease.cls = .election ∧ infoRelease.op ≠ 0x0010 ∧ up.owner.owner ≠ Master.num .pcie) := by decide +kernel
theorem spill_entry : (hdr .sideband (infoSpillAssign 64 (2 ^ 64 - 1))).entry = encodeEntry (infoSpillAssign 64 (2 ^ 64 - 1)).op
    (7#32).toNat false (infoSpillAssign 64 (2 ^ 64 - 1)).fields := by decide +kernel
theorem witness_OpcodesClassesAndEntries : ∃ eff,
    commandOf (.spillAssign 0 (hdr .sideband (infoSpillAssign 64 (2 ^ 64 - 1))) 64 (2 ^ 64 - 1))
      = some (infoSpillAssign 64 (2 ^ 64 - 1), eff)
    ∧ (∀ f ∈ (infoSpillAssign 64 (2 ^ 64 - 1)).fields, f.value < 2 ^ f.width)
    ∧ (hdr .sideband (infoSpillAssign 64 (2 ^ 64 - 1))).entry = encodeEntry (infoSpillAssign 64 (2 ^ 64 - 1)).op
      (7#32).toNat false (infoSpillAssign 64 (2 ^ 64 - 1)).fields :=
  ⟨_, rfl, by decide, spill_entry⟩

/-- A command of the sideband that has not completed, and a waiting one with FENCE. -/
def busyBand : State := { up with
  nextCmd := 5
  inflight := [{ id := 4, hdr := sb, sqHead := 0, instr := .streamClose 0 sb 5, cq := 0, objs := [.stream 5], waiting := true }] }
def fencedNop : Fenced :=
  { instr := .nop 0 (hdr .sideband infoNop true), hdr := hdr .sideband infoNop true, id := 6, sqHead := 0, cq := 0 }

theorem witness_FenceWaits :
    (let h := hdr .sideband infoNop true
     headerOf (.nop 0 h) = some (0, h) ∧ (∃ eff, commandOf (.nop 0 h) = some (infoNop, eff))
      ∧ standbyServes (.nop 0 h) h = false ∧ spells h infoNop.op infoNop.fields = true ∧ comes busyBand 0 h = true
      ∧ mustWait busyBand 0 h = true)
    ∧ (∃ f info eff, (({ busyBand with fenced := [fencedNop] } : State).atCtrl 0).oldestFenced .sideband 0 = some f
      ∧ commandOf f.instr = some (info, eff)
      ∧ (({ busyBand with fenced := [fencedNop] } : State).atCtrl 0).served .sideband = true
      ∧ (({ busyBand with fenced := [fencedNop] } : State).atCtrl 0).fenceHolds .sideband f.hdr.ring f.id = true
      ∧ (({ up with fenced := [fencedNop] } : State).atCtrl 0).fenceHolds .sideband f.hdr.ring f.id = false) :=
  ⟨⟨rfl, ⟨_, rfl⟩, rfl, by decide +kernel, by decide +kernel, by decide +kernel⟩,
    fencedNop, infoNop, _, by decide +kernel, rfl, by decide +kernel, by decide +kernel, by decide +kernel⟩

/-- A submission ring of the PCIe host with one entry to fetch. -/
def pcieUp_ : State := { up with
  owner := { up.owner with owner := 0 }
  sq := [(0, { en := true, log2 := 4, tail := 1 })], cq := [(0, { en := true, log2 := 4 })] }

theorem witness_QueriesAnswer :
    ([infoNop, infoDeviceQuery, infoOwnerQuery, infoUnitQuery 0 47, infoPowerQuery, infoVigilStatus, infoStreamQuery sb 5 3 0
      , infoRegRead 0 4 0x2FFFF0].all fun i => ok up i) = true
    ∧ ok work (infoImageQuery sb 1 0) = true ∧ ok pcieUp_ (infoStreamQuery pc 5 0 4096) .pcie = true
    ∧ ((bg work (.imageQuery 0 · 1 0) (infoImageQuery sb 1 0)).img 1).loaded = true ∧ sb.master ≠ .safety := by decide +kernel
theorem witness_FwQueryAnswers : ok up infoFwQuery = true := by decide +kernel
theorem witness_ElectionSetsOwner :
    ok { up with owner := {} } (infoClaim sb true false) = true ∧ ok up infoRelease = true ∧ ok up (infoGrant sb 0 true) = true
    ∧ ((up.advance 5000000000).controlUp = true ∧ (up.advance 5000000000).owner.owner ≠ 3
      ∧ (up.advance 5000000000).owner.expired = false
      ∧ (up.advance 5000000000).owner.leaseEnd ≤ (up.advance 5000000000).ctrl)
    ∧ (up.advance 4999999999).ctrl < (up.advance 4999999999).owner.leaseEnd := by decide +kernel

/-! ### Witnesses: streams and images -/

/-- An image of one variant and a small chunk in a group that takes it. -/
def img1 : Image :=
  { loaded := true, recordRows := 64, chunkSamples := 96, nearExtent := 4096, outBytes := 2, digest := List.replicate 32 9 }
def roomy : State := { up with
  images := [(1, img1)]
  groups := [(3, { running := true, planned := true })] }
def open1 : OpenParams := { openOk with deadline := 200, source := 0x20000000#32, sink := 0 }
def stream5 : Stream :=
  { st := .opened, cls := .c, image := 1, home := 3, rate := 8, chunkSamples := 96, deadline := 200, source := 0x20000000#32 }
def withStream (n : Stream) : State := { roomy with
  streams := [(5, n)], groups := roomy.groups ++ [(4, { running := true, planned := true })]
  -- a model key in slot 1, an export key in slot 2
  keys := [(1, some ⟨0, List.replicate 64 1⟩), (2, some ⟨1, List.replicate 64 2⟩)] }
def oneOpen : State := withStream stream5
def inState (st : StrState) : State := withStream { stream5 with st }
def export0 (begun : Bool) : ExportReq := { keySlot := 2, move := false, addr := 0, len := 4276, cmd := 0, begun }
def move0 (begun : Bool) : MoveReq := { target := 4, base := 0, cmd := 0, begun }

theorem witness_StreamCommandsAct_open :
    ok roomy (infoStreamOpen open1) = true
    ∧ (let x := bg roomy (.streamOpen 0 · open1 []) (infoStreamOpen open1)
      let m := x.img 1
      (x.str 5).reserved = false ∧ m.loaded = true ∧ x.sourceOk open1.source 8 m.chunkSamples = true
      ∧ x.sinkOk 0 8 m = true ∧ x.openUp 3 open1.source 0 = true ∧ timesOk .c 8 m.chunkSamples 200 0 = true
      ∧ x.admitHome ⟨1, .c, 48000, m.chunkSamples⟩ 3 = some 3
      ∧ (x.openStream
        { stream := 5, cls := .c, image := 1, home := 3, cq := 0, rate := 8, deadline := 200, stale := 0
          source := 0x20000000#32, sink := 0, outBase := 0, classWord := m.initClassWord }
        (fun n y => y.initialRecord n 0xFFFFFFFF 0) []).isSome = true) := by decide +kernel
theorem witness_StreamCommandsAct_others :
    ((inState .opened :: withStream { stream5 with xport := some (export0 false) }
        :: withStream { stream5 with move := some (move0 false) } :: inState .closed
        :: [StrState.moving, .closing, .exporting].map inState).all fun s =>
      ok s (infoStreamClose 5) && ok s (infoStreamMark 5 96) && ok s (infoStreamInput 5 0 2 0) && ok s (infoStreamMove 5 4)
        && ok s (infoStreamMove 5 0x3F)) = true
    ∧ (let x := bg oneOpen (.streamMove 0 · 5 4) (infoStreamMove 5 4)
      let r := x.str 5
      r.st = .opened ∧ r.xport = none ∧ r.markBad 96 = false ∧ x.hif.linkUp = true ∧ r.inputRefusal 0 2 = none
      ∧ r.move = none ∧ (x.grp 4).unit = .enabled ∧ x.moveTarget 5 4 = some 4 ∧ (x.moveRing 5 4).isSome = true)
    ∧ ([StrState.moving, .exporting].all fun st => !((inState st).str 5).markBad 96) = true
    ∧ ((inState .exporting).str 5).inputRefusal 0 2 = none := by decide +kernel

def import1 : ImportParams := { importOk with stream := 6, source := 0x20000000#32, deadline := 0 }

theorem witness_ExportAndImportBegin :
    ok oneOpen (infoStreamExport 5 2 false 0 4276) = true ∧ ok oneOpen (infoStreamImport import1) = true
    ∧ (let x := bg oneOpen (.streamExport 0 · 5 2 false 0 4276) (infoStreamExport 5 2 false 0 4276)
      let r := x.str 5
      r.st = .opened ∧ r.xport = none ∧ 128 + 4148 * ((x.img r.image).recordRows / 64) ≤ 4276 ∧ x.cometUnit = .enabled
      ∧ (x.exportKey 2).isSome = true)
    ∧ (let x := bg oneOpen (.streamImport 0 · import1 (some [])) (infoStreamImport import1)
      (x.str 6).reserved = false ∧ x.openUp 3 import1.source 0 = true ∧ x.exportKey 2 = some (List.replicate 64 2)
      ∧ x.hif.linkUp = true ∧ x.fireCodec.1 = none) := by decide +kernel
/-- The device at memory level 8. -/
def slow (s : State) : State := { s with power := { s.power with m := 8 } }
theorem witness_ImageCommandsAct :
    (∀ s ∈ [roomy, slow roomy], ok s (infoImageLoad 0 64) = true ∧ ok s (infoImageReload 1 0 64) = true)
    ∧ ok roomy (infoImageUnload 1) = true ∧ (slow roomy).power.m = 8
    ∧ (let x := bg roomy (.imageLoad 0 · 0 64 (some []) []) (infoImageLoad 0 64)
      x.power.m ≠ 8 ∧ x.hif.linkUp = true ∧ x.freeHandle = some 2 ∧ (x.placeImage (pkgBody (pad 64 []))).isSome = true)
    ∧ (let x := bg roomy (.imageUnload 0 · 1) (infoImageUnload 1)
      (x.img 1).loaded = true ∧ x.imageBusy 1 = false) := by decide +kernel
theorem witness_SpillAndCapAreSet :
    (ok up (infoSpillAssign 0 (2 ^ 21)) = true ∧ up.spillAlloc = [])
    ∧ (ok { up with spillAlloc := [⟨0, 64⟩] } (infoSpillAssign 0 0) = true)
    ∧ (ok up (infoPowerCapSet 300) = true ∧ ok up (infoPowerCapSet 850) = true
      ∧ 850 ≤ min 850 up.power.thermalCap ∧ min 300 up.power.thermalCap < 850) := by decide +kernel

/-- A port's data path in a state, and group 3. -/
def portIn (p : Nat) (u : UnitState) (held : HeldBy := .none) : State :=
  { up with ports := [(p, { unit := u, heldBy := held })] }
def groupIn (u : UnitState) (after : Bool := false) : State :=
  { up with groups := [(3, { running := true, planned := true, unit := u, resetAfter := after })] }

theorem witness_UnitCommandsAct_disable :
    ([UnitState.enabled, .draining, .aborting, .disabled, .off, .resetting].all fun u =>
      ok (portIn 15 u) (infoDisable 1 15 false) && ok (groupIn u) (infoDisable 0 3 true)
        && decide ((portIn 15 u).unitOf 1 15 = u)) = true
    ∧ ¬ (((0 : Nat) = 0 ∨ (0 : Nat) = 3) ∧ 0 < (groupIn .enabled).sHomed 3)
    ∧ (let s := withStream { stream5 with cls := .s }
      ok s (infoDisable 0 3 false) = true ∧ ok s (infoDisable 3 3 false) = true ∧ 0 < s.sHomed 3) := by decide +kernel
theorem witness_UnitCommandsAct_enable :
    ([UnitState.enabled, .disabled, .off, .resetting, .draining].all fun u =>
      ok (groupIn u) (infoEnable 0 3) && !(groupIn u).unitHeld 0 3 && !(groupIn u).resetAfter 0 3) = true
    ∧ (ok (groupIn .aborting true) (infoEnable 0 3) = true ∧ (groupIn .aborting true).unitHeld 0 3 = false
      ∧ (groupIn .aborting true).resetAfter 0 3 = true)
    ∧ (ok (portIn 0 .disabled .latent) (infoEnable 1 0) = true ∧ (portIn 0 .disabled .latent).unitHeld 1 0 = true) := by
  decide +kernel
theorem witness_UnitCommandsAct_reset :
    ([UnitState.disabled, .off, .enabled, .draining].all fun u =>
      ok (groupIn u) (infoUnitReset 0 3 false) && !(groupIn u).unitHeld 0 3 && ((groupIn u).grp 3).retiring.isNone
        && !(groupIn u).resetAfter 0 3) = true
    ∧ (ok (groupIn .aborting true) (infoUnitReset 0 3 true) = true ∧ (groupIn .aborting true).resetAfter 0 3 = true)
    ∧ ok (groupIn .resetting) (infoUnitReset 0 3 true) = true
    ∧ (ok (portIn 0 .disabled .latent) (infoUnitReset 1 0 false) = true
      ∧ (portIn 0 .disabled .latent).unitHeld 1 0 = true) := by decide +kernel
theorem witness_UnitCommandsAct_selfTest :
    ok work (infoSelfTest 3 24) = true ∧ ok work (infoSelfTest 3 25) = true ∧ work.clusterCount ≤ 25 ∧ 24 < work.clusterCount
    ∧ (work.grp 3).unit = .enabled
    ∧ (ok (groupIn .disabled) (infoSelfTest 3 0) = true ∧ ((groupIn .disabled).grp 3).unit ≠ .enabled) := by decide +kernel
theorem witness_KeyCommandsAct :
    (ok oneOpen (infoKeyLoad 0 1 0 192) = true
      ∧ (bg oneOpen (.keyLoad 0 · 0 1 0 192 (some [])) (infoKeyLoad 0 1 0 192)).keyAt 0 = none ∧ oneOpen.hif.linkUp = true)
    ∧ (ok oneOpen (infoKeyClear 0) = true ∧ ok oneOpen (infoKeyClear 1) = true ∧ oneOpen.keyAt 0 = none
      ∧ oneOpen.keyAt 1 ≠ none ∧ oneOpen.keyNamed 1 = false ∧ oneOpen.keyInUse 1 = false)
    ∧ ({ oneOpen with images := [(1, { img1 with tensors := [parseTensor [0, 0, 0, 3]] })] } : State).keyNamed 1 = true
    ∧ (let k := withStream { stream5 with xport := some (export0 false) }
      ok k (infoKeyClear 2) = true ∧ k.keyAt 2 ≠ none ∧ k.keyNamed 2 = false ∧ k.keyInUse 2 = true)
    ∧ (ok up (infoKeyEnrol 0 60) = true ∧ up.boot.enrolled = false ∧ up.hif.linkUp = true
      ∧ hssKeyOk (pad 60 [0, 0, 0, 2, 0, 0, 0, 8, 0, 0, 0, 4]) = true) := by decide +kernel
/-- ATTEST by the PCIe host into address 64 with all the room that a length can name. -/
def attest1 : CmdInfo := infoAttest pc 0 64 (2 ^ 32 - 1)
theorem witness_KeyCommandsAct_attest : ok pcieUp_ attest1 .pcie = true ∧ (64 : Nat) ≠ 0 := by decide +kernel

def fwOne : FwPkg := ⟨5, 2, []⟩
def vgOne : VigilPkg :=
  ⟨6, [], { taps := [(4, 1)], ports := [(4, 0x20000)], detectors := [⟨0, 1, 10, false⟩], alertMap := [(1, 2)] }⟩
/-- Flash with a write in progress. -/
def writing (fw : Option FwPkg) (vg : Option VigilPkg) : State :=
  { up with boot := { up.boot with job := some { vigil := vg, firmware := fw, slotB := true, cmd := 3 } } }

theorem witness_UpdateCommandsAct :
    (ok up (infoFwWrite 0 0) = true ∧ up.boot.job = none ∧ up.hif.linkUp = true)
    ∧ ((writing (some fwOne) none).boot.job.isSome = true ∧ (writing (some fwOne) none).firmwareUp = true
      ∧ (writing none (some vgOne)).firmwareUp = true ∧ (at_ .recovery .powerUp).life.phase = .recovery)
    ∧ (ok up (infoFwActivate 0) = true ∧ up.boot.running = 0 ∧ up.boot.trial = false)
    ∧ (ok up (infoFwActivate 1) = true ∧ up.boot.running ≠ 1 ∧ up.boot.fwOk true = true) := by decide +kernel

/-- A complete stop with flowing coolant, cool and locked. -/
def stopped1 : State := { at_ .stopped .powerUp with
  life := { (at_ .stopped .powerUp).life with stopCause := 1, stopAt := 0, stopOpen := true } }

theorem witness_ResetsAreRequested :
    (ok up infoDeviceReset = true ∧ (up.advance 0).isStopped = false)
    ∧ (ok up (infoSafeStateRequest 1) = true ∧ sb.master ≠ .safety
      ∧ (bg up (.safeStateRequest 0 · 1) (infoSafeStateRequest 1)).life.phase = .ready
      ∧ (bg up (.safeStateRequest 0 · 1) (infoSafeStateRequest 1)).safety.seq = false)
    ∧ (let h := hdr .safety (infoSafeStateRequest 1)
      h.master = .safety ∧ spells h 0x0600 (infoSafeStateRequest 1).fields = true
      ∧ reservedSet h (infoSafeStateRequest 1).fields = false ∧ portTakes up 0 = true ∧ (up.advance 0).life.phase = .ready
      ∧ (up.advance 0).safety.seq = false)
    ∧ (let h := hdr .sideband infoDeviceReset
      h.master = .sideband ∧ spells h 0x0802 [] = true ∧ reservedSet h [] = false
      ∧ (stopped1.advance 250000000).isStopped = true ∧ (stopped1.advance 250000000).restartable = true) := by decide +kernel
theorem witness_InjectAndMirrorAct :
    (ok up (infoInject 0 1) = true ∧ ok up (infoInject (devDetector 106) 255) = true
      ∧ (bg up (.inject 0 · 0 1) (infoInject 0 1)).armedAt 0 = none)
    ∧ (let a : State := { up with armed := [(0, some ⟨1, 0, 4, 0⟩)] }
      (a.advance 0).armedAt 0 = some ⟨1, 0, 4, 0⟩ ∧ 0 + 5000000000 ≤ (a.advance 5000000000).now
      ∧ (a.advance 4999999999).now < 0 + 5000000000)
    ∧ (ok up (infoEventMirror 4096 true) = true ∧ 4096 % 4096 = 0 ∧ ok up (infoEventMirror 64 true) = true ∧ 64 % 4096 ≠ 0
      ∧ ok up (infoEventMirror 0 false) = true) := by decide +kernel
theorem witness_RegisterAccesses :
    let x := up.atCtrl 0
    (ok up (infoRegWrite 0 4 0x2FFFF0 [0, 0, 0, 0]) = true)
    ∧ ((State.reset.atCtrl 0).regReach .pcie = false ∧ (State.reset.atCtrl 0).readReach .pcie = false)
    ∧ (((at_ .inReset .deviceReset).atCtrl 0).readReach .pcie = true
      ∧ ((at_ .inReset .deviceReset).atCtrl 0).controlUp = false ∧ x.readReach .sideband = true)
    ∧ (x.owner.owner ≠ Master.num .pcie ∧ x.writeHost 0 0x200000 0 = none)
    ∧ (x.regReach .sideband = true ∧ x.owner.owner = Master.num .sideband)
    ∧ (x.regReach .pcie = true ∧ (x.sqr 63).en = false)
    ∧ (linkDowns % 4 = 0 ∧ x.upToDate.bar0 linkDowns = .counter)
    ∧ (devCnt % 4 = 0 ∧ (match x.upToDate.bar0 devCnt with | .lo _ => true | _ => false) = true) := by
  decide +kernel

/-- Rings 0 with 3 of 16 entries used. -/
def rings : State := { up with sq := [(0, { en := true, log2 := 4, head := 14, tail := 1 })]
                               cq := [(0, { en := true, log2 := 4, head := 14, tail := 1 })] }

theorem witness_DoorbellsMoveTheirRings : let x := rings.atCtrl 0
    x.pcieUp = true ∧ (State.reset.atCtrl 0).pcieUp = false ∧ (x.fireArmed (devDetector 106)).1 = false
    ∧ ((({ rings with armed := [(devDetector 106, some ⟨1, 0, 4, 0⟩)] } : State).atCtrl 0).fireArmed (devDetector 106)).1 = true
    ∧ ((x.sqr 1).en = false ∧ (x.sqr 0).en = true ∧ (x.cqr 1).en = false ∧ (x.cqr 0).en = true)
    -- 12 more entries fill the ring, 13 pass full; a head up to the tail is legal, the next is not
    ∧ ((1 + 16 - 14) % 16 + (13 + 16 - 1) % 16 < 16 ∧ ¬ (1 + 16 - 14) % 16 + (14 + 16 - 1) % 16 < 16)
    ∧ ((1 + 16 - 14) % 16 ≤ (1 + 16 - 14) % 16 ∧ ¬ (2 + 16 - 14) % 16 ≤ (1 + 16 - 14) % 16) := by decide +kernel
theorem witness_RingsEnableAndDisable : let x := rings.atCtrl 0
    x.pcieUp = true
    ∧ ((x.sqr 63).en = false ∧ (x.cqr (bits 9 5 6)).en = true)
    ∧ ((x.sqr 0).en = true ∧ (x.cqr (bits 0x29 5 6)).en = false) ∧ (x.cqr 63).en = false ∧ (x.cqr 0).en = true
    ∧ (let c : State := { rings with cq := [(0, { en := true, ien := true, coalUs := 1, unsignalled := 1 })] }
      ((c.advance 2500).cqr 0).en = true ∧ ((c.advance 2500).cqr 0).ien = true ∧ ((c.advance 2500).cqr 0).coalUs ≠ 0
      ∧ ((c.advance 2500).cqr 0).unsignalled ≠ 0
      ∧ ((c.advance 2500).cqr 0).firstAt + 2500 * ((c.advance 2500).cqr 0).coalUs ≤ (c.advance 2500).now
      ∧ (c.advance 2499).now < ((c.advance 2499).cqr 0).firstAt + 2500 * ((c.advance 2499).cqr 0).coalUs) := by decide +kernel
theorem witness_LinkAndFunctionEvents : up.controlUp = true ∧ up.life.perstN = true ∧ up.hif.linkUp = true
    ∧ up.standbyUp = true ∧ (up.advance 249999999).now < up.life.pupAt + 250000000
    ∧ up.life.pupAt + 250000000 ≤ (up.advance 250000000).now ∧ State.reset.hif.linkUp = false := by decide +kernel
theorem witness_DeviceInterrupts : let x := up.atCtrl 0
    x.controlUp = true ∧ x.hif.linkUp = true ∧ x.pcieUp = true
    ∧ (let p := ({ up with hif := { up.hif with pba := [255] } } : State).atCtrl 0
      p.pcieUp = true ∧ p.hif.functionMasked = false ∧ 255 ∈ p.hif.pba) := by decide +kernel

/-! ### Witnesses: ports, life, power, Vigil, memory -/

def cfgTop : Reg := 0x23F49   -- EN, TDM, SLOT 32, SAMPLE 32, 32 slots, 48 kHz: the bit clock limit
def cfgOver : Reg := 0x27F49  -- the same at 88.2 kHz

theorem witness_PortCfgWrite : let x := up.atCtrl 0
    x.regReach .sideband = true ∧ x.ownerWrites .sideband = true ∧ (x.prt 15).tapped = false
    ∧ (let n := (x.prt 15).withCfg cfgTop.toNat
      (x.prt 15).en = false ∧ n.format = 2 ∧ n.slotCount = 32 ∧ n.slotBits < 3 ∧ n.sampleBits ≤ n.slotBits
      ∧ n.hz * n.slotCount * bitsOfCode n.slotBits = 49152000 ∧ n.rate < 13 ∧ n.en = true)
    ∧ (let n := (x.prt 15).withCfg cfgOver.toNat
      ¬ n.hz * n.slotCount * bitsOfCode n.slotBits ≤ 49152000) := by decide +kernel

/-- Ports 0 and 1 enabled as masters and in group 2 of the Equinox, in a state of it. -/
def pair (st : Nat) : State := { up with
  ports := [(0, { en := true, master := true, clockHeld := st == 1 }), (1, { en := true, master := true })]
  eqx := [(2, { members := 3, st, t := 625 })] }
def pairAt (st t : Nat) : State := (pair st).advance t

theorem witness_MasksAndMembers : let x := up.atCtrl 0
    (x.regReach .sideband = true ∧ x.ownerWrites .sideband = true) ∧ (x.prt 15).takesWrites = true
    ∧ (((portIn 15 .off).atCtrl 0).prt 15).takesWrites = false
    ∧ (x.ownerWrites .pcie = false ∧ (State.reset.atCtrl 0).regReach .sideband = false)
    ∧ ((x.eqxOf 3).st = 0 ∧ ∀ o, o < 4 → o ≠ 3 → (x.eqxOf o).members &&& 0x8000 = 0)
    ∧ ¬ (((pair 1).atCtrl 0).eqxOf 2).st = 0 := by decide +kernel
theorem witness_EquinoxCommands : let q (st : Nat) := ((pair st).atCtrl 0).eqxOf 2
    (((pair 0).atCtrl 0).regReach .sideband = true ∧ ((pair 0).atCtrl 0).ownerWrites .sideband = true)
    ∧ ((q 0).st = 0 ∧ (q 0).ports = [0, 1]
      ∧ ∀ p ∈ (q 0).ports, (((pair 0).atCtrl 0).prt p).en = true
        ∧ (((pair 0).atCtrl 0).prt p).rate = (((pair 0).atCtrl 0).prt 0).rate)
    ∧ ¬ (q 1).st = 0 ∧ ((q 1).st = 1 ∧ (q 1).trigLo.toNat + 2 ^ 32 * (q 1).trigHi.toNat = 0) ∧ ¬ (q 0).st = 1
    ∧ ((q 2).st = 2 ∧ (q 3).st ≠ 2 ∧ ((up.atCtrl 0).regReach .pcie = true ∧ (up.atCtrl 0).ownerWrites .pcie = false))
    ∧ ((pairAt 1 0).prt 0).master = true ∧ ((pairAt 1 0).prt 0).clockHeld = true
    ∧ ((pairAt 2 2500).controlUp = true ∧ ((pairAt 2 2500).eqxOf 2).st = 2
      ∧ (pairAt 2 2500).ctrl = ((pairAt 2 2500).eqxOf 2).t ∧ ¬ (pairAt 2 2504).ctrl = ((pairAt 2 2504).eqxOf 2).t)
    ∧ ((pairAt 3 2500000000).controlUp = true ∧ ((pairAt 3 2500000000).eqxOf 2).st = 3
      ∧ (pairAt 3 2500000000).ctrl % 625000000 = 0) := by decide +kernel
theorem witness_SafetyPortAnswers : up.standbyUp = true ∧ up.safePort.response = none
    ∧ ({ up with safePort := { response := some [1] } } : State).safePort.response = some [1]
    ∧ (({ up with safePort := { response := some [1] } } : State).safePort.executing.isSome
      || ({ up with safePort := { response := some [1] } } : State).safePort.response.isSome) = true := by decide

/-- A device at P whose Vigil slot A holds a package. -/
def vigilA : State := { at_ .powerUp .powerUp with
  boot := { up.boot with enrolled := true, keyHash := sha256 [], vigilA := some vgOne } }
/-- The device after a stop and a supply cycle, its sensors at a temperature. -/
def offAfterStop (c : Nat) : State := { State.reset with
  life := { vstby := true, stopOpen := true }, power := { State.reset.power with sensors := List.replicate 56 c } }

theorem witness_PowerUpAndBoot : (State.reset.life.phase = .off ∧ State.reset.life.stopOpen = false)
    ∧ (let x := (offAfterStop 85).advance 250000000; x.life.phase = .off ∧ x.life.stopOpen = true ∧ x.cool = false)
    ∧ (let x := (offAfterStop 84).advance 250000000; x.life.phase = .off ∧ x.cool = true)
    ∧ (vigilA.life.phase = .powerUp ∧ vigilA.vigil.imageValid = false ∧ vigilA.boot.vigilPending = false
      ∧ vigilA.vigilOk false true = true ∧ vigilA.boot.vigil false = some vgOne)
    ∧ (vigilA.vigilOk false false = false ∧ vigilA.vigilOk true true = false)
    ∧ (vigilA.boot.markedB = false ∧ vigilA.boot.fwOk false = true) ∧ (false && vigilA.boot.fwOk true) = false := by decide +kernel
theorem witness_StartEvents : (at_ .booted .powerUp).life.phase = .booted
    ∧ ((at_ .injecting .powerUp).life.phase = .injecting ∧ (at_ .injecting .powerUp).repair.startFail = false
      ∧ (at_ .injecting .powerUp).life.kind = .powerUp) := by decide

/-- A ready device whose S stream has been degraded for the limit of 200 ms. -/
def degraded : State := { up with
  cfg := { up.cfg with autoSafe := true }
  safety := { up.safety with table := [(0, { stream := 5, valid := true, degraded := true, condSince := some 0 })] } }

theorem witness_SafeStateEvents :
    ((at_ .resetPending .safeState).life.phase = .resetPending ∧ (at_ .resetPending .safeState).life.kind = .safeState)
    ∧ ((at_ .abandoned .safeState).life.phase = .abandoned ∧ (at_ .abandoned .deviceReset).life.phase = .abandoned)
    ∧ (at_ .hashing .safeState).life.phase = .hashing
    ∧ ({ at_ .hashing .safeState with safety := { set := some {} } } : State).safety.set = some {}
    ∧ (at_ .reopening .safeState).life.phase = .reopening
    ∧ ((at_ .resuming .safeState).life.phase = .resuming ∧ (at_ .resuming .safeState).repair.startFail = false)
    ∧ ({ up with life := { up.life with armed := true } } : State).life.armed = true
    ∧ (up.isReady = true ∧ up.safety.seq = false) ∧ (degraded.isReady = true ∧ degraded.safety.seq = false
      ∧ (degraded.advance 500000000).degradeDue = true) := by decide
theorem witness_ClocksCoolantAndStop :
    (up.life.phase ≠ .off ∧ up.life.rootLocked = true ∧ up.standbyUp = true ∧ up.isStopped = false ∧ up.life.refclk = true
      ∧ up.life.coolantOk = true ∧ up.controlUp = true)
    ∧ (let x : State := { up with life := { up.life with refclk := false, coolantOk := false } }
      x.life.refclk = false ∧ x.life.pupAt ≤ x.life.refclkAt ∧ x.life.refclkAt ≤ (x.advance 1).now ∧ x.life.coolantOk = false)
    ∧ ((at_ .stopDeclared .powerUp).life.phase = .stopDeclared
      ∧ (at_ .stopDeclared .powerUp).life.stopAt + 25 * 10 ≤ ((at_ .stopDeclared .powerUp).advance 250).now)
    ∧ ((at_ .stopGated .powerUp).life.phase = .stopGated
      ∧ (at_ .stopGated .powerUp).life.stopAt + 25 * 90000 ≤ ((at_ .stopGated .powerUp).advance 2250000).now) := by decide
theorem witness_SupplyLoss : up.life.vin48 = true ∧ up.life.vstby = true := by decide

/-- A device one of whose 56 sensors read 105 °C at the last reading. -/
def hot1 : State := { up with power := { up.power with sensors := List.replicate 55 40 ++ [105] } }
theorem witness_SensorTrip : hot1.standbyUp = true ∧ hot1.life.phase ≠ .off ∧ hot1.isStopped = false
    ∧ ((hot1.advance 25000).now - hot1.life.pupAt) % 25000 = 0
    ∧ hot1.power.sensorNo < ((hot1.advance 25000).now - hot1.life.pupAt) / 25000
    ∧ (55 < hot1.power.sensors.length ∧ 105 ≤ hot1.power.sensors.getD 55 0
      ∧ 105 ≤ (List.replicate 55 40 ++ [105]).getD 55 0)
    ∧ ¬ (∃ k, k < 56 ∧ 105 ≤ hot1.power.sensors.getD k 0 ∧ 105 ≤ (List.replicate 56 104).getD k 0) := by decide
theorem witness_PowerIntervals : up.standbyUp = true ∧ up.life.phase ≠ .off ∧ up.life.refclk = true
    ∧ ((up.advance 2500000).now - up.life.pupAt) % 2500000 = 0
    ∧ up.power.intervalNo < ((up.advance 2500000).now - up.life.pupAt) / 2500000 ∧ up.armedAt (devDetector 91) = none
    ∧ (disagrees 4 (4096 * 4 + 4096) = false ∧ disagrees 4 (4096 * 4 + 4097) = true)
    ∧ ((up.advance 2500001).now - up.life.pupAt) % 2500000 ≠ 0
    ∧ (let x : State := { up with power := { up.power with intervalNo := 10 } }
      x.firmwareUp = true ∧ x.power.intervalNo % 10 = 0 ∧ x.power.updateNo < x.power.intervalNo) := by decide +kernel

/-- Vigil at work with line 2 high for 250 ms; a tap of port 4 whose first hop is complete, and a detector that was above its
threshold at the hop end before. -/
def vigilUp : State := { up with
  ports := [(4, ({} : Port).withCfg 0x20000)]
  vigil := { running := true, imageValid := true, level := 4, holdUntil := [(2, 625000000)], image := vgOne.image
             frames := [(4, 480)], above := [true] } }
theorem witness_VigilEvents : vigilUp.vigil.works = true
    ∧ (tget 0 vigilUp.vigil.scored 0 < vigilUp.tapHops 0 ∧ 10 < [11].getD 0 0 ∧ vigilUp.vigil.above.getD 0 false = true
      ∧ vigilUp.vigil.image.lines [true] = 4)
    ∧ (vigilUp.vigil.level.getLsbD 2 = true ∧ tget 0 vigilUp.vigil.holdUntil 2 ≤ (vigilUp.advance 625000000).now)
    ∧ vigilUp.vigil.level.getLsbD 0 = false
    ∧ (vigilUp.vigil.image.taps[0]? = some (4, 1)
      ∧ 4 * 2500000000 ≤ ((vigilUp.advance 2500000).now - tget 0 vigilUp.vigil.lastFrame 4) * (vigilUp.prt 4).hz) := by
  decide +kernel

/-- Channel 7 retired, with the largest near windows. -/
def less7 : State := { up with channels := [(7, { st := 2 })], cfg := { up.cfg with nearSize := 35 } }
theorem witness_MemoryAddressMap : less7.cfg.nearSize ≤ 35
    ∧ less7.retiredChs.length * (2 ^ 28 * less7.cfg.nearSize)
      ≤ less7.active.length * (9 * 2 ^ 30 - 2 ^ 28 * less7.cfg.nearSize)
    ∧ (let n := 2 ^ 28 * less7.cfg.nearSize
      (48 * n - 1 < 48 * n ∧ (less7.memCh ((48 * n - 1) / n)).st ≠ 2) ∧ (7 * n < 48 * n ∧ (less7.memCh (7 * n / n)).st = 2)
      ∧ (less7.resolve (7 * n)).isSome = true ∧ (less7.resolve (48 * n)).isSome = true
      ∧ less7.resolve (48 * n + (less7.active.length * (9 * 2 ^ 30 - n) - n)) = none) := by decide
/-- Channel 47 in an Almanac slot of its group, and where the group runs none. -/
def inSlot : State := ({ up with
  groups := [(47, { running := true, planned := true, almStart := some 0, almSlots := 16 })] } : State).advance 2000
def noSlot : State := ({ up with groups := [(47, { unit := .disabled })] } : State).advance 80000000
theorem witness_MemoryChannelEvents : (up.channelUp 47 = true ∧ (up.atCtrl 0).readReach .pcie = true)
    ∧ ((State.reset.atCtrl 0).readReach .pcie = false ∧ ((at_ .inReset .deviceReset).atCtrl 0).readReach .pcie = true
      ∧ ((at_ .inReset .deviceReset).atCtrl 0).controlUp = false)
    ∧ (0 ∉ (up.memCh 47).damaged ∧ 64 ∈ (({ up with channels := [(47, { damaged := [64] })] } : State).memCh 47).damaged)
    ∧ (clean = ⟨⟨0, false⟩, ⟨0, false⟩⟩ ∧ oneWrong ≠ clean ∧ (allWrong.upper.misplaced = true ∧ 2 ≤ allWrong.lower.bytes))
    ∧ ((noSlot.grp 47).noSlots = true ∧ (noSlot.memCh 47).calAt + 80000000 ≤ noSlot.now ∧ (noSlot.memCh 47).calFails = 0
      ∧ noSlot.channelUp 47 = true)
    ∧ ((inSlot.grp 47).noSlots = false ∧ inSlot.groupUp 47 = true ∧ (inSlot.grp 47).almSlots % 16 = 0
      ∧ (inSlot.memCh 47).calAt < inSlot.now ∧ (inSlot.grp 47).almStart = some 0 ∧ inSlot.clk 47 = 0 + 2000
      ∧ inSlot.channelUp 47 = true)
    ∧ (({ up with channels := [(47, { calFails := 1 })] } : State).memCh 47).calFails = 1
    ∧ (chanBytes - 1 < chanBytes ∧ up.nearBytes ≤ (chanBytes - 1) / 64 * 64 ∧ ¬ up.nearBytes ≤ 0)
    ∧ (1 % 4 ≠ 0 ∧ 4 % 4 = 0 ∧ (up.atCtrl 0).windowHidden ((up.atCtrl 0).windowAddr 4) = false
      ∧ (up.atCtrl 0).rowPlace ((up.atCtrl 0).windowAddr 4) = some (0, 0))
    ∧ ((({ up with hif := { up.hif with winPage := 2 ^ 40 } } : State).atCtrl 0).windowHidden (2 ^ 64)) = true := by
  decide +kernel

/-! ### Witnesses: runs of a group -/

/-- Group 3 in the run of chunk 0 of stream 5, with its physical cluster 0. -/
def run0 : RunInfo :=
  { run := { image := 1, variant := 0, chunks := [(5, 0)] }, start := 0, listAddr := 0, entries := 1 }
def chunk0 : Chunk := { seq := 0, first := 0, stamp := 0, pos := .running }
def runs (r : RunInfo) (G : Group → Group) (c : Cluster) : State := { roomy with
  streams := [(5, { stream5 with slot := some 0, chunks := [chunk0], samples := List.replicate 96 1 })]
  groups := [(3, G { running := true, planned := true, cur := some r })]
  clusters := [(78, c)] }
def tile0 : Tile :=
  { vals := [], fp := false, verdict := 0, nonfinite := false, saturated := false, tileId := 0, acc := 0, pushed := 0 }

/-- An action entry's bytes (Table 3-3) in cycle 0, for logical cluster 0, and the group whose list it is. -/
def entryBytes (op arg : Nat) : List Byte := leBytes 16 (op * 2 ^ 32 + 2 ^ 40 + arg * 2 ^ 65)
def acts (op arg : Nat) (r : RunInfo) (c : Cluster) : State :=
  { runs r id c with mem := writeCells [] (3 * chanBytes) (entryBytes op arg) }

/-- The next action of group 3 is due, and `f` holds of its state, run and entry. -/
def due (s : State) (op : Nat) (f : State → RunInfo → Action → Bool) : Bool :=
  match (s.advance 0).actionDue 3 op with
  | some (r, a) => f (s.advance 0) r a
  | none => false

/-- A word at the start of cluster 0's program, and `f` of the state, cluster and word. -/
def word (w : Nat) (c : Cluster) : State := runs run0 id { c with haltIssued := false, store := [(0, some (BitVec.ofNat 64 w))] }
def issues (s : State) (unit op : Nat) (f : State → Nat → MWord → Bool) : Bool :=
  match (s.advance 0).wordDue 3 0 unit op with
  | some (p, w) => f (s.advance 0) p w
  | none => false

theorem witness_SequencerActions :
    due (acts 0x01 0 run0 {}) 0x01 (fun x _ a => let y := x.passEntry 3
      unarmed y 3 [17] && decide (∀ p ∈ y.physOf 3 a.clmask, (y.clu 3 p).haltIssued = true)) = true
    ∧ due (acts 0x01 (2 ^ 16) run0 { haltIssued := false }) 0x01 (fun x _ a => let y := x.passEntry 3
      decide (∀ p ∈ y.physOf 3 a.clmask, (y.clu 3 p).haltIssued = false ∧ (y.clu 3 p).half ≠ a.field 16 1)) = true
    ∧ due (acts 0x02 0 run0 {}) 0x02 (fun x _ a => let y := x.passEntry 3
      unarmed y 3 [18] && decide (∀ p ∈ y.physOf 3 a.clmask, (y.clu 3 p).isHalted a.at_ = true)) = true
    ∧ due (acts 0x0B 0 run0 {}) 0x0B (fun x _ a => let y := x.passEntry 3
      unarmed y 3 [15] && decide (∀ p ∈ y.physOf 3 a.clmask,
        (y.clu 3 p).isHalted a.at_ = true ∧ (y.clu 3 p).sig = BitVec.ofNat 32 (a.field 0 32))) = true
    ∧ due (acts 0x0B 1 run0 {}) 0x0B (fun x _ a => let y := x.passEntry 3
      unarmed y 3 [15] && !decide (∀ p ∈ y.physOf 3 a.clmask, (y.clu 3 p).sig = BitVec.ofNat 32 (a.field 0 32))) = true
    ∧ due (acts 0x0C 0 run0 {}) 0x0C (fun x r a =>
      let y := x.passEntry 3
      !y.tilesLeft 3 a.at_ && ((State.finishCycle 3 y.turns y).grp 3).cur.any fun i => i.start == r.start) = true
    ∧ due (acts 0x0C 0 run0 { queue := [tile0] }) 0x0C (fun x _ a =>
      let y := x.passEntry 3
      let w := y.failIssue 3 stSeqFault false
      y.tilesLeft 3 a.at_ && ((State.finishCycle 3 w.turns w).grp 3).cur.isNone) = true := by decide +kernel

/-- A segment of one row of zeros at row 2 of the image, its directory at row 1, and its load that arrives now; `c` stands for
the CRC-32C that follows the segment. -/
def segLoad : SegLoad := { segment := 0, half := 1, clmask := 1, arrives := 0 }
def segState (c : Nat) : State :=
  let x := runs { run0 with segs := [segLoad] } id {}
  { x with
    images := [(1, { img1 with segDir := 1 })]
    mem := writeCells [] (3 * chanBytes + 64) (leBytes 4 2 ++ leBytes 2 1 ++ List.replicate 122 0 ++ leBytes 4 c) }
def segZero : Nat := crc32c (List.replicate 64 0)
theorem witness_SequencerActions_segment : ∀ b ∈ [true, false],
    let x := (segState (if b then segZero else segZero + 1)).advance 0
    let m := x.img 1
    let place := x.segmentOf 3 m 0
    (x.grp 3).cur.map (·.segs) = some [segLoad] ∧ [segLoad].find? (fun v => v.arrives == x.schedNow 3) = some segLoad
      ∧ x.canIssue 3 = true ∧ unarmed x 3 [16] = true ∧ place = (2, 1)
      ∧ decide (crc32c (x.imageSlice m 3 (64 * place.1) (64 * place.2))
        = field (x.imageSlice m 3 (64 * (place.1 + place.2)) 4) 0 4) = b := by decide +kernel

/-- A spill tensor of one block from row 0 of its image on. -/
def spillTensor : Tensor := { parseTensor [4] with blocks := 1, lastCount := 4096 }
def withImage (m : Image) (s : State) : State := { s with images := [(1, m)] }

theorem witness_GroupTransfers :
    due (acts 0x04 (2 ^ 47 * 3) run0 {}) 0x04 (fun x r a => let y := x.passEntry 3
      let m := y.img r.run.image
      (m.spillAt (a.field 0 34)).isNone && !startsBusy r.decoder [] && y.rowsMapped m 3 (a.field 0 34) (a.field 47 16)) = true
    ∧ due (acts 0x04 (4095 + 2 ^ 47 * 3) run0 {}) 0x04 (fun x r a => let y := x.passEntry 3
      !y.rowsMapped (y.img r.run.image) 3 (a.field 0 34) (a.field 47 16)) = true
    ∧ due (withImage { img1 with tensors := [spillTensor] } (acts 0x04 (2 ^ 47 * 64) run0 {})) 0x04 (fun x r a =>
      let y := x.passEntry 3
      let m := y.img r.run.image
      (m.spillAt (a.field 0 34)).isSome && !startsBusy r.decoder (fetchBusy a.at_ 64) && y.rowsMapped m 3 0 65) = true
    ∧ due (acts 0x05 (4095 + 2 ^ 47) run0 {}) 0x05 (fun x r a => let y := x.passEntry 3
      let m := y.img r.run.image
      (m.spillAt (a.field 0 34)).isNone && decide (a.field 0 34 + a.field 47 16 ≤ m.nearExtent) && !startsBusy r.coder []
        && a.field 47 16 != 0 && unarmed y 3 [34]) = true
    ∧ due (acts 0x05 (4095 + 2 ^ 48) run0 {}) 0x05 (fun x r a =>
      decide (((x.passEntry 3).img r.run.image).nearExtent < a.field 0 34 + a.field 47 16)) = true
    ∧ due (acts 0x06 (2 ^ 31 * 2) run0 {}) 0x06 (fun _ _ _ => true) = true
    ∧ due (acts 0x09 0 run0 {}) 0x09 (fun x r a => let q := r.run.chunks.getD (a.field 0 6) (0, 0)
      (x.passEntry 3).chunkOf q.1 q.2 == some chunk0) = true
    ∧ due (acts 0x0A (2 ^ 19) run0 {}) 0x0A (fun _ _ _ => true) = true
    ∧ (∀ op ∈ [0x07, 0x08], due (acts op 0 run0 {}) op (fun x r a =>
      let y := x.passEntry 3
      let q := r.run.chunks.getD (a.field 0 6) (0, 0)
      (x.swapBlocked 3 a r).isNone && (y.str q.1).slot == some 0 && y.chunkOf q.1 q.2 == some chunk0) = true) := by decide +kernel
/-- STATE_IN and STATE_OUT of the run with the one row of a record read: one that suits the chunk, and another stream's. -/
def recordOp0 (out good : Bool) : RecordOp :=
  { op := 9, out, position := 0, stream := 5, seq := 0, slot := 0, copy := 0, first := 0
    rows := [(0, some (bytesRow (sealRecord (recordHeader 1 (if good then 5 else 6) 0xFFFFFFFF 0 0 false))))] }
theorem witness_GroupTransfers_records : ∀ out ∈ [true, false], ∀ good ∈ [true, false],
    let w := recordOp0 out good
    let x := (withImage { img1 with recordRows := 1 } (runs { run0 with records := [w] } id {})).advance 0
    let b := (w.content 1).flatMap rowBytes
    (x.grp 3).cur.map (·.records) = some [w] ∧ x.recordOp 3 9 = some w
      ∧ unarmed (x.modRun 3 fun r => { r with records := [] }) 3 [29, 30] = true ∧ x.chunkOf w.stream w.seq = some chunk0
      ∧ decide (recordCrcOk b = true ∧ recordStream b = w.stream ∧ (recordSeq b + 1) % 2 ^ 32 = w.seq) = good := by
  decide +kernel
theorem witness_StoresWriteTheirBytesAlone :
    (up.cfg.nearSize ≤ 35 ∧ up.retiredChs.length * up.nearBytes ≤ up.ilSize ∧ up.hif.linkUp = true)
    ∧ due (acts 0x05 (4095 + 2 ^ 47) run0 {}) 0x05 (fun x r a => let m := x.img r.run.image
      decide (x.cfg.nearSize ≤ 35 ∧ x.retiredChs.length * x.nearBytes ≤ x.ilSize) && (m.spillAt (a.field 0 34)).isNone
        && decide (a.field 0 34 + a.field 47 16 ≤ m.nearExtent)) = true := by decide +kernel

/-- A tensor of class PLAIN with 2 blocks, its EXPAND under way, a FETCH of two rows, and states of a group with them. -/
def tensor0 : Tensor := { parseTensor [0, 0] with blocks := 2, lastCount := 4096 }
def expand0 : Expand := { tensor := 0, first := 0, count := 2, factor := false, clmask := 1, next := 0, starts := 0 }
def fetch0 : Transfer :=
  { op := 0, req := reqFetch, clmask := 1, row := 0, count := 2, issued := 0, farFrom := 2, addrs := [12884901888, 12884901952]
    data := [1, 2], origin := [0, 0] }
def withTensor (s : State) : State := withImage { img1 with tensors := [tensor0] } s
/-- The transfers of a run whose oldest is `w`, at time `t`. -/
def fetching (w : Transfer) (t : Nat) : State := (runs { run0 with transfers := [w] } id {}).advance t

theorem witness_ExpanderAndRows_expand :
    due (withTensor (acts 0x03 (2 ^ 36 * 2) run0 {})) 0x03 (fun x r a =>
      let y := x.passEntry 3
      let m := y.img r.run.image
      (match m.tensors[a.field 0 16]? with
        | some tn => tn.expandOk (a.field 16 20) (a.field 36 16) (a.field 52 1)
          && (List.range 2).all fun i => (y.blockRows m 3 tn i).all fun u => (y.imageAddr m 3 u).isSome
        | none => false) && !startsBusy r.decoder [(a.at_ + 16, a.at_ + 272)] && a.field 52 1 == 0) = true
    ∧ due (withTensor (acts 0x03 (2 ^ 36 * 3) run0 {})) 0x03 (fun x r a =>
      (match ((x.passEntry 3).img r.run.image).tensors[a.field 0 16]? with
        | some tn => !tn.expandOk (a.field 16 20) (a.field 36 16) (a.field 52 1)
        | none => false)) = true
    ∧ due (acts 0x03 (2 ^ 36 * 2) run0 {}) 0x03 (fun x r a =>
      ((x.passEntry 3).img r.run.image).tensors[a.field 0 16]?.isNone) = true
    ∧ due (withImage { img1 with tensors := [{ parseTensor [3, 0, 0, 0, 0, 0, 1] with blocks := 1, lastCount := 512 }] }
        (acts 0x03 (2 ^ 36 + 2 ^ 52) run0 {})) 0x03 (fun x r a =>
      (match ((x.passEntry 3).img r.run.image).tensors[a.field 0 16]? with
        | some tn => tn.expandOk (a.field 16 20) (a.field 36 16) (a.field 52 1)
        | none => false) && a.field 52 1 == 1) = true := by decide +kernel
theorem witness_ExpanderAndRows_blocks :
    (let x := (withTensor (runs { run0 with expands := [expand0] } id {})).advance 0;
      (x.grp 3).cur.isSome = true ∧ x.groupUp 3 = true
      ∧ ([expand0].find? fun e => e.starts == x.schedNow 3 && e.late.isNone) = some expand0
      ∧ x.canIssue 3 = true ∧ (x.img 1).tensors[0]? = some tensor0)
    ∧ (let e := { expand0 with late := some 0, waiting := true };
      ([e].find? fun e => e.late.isSome && e.waiting) = some e) := by decide +kernel
theorem witness_ExpanderAndRows_rows :
    (let x := fetching fetch0 0;
      (x.grp 3).cur.map (·.transfers) = some [fetch0] ∧ unarmed x 3 [31, 32, 33] = true
      ∧ [fetch0].find? (fun w => w.lacks 1) = some fetch0 ∧ ((x.grp 3).cur.map (·.buffered)) = some 0
      ∧ x.rowPlace (fetch0.addrs.getD 1 0) = some (3, 64) ∧ x.isDamaged (some (3, 64)) = false
      ∧ rowVerdict clean = .clean ∧ rowVerdict oneWrong = .correctable ∧ rowVerdict allWrong = .uncorrectable)
    ∧ (let w := { fetch0 with arrived := List.range 256, addrs := List.range 300, data := List.replicate 300 0, count := 300 }
      let x := fetching w 0
      (x.grp 3).cur.map (·.buffered) = some 256 ∧ w.lacks 299 = true ∧ x.schedNow 3 < w.unitDue 299)
    ∧ (let x := fetching fetch0 600
      (x.grp 3).cur.map (·.transfers) = some [fetch0] ∧ fetch0.late = false ∧ fetch0.lateAt ((x.grp 3).sched (x.clk 3)) = true
      ∧ (x.grp 3).hold = none)
    ∧ (let w := { fetch0 with rereads := [1] }
      ([w].find? fun w => !w.rereads.isEmpty) = some w ∧ w.rereads = 1 :: []
      ∧ ∀ r ∈ [clean, allWrong], ((((fetching w 0).reread (w.addrs.getD 1 0) r).1).grp 3).cur.isSome = true)
    ∧ (((runs run0 (fun G => { G with storeBuf := 128 }) {}).advance 0).grp 3).storeBuf ≠ 0 := by decide +kernel

def hold0 : Hold := { srcs := [.row], since := 0 }
def quiesce0 : Quiesce := { info := run0, status := stSeqFault, failedAt := 0 }
/-- Commit lane 0 of a run that ended at 0, with one chunk whose three steps are still to come from step `k` on. -/
def lane0 (k : Nat) : Lane :=
  { ended := 0, image := 1, variant := 0, wide := false, chunks := [(5, 0)], commits := [(0, k)] }
def commits (k : Nat) : State := runs run0 (fun G => { G with cur := none, lanes := [(0, some (lane0 k))] }) {}

theorem witness_HoldsAndCommits :
    (let x := (runs run0 (fun G => { G with hold := some hold0 }) {}).advance 4096;
      x.groupUp 3 = true ∧ (x.grp 3).hold = some hold0 ∧ ((x.grp 3).cur.map (·.tagFail)) = some none
      ∧ x.clk 3 = hold0.since + 4096)
    ∧ (let x := (runs run0 (fun G => { G with hold := some { srcs := [.scrub], since := 0 } }) {}).advance 40
      x.groupUp 3 = true ∧ (x.grp 3).heldBySrc .scrub = true ∧ ((x.grp 3).cur.map fun r => r.scrubAt + 40) = some (x.clk 3))
    ∧ (let x := (runs run0 (fun G => { G with cur := none, quiesce := some quiesce0 }) {}).advance 2000
      x.groupUp 3 = true ∧ (x.grp 3).quiesce.map (·.failedAt) = some quiesce0.failedAt ∧ x.clk 3 = quiesce0.failedAt + 2000)
    ∧ (let x := (commits 0).advance 900
      tget none (x.grp 3).lanes 0 = some (lane0 0) ∧ (0, 0) ∈ (lane0 0).commits ∧ x.clk 3 = 900 ∧ (x.str 5).slot = some 0
      ∧ x.chunkOf 5 0 = some chunk0 ∧ x.groupUp 3 = true)
    ∧ (let x := (commits 1).advance 1700
      tget none (x.grp 3).lanes 0 = some (lane0 1) ∧ (0, 1) ∈ (lane0 1).commits ∧ x.clk 3 = 1700)
    ∧ (let x := (commits 2).advance 2100
      tget none (x.grp 3).lanes 0 = some (lane0 2) ∧ (0, 2) ∈ (lane0 2).commits ∧ x.clk 3 = 2100) := by decide +kernel

/-- A word of a unit and operation with the given other bits. -/
def enc (unit op rest : Nat) : Nat := 2 ^ 60 * unit + 2 ^ 56 * op + rest

theorem witness_ControlWords :
    (∀ uo ∈ [(0, 0), (0, 1), (0, 2), (0, 3), (2, 1), (2, 2)],
      issues (word (enc uo.1 uo.2 0x401) {}) uo.1 uo.2 (fun x _ _ => unarmed x 3 [21]) = true)
    -- a SETA with a reserved bit, a SETB with a reserved FMT
    ∧ issues (word (enc 2 1 1) {}) 2 1 (fun _ _ w => wordField w 0 12 != 0) = true
    ∧ issues (word (enc 2 2 (11 * 2 ^ 27)) {}) 2 2 (fun _ _ w => decide (10 < wordField w 27 4)) = true := by decide +kernel

/-- A cluster with full factor banks 0 and 1, an epilogue of accumulator 1 that ends at 0, and a formation that does. -/
def mtxCluster : Cluster :=
  { banks := [(0, { full := true, codes := [1] }), (1, { full := true, codes := [1] })]
    acc := [(1, { epi := some (0, 0), p := List.replicate 1024 0 })] }
def form0 (ok : Bool) : Formation :=
  { ends := 0, dest := 0, codes := [], rs := [], ok, ubank := 0, vbank := 1, urel := true, vrel := true }
def allClear : List Nat := [0, 1, 2, 3, 4, 5, 6, 20, 22]

theorem witness_MatrixWords_issue :
    issues (word (enc 1 1 0) {}) 1 1 (fun x p w => unarmed x 3 allClear &&
      !((x.modClu 3 p fun k => k.passWord w 0 k.loops).clu 3 p).mmaBad (mmaOf w 0 []) (wordBit w 44) 0) = true
    ∧ issues (word (enc 1 2 (2 ^ 55)) {}) 1 2 (fun x p w =>
      !(tget {} ((x.modClu 3 p fun k => k.passWord w 0 k.loops).clu 3 p).acc 1).epiRuns 0) = true
    ∧ issues (word (enc 1 3 (2 ^ 51 + 2 ^ 47)) mtxCluster) 1 3 (fun x p w =>
      let k := (x.modClu 3 p fun k => k.passWord w 0 k.loops).clu 3 p
      k.formation == none && (k.bank (wordField w 49 2)).isFull 0 && (k.bank (wordField w 47 2)).isFull 0) = true := by
  decide +kernel
theorem witness_MatrixWords_ends :
    let x := (runs run0 id mtxCluster).advance 0
    let k := tget {} (x.clu 3 0).acc 1
    x.thisCycle 3 = some 0 ∧ k.epi = some (0, 0) ∧ k.epiOver = false ∧ (x.grp 3).phys 0 < 26 ∧ unarmed x 3 allClear = true
    ∧ (k.epilogue {} 0).verdict < 2 ∧ 2 ≤ (k.epilogue {} 2).verdict
    ∧ ∀ ok ∈ [true, false],
      (((runs run0 id { mtxCluster with formation := some (form0 ok) }).advance 0).clu 3 0).formation = some (form0 ok)
      ∧ (form0 ok).ends = 0 ∧ (form0 ok).ok = ok := by decide +kernel

/-- Stream registers: FP32 streams, an FP16 one, flags, a table of 256 and a scalar. -/
def vecCluster : Cluster := { sregs :=
  [(0, { base := 0, run := 64, length := 64, fmt := 9 }), (1, { base := 100, run := 64, length := 64, fmt := 4 })
   , (2, { base := 200, run := 64, length := 64, fmt := 9 }), (3, { base := 300, run := 64, length := 64, fmt := 9 })
   , (4, { base := 400, run := 64, length := 64, fmt := 9 }), (5, { base := 500, run := 64, length := 1, fmt := maskFmt })
   , (6, { base := 600, run := 64, length := 256, fmt := 9 }), (7, { base := 700, run := 64, length := 1, fmt := 9 })] }
/-- The word `w` is due, its operation `i` is legal, and no armed detector acts. -/
def vecIssues (w op : Nat) (i : Cluster → MWord → VecIssue) : Bool :=
  issues (word w vecCluster) 2 op fun x p w =>
    let passed := x.modClu 3 p fun k => k.passWord w 0 k.loops
    let y := (passed.lastSlot 3 p 0).finishVec 3 p 0
    let k := passed.clu 3 p
    unarmed y 3 [21] && !(y.clu 3 p).vecRuns 0 && !(i k w).faulty (y.clu 3 p) (y.curSlots 3) && !k.queueBad w 0

theorem witness_VectorWords :
    vecIssues (enc 2 3 (2 ^ 50 + 2 ^ 41 + 3 * 2 ^ 35)) 3 (fun k w => k.ewIssue w 0 [] .none) = true
    ∧ vecIssues (enc 2 4 (2 ^ 47 + 7 * 2 ^ 40)) 4 (fun k w => k.cvtIssue w 0 []) = true
    ∧ vecIssues (enc 2 5 (7 * 2 ^ 51)) 5 (fun k w => k.redIssue w 0 []) = true
    ∧ vecIssues (enc 2 6 (6 * 2 ^ 51)) 6 (fun k w => k.lutIssue w 0 []) = true
    ∧ vecIssues (enc 2 7 (2 ^ 46 + 2 ^ 42 + 3 * 2 ^ 36 + 4 * 2 ^ 31 + 5 * 2 ^ 26)) 7 (fun k w => k.scanIssue w 0 []) = true
    ∧ (let o : VecOp := { word := 0, issued := 0, pace := 1, beats := 1 }
      let x := (runs run0 id { vec := some { o with slot := 9 } }).advance o.ends
      x.thisCycle 3 = some o.ends ∧ ((x.clu 3 0).vec.map fun v => (v.ends, v.retired)) = some (o.ends, false)) := by decide +kernel

/-! ### Witnesses: audio frames, rounds, swaps, transfers of streams, units -/

/-- Port 15 enabled at 48 kHz. -/
def audio (f : Port → Port) : State := { up with ports := [(15, f { en := true })] }

/-- A state, a port's mask or window that its frame meets, and a master whose clock counts from time 0. -/
def masterAt (t : Nat) : State := (audio fun r => { r with master := true, clock := some 0 }).advance t

theorem witness_FramesAndWindows :
    (∀ s ∈ [audio id, audio fun r => { r with rateFault := true }, audio fun r => { r with underrun := .silence }
      , audio fun r => { r with rxFifo := List.replicate 8 ⟨[], 0⟩ }, audio fun r => { r with txFifo := [[1, 2]] }
      , masterAt 0],
      s.portUp 15 = true ∧ (s.prt 15).clockHeld = false ∧ (s.prt 15).since ≤ 0 ∧ s.life.ctrlBase ≤ 0
      ∧ (s.prt 15).startsAt s.life.onRefclk 0 = true ∧ s.now = 0)
    -- the second frame of a master at 48 kHz falls at 52,083 1/3, at the latest 4 cycles later
    ∧ (((masterAt 52084).prt 15).startsAt false 52084 = true ∧ ((masterAt 52088).prt 15).startsAt false 52088 = false)
    ∧ (let x := audio fun r => { r with since := 1 }
      x.portUp 15 = true ∧ 0 ≤ x.now ∧ 0 < (((x.tapFrame 15).frameStart 15 0).prt 15).since)
    ∧ (let x := audio fun r => { r with unit := .disabled }
      x.portUp 15 = false ∧ (x.prt 15).en = true ∧ (x.prt 15).clockHeld = false)
    ∧ (let x := (audio id).advance 52084
      625000000 ≤ (x.prt 15).paceAcc + (x.prt 15).hz * (x.ctrl - (x.prt 15).paceCtrl)
      ∧ ((x.prt 15).paceAcc + (x.prt 15).hz * (x.ctrl - (x.prt 15).paceCtrl)) % 625000000 < (x.prt 15).hz)
    ∧ (let x := (audio fun r => { r with window := { first := 0, last := 625000000, n := 48001 } }).advance 2500000000
      x.portUp 15 = true ∧ x.ctrl % 625000000 = 0 ∧ (x.prt 15).window.idx + 1 = x.ctrl / 625000000
      ∧ (x.prt 15).window.measure (x.prt 15).hz = some (48000000, 0))
    ∧ (let x := (audio fun r => { r with subWindow := { first := 0, last := 6250000, n := 491 } }).advance 25000000
      x.ctrl % 6250000 = 0 ∧ (x.prt 15).subWindow.idx + 1 = x.ctrl / 6250000 ∧ x.armedAt (devDetector 78) = none
      ∧ ((x.prt 15).subWindow.measure (x.prt 15).hz).isSome = true)
    ∧ (let x := (audio id).advance 208334
      (x.prt 15).noClock = false ∧ x.armedAt (devDetector 79) = none
      ∧ 10000000000 ≤ (x.now - (x.prt 15).lastStart) * (x.prt 15).hz) := by decide +kernel

/-- Group 3 idle, with a stream 5 of it. -/
def idle (G : Group → Group) (n : Stream → Stream) : State := { roomy with
  streams := [(5, n stream5)], groups := [(3, G { running := true, planned := true })] }
def almTest (n : Nat) : AlmTest := { targeted := false, set := .pass n, cluster := 0 }
/-- Group 3 at the end of its Almanac slot. -/
def slotEnd (n held : Nat) : State :=
  (idle (fun G => { G with almStart := some 0, almTest := some (almTest n) }) id).advance (100000 + held)

theorem witness_RoundsAndSlots :
    ((idle (fun G => { G with planned := false }) id).advance 0).roundDue 3 = true
    ∧ (∀ held ∈ [0, 4097], let x := slotEnd 8 held
      (x.grp 3).almStart = some 0 ∧ (x.grp 3).almTest = some (almTest 8) ∧ x.groupUp 3 = true
      ∧ x.clk 3 = 0 + 100000 + (held : Int) ∧ 8 < 9)
    ∧ (let x := (idle id fun r => { r with samples := List.replicate 96 0 }).advance 0
      (x.str 5).st ≠ .closed ∧ (x.str 5).heldNotices.length < (x.str 5).unstamped ∧ x.groupsWork = true ∧ (x.str 5).st ≠ .moving
      ∧ (x.grp (x.str 5).home).running = true)
    ∧ (let x := (idle id fun r => { r with samples := List.replicate 96 0, st := .moving }).advance 0
      (x.str 5).heldNotices.length < (x.str 5).unstamped ∧ (x.str 5).st = .moving)
    ∧ (let x := (idle (fun G => { G with gap := some ⟨7, none⟩ }) id).advance 7
      (x.grp 3).gap = some ⟨7, none⟩ ∧ x.groupUp 3 = true ∧ x.clk 3 = 7) := by decide +kernel

/-- A swap in progress for slot 0 of group 3. -/
def swapIn (second : Bool) : Swap := { slot := 0, out := none, inFor := some 5, second }
def swapOut : Swap := { slot := 0, out := some 5, inFor := none }
def swapping (w : Swap) : State := (idle (fun G => { G with swaps := [w] }) id).advance 0

theorem witness_SwapEnds :
    (∀ b ∈ [false, true], let x := swapping (swapIn b);
      x.groupUp 3 = true ∧ (x.grp 3).swaps.find? (fun v => v.slot == 0 && v.out.isNone) = some (swapIn b)
      ∧ x.power.m ≠ 8 ∧ ((List.range 48).all fun k => (x.armedAt (devDetector k)).isNone) = true)
    ∧ (let x := swapping swapOut
      (x.grp 3).swaps.find? (fun v => v.slot == 0 && v.out.isSome) = some swapOut ∧ (x.str 5).spilled = false
      ∧ (x.copyReads 3 0 0 []).2 = false ∧ (x.copyReads 3 0 0 [(0, .uncorrectable true)]).2 = true)
    ∧ (slow (swapping swapOut)).power.m = 8 := by decide +kernel

def readOk (e : Except Nat (List Byte)) : Bool := match e with
  | .ok _ => true
  | .error _ => false
def resident : Stream := { stream5 with slot := some 0, xport := some (export0 true), st := .exporting }

theorem witness_TransferEvents :
    (let x := (withStream { stream5 with xport := some (export0 false) }).advance 0;
      (x.str 5).xport = some (export0 false) ∧ (x.str 5).st = .opened ∧ (x.str 5).busy = false ∧ x.inTransfer 5 = false
      ∧ x.cometUnit = .enabled ∧ x.groupsWork = true)
    ∧ (let x := (withStream resident).advance 0
      x.inTransfer 5 = false ∧ x.groupsWork = true ∧ x.power.m ≠ 8
      ∧ readOk (x.exportRead 5 .none [] []).1 = true ∧ readOk (x.exportRead 5 .unreadable [] []).1 = false ∧ x.keyAt 2 ≠ none
      ∧ ({ x with keys := [] } : State).keyAt 2 = none ∧ (slow x).power.m = 8)
    ∧ (let x := (withStream { stream5 with move := some (move0 false) }).advance 0
      (x.str 5).st = .opened ∧ (x.str 5).chunks = [] ∧ x.comingIn 5 = false ∧ x.canLeave 5 = true ∧ x.groupsWork = true)
    ∧ (let x := (withStream { stream5 with move := some (move0 true), st := .moving }).advance 0
      (x.str 5).slot = none ∧ x.inTransfer 5 = false ∧ x.groupsWork = true)
    ∧ (let x := (withStream { stream5 with st := .closing }).advance 0
      (x.str 5).outstanding = false ∧ (x.str 5).xport = none ∧ x.inTransfer 5 = false ∧ x.firmwareUp = true) := by
  decide +kernel

def importReq : ImportReq :=
  { params := import1, cmd := 0, record := [], nextSeq := 0, nextSample := 0, classWord := 0, image := 1, rate := 8
    chunkSamples := 96, deadline := 200, stale := 0 }
/-- An import of stream 6 with its home group in a state, and what its image's runs cost. -/
def importing (u : UnitState) (cost : Nat) : State := { oneOpen with
  images := [(1, { img1 with roundcost := List.replicate 48 cost, runcost := List.replicate 48 [cost], variants := 1
                             dispatch := [0] })]
  groups := [(3, { running := true, planned := true, unit := u })]
  streams := [(6, { imp := some importReq })] }
theorem witness_TransferEvents_import :
    (let x := (importing .disabled 0).advance 0
      let y := x.setStr 6 { x.str 6 with imp := none }
      (x.str 6).imp = some importReq ∧ x.groupsWork = true ∧ x.power.m ≠ 8 ∧ (slow x).power.m = 8
      ∧ (y.homeUp 3 && y.bindUp import1.source && y.bindUp import1.sink) = false)
    ∧ (let x := (importing .enabled 0).advance 0
      let y := x.setStr 6 { x.str 6 with imp := none }
      (y.homeUp 3 && y.bindUp import1.source && y.bindUp import1.sink) = true ∧ y.importFits importReq = true
      ∧ y.admitHome ⟨1, .c, 48000, 96⟩ 3 = some 3)
    ∧ (let x := (importing .enabled 10000000).advance 0
      let y := x.setStr 6 { x.str 6 with imp := none }
      (y.homeUp 3 && y.bindUp import1.source && y.bindUp import1.sink) = true ∧ y.importFits importReq = true
      ∧ y.admitHome ⟨1, .c, 48000, 96⟩ 3 = none) := by decide +kernel

theorem witness_UnitEvents :
    (∀ u ∈ [UnitState.draining, .aborting], unitExists 1 15 = true ∧ (portIn 15 u).unitOf 1 15 = u
      ∧ (portIn 15 u).unitEmpty 1 15 = true ∧ (portIn 15 u).groupsWork = true ∧ (portIn 15 u).resetAfter 1 15 = false)
    ∧ (let x : State := { up with cometUnit := .draining, cometResetAfter := true }
      x.unitOf 2 0 = .draining ∧ x.unitEmpty 2 0 = true ∧ x.resetAfter 2 0 = true)
    ∧ (let y := (idle (fun G => { G with unit := .aborting }) id).advance 0
      y.unitOf 0 3 = .aborting ∧ y.unitEmpty 0 3 = true ∧ y.groupsWork = true ∧ y.resetAfter 0 3 = false)
    ∧ (let y := (runs run0 (fun G => { G with unit := .draining }) {}).advance 0
      y.unitOf 0 3 = .draining ∧ y.unitEmpty 0 3 = false)
    ∧ ((portIn 0 .resetting).groupsWork = true ∧ ((portIn 0 .resetting).prt 0).unit = .resetting ∧ up.inflight = []
      ∧ up.repair.startFail = false)
    ∧ (let x : State := { up with repair := { up.repair with writing := [(⟨1, 0, 0, 0, 0, 0⟩, .other)] } }
      x.repair.writing = [(⟨1, 0, 0, 0, 0, 0⟩, .other)] ∧ x.firmwareUp = true) := by decide +kernel

/-! ### Tests of single steps: expected values from the spec's rules and worked examples -/

/-- The state after a command. -/
def after (c : Instr) (s : State) : State := match exec c s with
  | .next x => x
  | _ => s

/-- No row of the table spells a word, so the decoder gives none. -/
theorem test_no_word_decodes : decodeTableWord 0 0 = none ∧ decodeTableWord 32 0x0001 = none := by decide +kernel

/-- Table 13-4: an entry with OPCODE 0x0211 in bytes 0-1, TAG in 4-7 and stream 172,845 from byte 8 on spells STREAM_CLOSE of
that stream; its bit 148 lies in no field. -/
theorem test_entry_spells : let h (extra : Nat) : Hdr :=
      { bare .sideband with entry := BitVec.ofNat 512 (0x0211 + 7 * 2 ^ 32 + 172845 * 2 ^ 64 + extra) }
    spells (h 0) 0x0211 (infoStreamClose 172845).fields = true ∧ (h 0).tag = 7 ∧ (h 0).fence = false
    ∧ reservedSet (h 0) (infoStreamClose 172845).fields = false
    ∧ reservedSet (h (2 ^ 148)) (infoStreamClose 172845).fields = true
    ∧ spells (h 0) 0x0210 (infoStreamClose 172845).fields = false := by decide +kernel

/-- R291: an opcode that Table 13-4 does not list gets ST_BAD_OPCODE (0x0001). -/
theorem test_bad_opcode : .sideband 5 (leBytes 4 0x40000001 ++ List.replicate 28 0)
    ∈ (after (.nop 0 sb) up).outs := by decide +kernel

/-- R225: one wrong byte in each half is corrected; two in one half, or a half from another address, is detected. -/
theorem test_row_code : rowVerdict ⟨⟨1, false⟩, ⟨1, false⟩⟩ = .correctable ∧ rowVerdict ⟨⟨0, false⟩, ⟨2, false⟩⟩ = .uncorrectable
    ∧ rowVerdict ⟨⟨0, true⟩, ⟨0, false⟩⟩ = .uncorrectable ∧ rowVerdict clean = .clean := by decide +kernel

/-- R7: a cause whose event falls in the cycle of the W1C write that clears it ends set. -/
theorem test_dev_int : (after (.devIntClear 0 .pcie 3 1) { up with hif := { up.hif with devInt := 3 } }).hif.devInt = 1 := by
  decide +kernel

/-- CRC-32C of the ASCII digits 1 to 9 is 0xE3069283. -/
theorem test_crc32c : crc32c [0x31, 0x32, 0x33, 0x34, 0x35, 0x36, 0x37, 0x38, 0x39] = 0xE3069283 := by decide +kernel

/-- R24 in the worked example of 03_chunk_programs.md: 6,554,400 cycles are 2,622 µs. -/
theorem test_toUs : toUs 6554400 = 2622 ∧ toUs 2500 = 1 ∧ toUs 0 = 0 := by decide +kernel

/-- R41: at 16 kHz the least deadline is 65 samples. -/
theorem test_least_deadline : sampleCycles 65 16000 ≥ 10030000 ∧ sampleCycles 64 16000 < 10030000 := by decide +kernel

/-- Table 13-12: chunk 1,204 of stream 172,845, image 1, home 17. -/
theorem test_chunk_completion : withPhase (chunkEntry
      { stream := 172845, image := 1, home := 17, seq := 1204, status := 0, scaleOut := false, outcome := 0
        latenessUs := 2121, hold := 40, swapUs := 12, deferUs := 0, classWord := 1 }) true
    = [0, 0, 0x03, 0x11, 0x2D, 0xA3, 0x12, 0x00, 0xB4, 0x04, 0, 0, 0x49, 0x08, 0, 0, 0x28, 0, 0, 0, 0x0C, 0, 0, 0, 0, 0, 0, 0
      , 0x01, 0, 0, 0] := by decide +kernel

/-- CLAIM of a device without an owner, over the sideband, asking for ROLE: its response carries status 0 and bytes 4–7 TAG. -/
theorem test_claim : let s := after (.claim 400 (hdr .sideband (infoClaim sb true false)) true false) { up with owner := {} }
    (s.owner.owner = 1 ∧ s.owner.role = true ∧ s.owner.expired = false ∧ s.owner.leaseEnd = 100 + 1250000000)
    ∧ .sideband 5 (leBytes 4 0x40000000 ++ leBytes 4 7 ++ List.replicate 24 0) ∈ s.outs := by decide +kernel
/-- R285: CLAIM by the PCIe host of a device that the sideband owns gets ST_OWNED (0x0071), and the owner stays. -/
theorem test_claim_owned : let s := after (.claim 0 (hdr .pcie (infoClaim pc false false)) false false) { pcieUp_ with owner := up.owner }
    s.owner.owner = 1 ∧ readCells s.hostMem 0 2 = [0x71, 0x00] := by decide +kernel

/-- R317: a cap of 700 W is set; POWER_CAP_SET of 299 W gets ST_INVALID_PARAM and sets nothing. -/
theorem test_power_cap : (after (.powerCapSet 0 (hdr .sideband (infoPowerCapSet 700)) 700) up).power.capSet = 700
    ∧ (after (.powerCapSet 0 (hdr .sideband (infoPowerCapSet 299)) 299) up).power.capSet = 850 := by decide +kernel
/-- Table 14-6: LMAX is 255, and with P of 812 W and a cap of 700 W the first update takes L to 56. -/
theorem test_cap_update : lMax 100000 = 255
    ∧ (({ capSet := 700, recent := List.replicate 10 (812000, 0) } : Power).capUpdate 100000).l = 56 := by decide +kernel
/-- R315 and R316 in the example of 14_power_and_thermal.md: 40 W over 200,000 cycles needs gaps of 226,667 cycles. -/
theorem test_gap : gapLength 4000 200000 = 226667 := by decide +kernel
/-- R347's example: chunks 15,625 to 15,644 are skipped. -/
theorem test_skipped : ({ rate := 3, chunkSamples := 320, nextSample := 5000000 } : Stream).skipped 5000213 37140000 = 20 := by
  decide +kernel

/-- R275: on a ring of 16 entries with 3 used, tail 13 fills the ring, and tail 14 is illegal and disables it. -/
theorem test_sqTail : ((after (.sqTail 0 0 13) rings).sqr 0).tail = 13
    ∧ ((after (.sqTail 0 0 14) rings).sqr 0).en = false ∧ ((after (.sqTail 0 0 14) rings).sqr 0).error = true := by decide +kernel
/-- R244: PORT_CFG at the bit clock limit reads as written; above it CFG_REJECT is set and nothing else. -/
theorem test_portCfg : ((after (.portCfgWrite 0 .sideband 15 cfgTop) up).prt 15).cfg = 0x23F49
    ∧ (after (.portCfgWrite 0 .sideband 15 cfgOver) up).ports = [(15, { cfgReject := true })] := by decide +kernel
/-- R264: FIRE with TRIG_AT 0 at CTRL 100 gives T = 725. -/
theorem test_fire : ((after (.fire 400 .sideband 2) (pair 1)).eqxOf 2).t = 725 := by decide +kernel
/-- R249: a 16-bit sample of −2 as received, and the sample that goes out for it. -/
theorem test_sample : rxValue 0 0xFFFE1234 = -131072 ∧ toSample false (-131072) = -2 ∧ txValue 0 (-131072) = -2 := by decide +kernel
/-- R259: no gain at k = 0, full gain at k = m, half gain in the middle. -/
theorem test_q15 : q15 0 96 = 0 ∧ q15 96 96 = 32768 ∧ q15 48 96 = 16384 := by decide +kernel
/-- R250: the ninth frame is discarded. -/
theorem test_rx_full : let s := after (.receiveFrame 0 15 0 [1, 2]) (audio fun r => { r with rxFifo := List.replicate 8 ⟨[], 0⟩ })
    (s.prt 15).driftRx = 1 ∧ s.ctrAt (apRxFull 15) = 1 := by decide +kernel

/-- R226 with 4 GiB windows: the first interleaved stripes lie on channels 0 and 1. -/
theorem test_stripes : up.resolve (48 * 2 ^ 32 + 4095) = some (0, 2 ^ 32 + 4095)
    ∧ up.resolve (48 * 2 ^ 32 + 4096) = some (1, 2 ^ 32) := by decide +kernel

/-- Table 5-4: WAIT with n = 5 at 0 lets the next word issue at 6; LOOP of 2 words, 3 times, opens at its successor. -/
theorem test_wait : ((after (.wait 0 3 0) (word (enc 0 1 5) {})).clu 3 0).nextIssue = 6 := by decide +kernel
theorem test_loop : ((after (.loop 0 3 0) (word (enc 0 2 (2 + 3 * 1024)) {})).clu 3 0).loops = [{ first := 1, last := 3, left := 3 }] := by
  decide +kernel
/-- Table 6-2: SETA of register 1 with BASE 5, RUN 6, STRIDE 7. -/
theorem test_seta : ((after (.seta 0 3 0) (word (enc 2 1 (2 ^ 51 + 5 * 2 ^ 38 + 6 * 2 ^ 25 + 7 * 2 ^ 12)) {})).clu 3 0).sreg 1
    = { base := 5, run := 6, stride := 7 } := by decide +kernel
/-- R67: after a HALT word the signature is the CRC-32C of its 8 bytes. -/
theorem test_halt_signature : let k := (after (.halt 0 3 0) (word (enc 0 3 0) {})).clu 3 0
    k.haltIssued = true ∧ k.sig = BitVec.ofNat 32 (crc32c [0, 0, 0, 0, 0, 0, 0, 3]) := by decide +kernel
/-- R64: START of a halted cluster in cycle 0 begins at word 9 of half 1 one cycle later. -/
theorem test_start : let k := (after (.start 0 3) (acts 0x02 (1 + 9 * 2) run0 {})).clu 3 0
    k.haltIssued = false ∧ k.half = 1 ∧ k.word = 9 ∧ k.nextIssue = 1 := by decide +kernel
/-- R67: a BARRIER for another signature fails the run with ST_SEQ_FAULT (0x0022). -/
theorem test_barrier : (((after (.barrier 0 3) (acts 0x0B 1 run0 {})).advance 1).grp 3).quiesce.map (·.status) = some stSeqFault := by
  decide +kernel
/-- R230: a row stored to image-relative address 100 lies in the group's near window. -/
theorem test_store : let s := (after (.store 0 3 [] []) (acts 0x05 (100 + 2 ^ 47) run0 { rows := [(0, some { data := 0x4D })] })).advance 8
    s.memRead (3 * 2 ^ 32 + 6400) 2 = [0x4D, 0] := by decide +kernel
/-- R178, R182: step 1 of a commit inverts COMMITTED. -/
theorem test_commit : ((after (.commitState 900 3 0 0) (commits 0)).slotAt 3 0).committed = true := by decide +kernel

/-- R410, R336: the 2 ms entry of a device reset raises EPOCH by one, and LPDDR6 is lost; in a safe-state sequence it is kept. -/
theorem test_domain_reset : let m : List Host.Cell := [(0, 1)]
    (after (.domainReset 0) { at_ .abandoned .deviceReset with mem := m }).mem = []
    ∧ (after (.domainReset 0) { at_ .abandoned .safeState with mem := m }).mem = m
    ∧ (after (.domainReset 0) (at_ .abandoned .deviceReset)).life.epoch = 1 := by decide +kernel
/-- R322: two readings of 105 °C in a row stop the device with cause 2. -/
theorem test_over_temp : let s := after (.sensorRead 25000 (List.replicate 55 40 ++ [105])) hot1
    s.life.phase = .stopDeclared ∧ s.life.stopCause = 2 := by decide +kernel
/-- Table 17-3: the sequence begins at P. -/
theorem test_power_up : (after (.powerUp 0) State.reset).life.phase = .powerUp := by decide +kernel
end Sys2Proof.Tests
end

section
/-! PROOFS. Accesses to the registers (R7, R272, R273, R406 to R408): the rules of a read and of a write of a word, and the
statement about them, O29. -/

namespace Sys2Proof.Machine

open Sys2Proof.Safety

/-! ### Which accesses reach the registers -/

theorem State.controlUp_of_regReach {s : State} {m : Master} (h : s.regReach m = true) : s.controlUp = true := by
  simp only [State.regReach, Bool.and_eq_true] at h
  exact h.1

/-- An access that reaches the registers is answered. -/
theorem State.readReach_of_regReach {s : State} {m : Master} (h : s.regReach m = true) : s.readReach m = true := by
  simp [State.readReach, h]

theorem State.readAccess_of_reach {s : State} {t : Nat} {m : Master} {f : State → State}
    (h : (s.atCtrl t).readReach m = true) : s.readAccess t m f = f (s.atCtrl t) := if_pos h

theorem State.readAccess_of_unreached {s : State} {t : Nat} {m : Master} {f : State → State}
    (h : (s.atCtrl t).readReach m = false) : s.readAccess t m f = s.atCtrl t := if_neg (by simp [h])

/-! ### The events of Table 13-4 that read and write registers -/

theorem exec_registerWrite (s : State) (t : Nat) (m : Master) (bar off : Nat) (v : Reg) (size : Nat) :
    exec (.registerWrite t m bar off v size) s = .next (s.access t m fun x => x.writeAccess m bar off size v) := rfl

theorem exec_registerWrite_of_reach {s : State} {t : Nat} {m : Master} (bar off : Nat) (v : Reg) (size : Nat)
    (h : (s.atCtrl t).regReach m = true) :
    exec (.registerWrite t m bar off v size) s = .next ((s.atCtrl t).writeAccess m bar off size v) := by
  rw [exec_registerWrite, State.access, if_pos h]

/-- A write that changes nothing where it reaches the registers changes nothing at all. -/
theorem exec_registerWrite_of_fixed {s : State} {t : Nat} {m : Master} {bar off size : Nat} {v : Reg}
    (h : (s.atCtrl t).regReach m = true → (s.atCtrl t).writeAccess m bar off size v = s.atCtrl t) :
    exec (.registerWrite t m bar off v size) s = .next (s.atCtrl t) := by
  rw [exec_registerWrite, State.access]
  split
  · rw [h ‹_›]
  · rfl

theorem exec_readClear (s : State) (t : Nat) (m : Master) (bar off size : Nat) :
    exec (.readClear t m bar off size) s = .next (s.readAccess t m fun x => x.readOut m bar off size) := rfl

theorem exec_pairLoRead (s : State) (t : Nat) (m : Master) (bar off size : Nat) :
    exec (.pairLoRead t m bar off size) s = .next (s.readAccess t m fun x => x.readOut m bar off size) := rfl

theorem entryOf_id (s : State) (t : Nat) (h : Hdr) (i : Instr) (l : List Obj) :
    (entryOf s t h i l).id = s.nextCmd := by
  unfold entryOf
  cases h.master <;> exact arrived_nextCmd s t h

/-- REG_WRITE writes its words in order and completes with ST_SUCCESS. -/
theorem exec_regWrite_of_executes {s : State} {t : Nat} {h : Hdr} {bar count off : Nat} {data : List Reg}
    (k : executes s t h (infoRegWrite bar count off data) = true) :
    exec (.regWrite t h bar count off data) s =
      .next (((begun s t h (.regWrite t h bar count off data) (infoRegWrite bar count off data)).writeWords h.master bar
        off (data.take count)).finish s.nextCmd stSuccess []) := by
  change Host.Outcome.next (s.hostCommand t h _ (infoRegWrite bar count off data) (effRegWrite bar count off data)) = _
  rw [hostCommand_of_executes k, effRegWrite, entryOf_hdr, entryOf_id]

/-! ### Reads -/

/-- Counting the holds in progress leaves the life cycle as it is. -/
@[simp] theorem State.upToDate_controlUp (s : State) : s.upToDate.controlUp = s.controlUp := by
  have life : s.upToDate.life = s.life := (keeps_upToDate (Sub.refl _) (.rfl (s := s))).same .life rfl
  rw [State.controlUp, State.controlUp, life]

/-- A read that is not of an aligned word, or made while the control domain is in reset, gives 0 (R272, R408). -/
theorem State.readOut_of_no_word {s : State} {off size : Nat} (m : Master) (bar : Nat)
    (h : s.controlUp = false ∨ size ≠ 4 ∨ off % 4 ≠ 0) : s.readOut m bar off size = s.emit (.regData m bar off 0) := by
  refine if_neg ?_
  rcases h with h | h | h <;> simp [wordAccess, h]

/-- A read of an aligned word gives it, with the holds in progress counted. -/
theorem State.readOut_of_word {s : State} {off : Nat} (m : Master) (bar : Nat) (up : s.controlUp = true)
    (al : off % 4 = 0) :
    s.readOut m bar off 4 = (s.upToDate.readWord m bar off).2.emit
      (.regData m bar off (BitVec.ofNat 32 (s.upToDate.readWord m bar off).1)) :=
  if_pos (by simp [wordAccess, up, al])

theorem State.readWord_of_counter {s : State} {off : Nat} (m : Master) (up : s.controlUp = true) (al : off % 4 = 0)
    (h : s.bar0 off = .counter) :
    s.readWord m 0 off = (s.ctrAt off % 2 ^ 32, if s.owner.owner = Master.num m then s.setCtr off 0 else s) := by
  simp [State.readWord, up, al, h]

theorem State.readWord_of_lo {s : State} {off v : Nat} (m : Master) (up : s.controlUp = true) (al : off % 4 = 0)
    (h : s.bar0 off = .lo v) :
    s.readWord m 0 off =
      (v % 2 ^ 32, { s with latches := tput 0 s.latches (latchKey m off) (v / 2 ^ 32 % 2 ^ 32) }) := by
  simp [State.readWord, up, al, h]

/-! ### Writes -/

theorem State.writeAccess_word {off : Nat} (s : State) (m : Master) (bar : Nat) (v : Reg) (al : off % 4 = 0) :
    s.writeAccess m bar off 4 v = s.writeWord m bar off v.toNat :=
  if_pos (by simp [wordAccess, al])

/-- A write that is not of an aligned word is ignored (R272). -/
theorem State.writeAccess_of_no_word {off size : Nat} (s : State) (m : Master) (bar : Nat) (v : Reg)
    (h : size ≠ 4 ∨ off % 4 ≠ 0) : s.writeAccess m bar off size v = s := by
  refine if_neg ?_
  rcases h with h | h <;> simp [wordAccess, h]

/-- Outside the PCIe host's own registers a write of a master that is not the owner is ignored (R273). -/
theorem State.writeAccess_of_not_owner {s : State} {m : Master} {off : Nat} {v : Reg} (size : Nat)
    (h : s.owner.owner ≠ Master.num m) (k : s.writeHost 0 off v.toNat = none) : s.writeAccess m 0 off size v = s := by
  have word : s.writeWord m 0 off v.toNat = s := by simp [State.writeWord, State.ownerWrites, h, k]
  unfold State.writeAccess
  rw [word, ite_self]

/-- The PCIe host's write to a register of its own acts, whoever the owner is (R273). -/
theorem State.writeWord_host {s x : State} {bar off v : Nat} (up : s.controlUp = true) (al : off % 4 = 0)
    (h : s.writeHost bar off v = some x) : s.writeWord .pcie bar off v = x := by
  simp [State.writeWord, up, al, h]

/-- An offset at which no register of the PCIe host's own stands, and none of an audio port or an Equinox group. -/
def settingAt (off : Nat) : Bool :=
  off % 4 == 0 && (arrayAt off 0x2A0000 0x20 64).isNone && (arrayAt off 0x2A1000 0x20 64).isNone
    && (arrayAt off 0x2A4000 0x10 256).isNone && (arrayAt off 0x010000 0x14 1).isNone
    && (arrayAt off 0x290000 0x80 16).isNone && (arrayAt off 0x290C00 0x10 4).isNone

/-- The owner's write to a setting of the device. -/
theorem State.writeAccess_setting {s : State} {m : Master} {off : Nat} (v : Reg) (up : s.controlUp = true)
    (own : s.owner.owner = Master.num m) (h : settingAt off = true) :
    s.writeAccess m 0 off 4 v = s.writeCfg off v.toNat := by
  simp only [settingAt, Bool.and_eq_true, beq_iff_eq, Option.isNone_iff_eq_none] at h
  obtain ⟨⟨⟨⟨⟨⟨al, sq⟩, cq⟩, msix⟩, devInt⟩, port⟩, eqx⟩ := h
  have host : s.writeHost 0 off v.toNat = none := by simp [State.writeHost, sq, cq, msix, devInt]
  rw [State.writeAccess_word s m 0 v al]
  simp [State.writeWord, State.ownerWrites, up, al, own, host, port, eqx]

/-- The word at the start of an entry. -/
theorem arrayAt_entry {n stride count : Nat} (base : Nat) (hs : 0 < stride) (hn : n < count) :
    arrayAt (base + stride * n) base stride count = some (n, 0) := by
  have lt : stride * n < stride * count := Nat.mul_lt_mul_of_pos_left hn hs
  simp [arrayAt, lt, hs]

/-- The PCIe host's write of the LO word of a base, on a submission ring that is not enabled. -/
theorem State.writeAccess_sqBase {s : State} {n : Nat} (v : Reg) (up : s.controlUp = true) (hn : n < 64)
    (h : (s.sqr n).en = false) :
    s.writeAccess .pcie 0 (0x2A0000 + 32 * n) 4 v =
      s.setSq n { s.sqr n with base := 2 ^ 32 * ((s.sqr n).base / 2 ^ 32) + 4096 * (v.toNat / 4096) } := by
  have al : (0x2A0000 + 32 * n) % 4 = 0 := by omega
  rw [State.writeAccess_word s .pcie 0 v al]
  refine State.writeWord_host up al ?_
  simp [State.writeHost, arrayAt_entry 0x2A0000 (show 0 < 32 by decide) hn, State.writeSqWord, h, baseLo]

/-- A write of SAFE_CFG changes no other setting: the recovery intervals that it judges again are none (R352). -/
theorem State.writeSafeCfg_cfg (s : State) (w v : Nat) : (s.writeSafeCfg w v).cfg = s.cfg.writeSafe w v := by
  have k : Keeps 0x20100820 { s with cfg := s.cfg.writeSafe w v } (s.writeSafeCfg w v) := by
    refine Keeps.foldl (fun a i => ?_) _ _ .rfl
    dsimp only
    split
    · exact .rfl
    · exact keeps_judge (Sub.refl _) (keeps_setSafeS (by decide) .rfl _ _) _ _
  exact k.same .cfg rfl

/-! ### O29 -/

/-- Settles O29, clause by clause from the rules of an access, a read and a write. -/
theorem registerAccesses : Obligations.RegisterAccesses := by
  intro s t x
  refine ⟨fun h bar count off data k => exec_regWrite_of_executes k, fun m bar off size v => ⟨?_, ?_, ?_⟩,
    ?_, ?_, ?_, ?_, ?_⟩
  · intro h
    exact exec_registerWrite_of_fixed fun reach =>
      State.writeAccess_of_no_word x m bar v (h.resolve_left (by simpa using reach))
  · intro h
    rw [exec_readClear, exec_pairLoRead, State.readAccess_of_unreached h]
    exact ⟨rfl, rfl⟩
  · intro reach h
    rw [exec_readClear, exec_pairLoRead, State.readAccess_of_reach reach, State.readOut_of_no_word m bar h]
    exact ⟨rfl, rfl⟩
  · intro m off v own host
    exact exec_registerWrite_of_fixed fun _ => State.writeAccess_of_not_owner 4 own host
  · intro m v reach own
    have up := State.controlUp_of_regReach reach
    have setting {off : Nat} (h : settingAt off = true) :
        exec (.registerWrite t m 0 off v) s = .next (x.writeCfg off v.toNat) := by
      rw [exec_registerWrite_of_reach 0 off v 4 reach, State.writeAccess_setting v up own h]
    exact ⟨setting (by decide), x.writeSafeCfg 0 v.toNat, setting (by decide), State.writeSafeCfg_cfg x 0 v.toNat⟩
  · intro n v hn reach h
    rw [exec_registerWrite_of_reach 0 _ v 4 reach,
      State.writeAccess_sqBase v (State.controlUp_of_regReach reach) hn h]
  · intro m off y reach al h
    have up := State.controlUp_of_regReach reach
    rw [exec_readClear, State.readAccess_of_reach (State.readReach_of_regReach reach), State.readOut_of_word m 0 up al,
      State.readWord_of_counter m (by rw [State.upToDate_controlUp, up]) al h]
  · intro m off v y reach al h
    have up := State.controlUp_of_regReach reach
    rw [exec_pairLoRead, State.readAccess_of_reach (State.readReach_of_regReach reach), State.readOut_of_word m 0 up al,
      State.readWord_of_lo m (by rw [State.upToDate_controlUp, up]) al h]

end Sys2Proof.Machine
end

section
/-! PROOFS. What every step keeps: a sound state stays sound (R23, R226, R268, R354), O4. -/

namespace Sys2Proof.Machine

open Sys2Proof.Safety

/-! ### O4 -/

/-- Whatever an operation does, it keeps a sound state sound. -/
theorem Keeps.sound {F : Nat} {s s' : State} (k : Keeps F s s') (h : Sound s) : Sound s' := by
  obtain ⟨⟨mem, hostMem⟩, owner, epoch⟩ := h
  exact ⟨⟨k.mem mem, k.hostMem hostMem⟩, k.owner owner, k.epoch epoch⟩

/-- Neither the clock and outputs, which time moves by itself, nor what falls due by then make a state unsound. -/
theorem advance_sound {s : State} (t : Nat) (h : Sound s) : Sound (s.advance t) := (keeps_advance s t).sound h

theorem exec_sound {c : Instr} {s s' : State} (h : Sound s) (e : exec c s = .next s') : Sound s' := by
  obtain ⟨t, k⟩ := exec_keeps_of e
  exact k.sound (advance_sound t h)

/-- Settles O4: on an empty queue time passes, and else the command at the front takes its effect. -/
theorem stepKeepsSound : Obligations.StepKeepsSound := by
  intro s s' h e
  unfold step at e
  split at e
  case h_1 =>
    injection e with e
    exact e ▸ advance_sound _ h
  case h_2 c rest _ => exact exec_sound (s := { s with pending := rest }) h e

end Sys2Proof.Machine
end

section
/-! PROOFS. The queries of Table 13-4 (R285, R298, R304, R317, R333), O14. -/

namespace Sys2Proof.Machine

open Sys2Proof.Safety

/-! ### O14 -/

/-- A row that is a command of the host takes that command's own effect where it executes. -/
theorem exec_of_executes {c : Instr} {s : State} {t : Nat} {h : Hdr} {info : CmdInfo} {eff : Inflight → State → State}
    (e : exec c s = .next (s.hostCommand t h c info eff)) (k : executes s t h info = true) :
    exec c s = .next (eff (entryOf s t h c (if info.cls == .read then [] else info.objs)) (begun s t h c info)) := by
  rw [e, hostCommand_of_executes k]

/-- VIGIL_STATUS of a master other than the safety port comes as every other command. -/
theorem exec_vigilStatus_of_host {h : Hdr} (s : State) (t : Nat) (hm : h.master ≠ .safety) :
    exec (.vigilStatus t h) s = .next (s.hostCommand t h (.vigilStatus t h) infoVigilStatus effVigilStatus) :=
  congrArg Host.Outcome.next (if_neg fun p => hm p.1)

/-- Settles O14, query by query from its own effect. -/
theorem queriesAnswer : Obligations.QueriesAnswer := by
  intro s t h
  refine ⟨fun k => ?nop, fun k => ?device, fun k => ?owner, fun type index k => ?unit, fun k => ?power,
    fun hm k => ?vigil, fun stream part dest k => ?stream, fun handle dest k => ?image,
    fun bar count offset k => ?regs⟩
  case nop => rw [exec_of_executes (eff := effNop) rfl k, effNop, entryOf_id]
  case device =>
    intro x
    rw [exec_of_executes (eff := effDeviceQuery) rfl k, effDeviceQuery, entryOf_id, stepping]
  case owner =>
    intro x
    rw [exec_of_executes (eff := effOwnerQuery) rfl k, effOwnerQuery, entryOf_id]
  case unit =>
    intro x
    rw [exec_of_executes (eff := effUnitQuery type index) rfl k, effUnitQuery, entryOf_id]
  case power =>
    intro x
    rw [exec_of_executes (eff := effPowerQuery) rfl k, effPowerQuery, entryOf_id]
    rfl
  case vigil =>
    intro x
    rw [exec_of_executes (exec_vigilStatus_of_host s t hm) k, effVigilStatus, entryOf_id]
  case stream =>
    intro x
    rw [exec_of_executes (eff := effStreamQuery stream part dest) rfl k, effStreamQuery, entryOf_id, State.writeDest]
    by_cases hd : dest = 0 <;> simp only [hd, if_true, if_false, x]
  case image =>
    intro x m loaded
    rw [exec_of_executes (eff := effImageQuery handle dest) rfl k, effImageQuery, entryOf_id]
    exact congrArg Host.Outcome.next (if_neg (by simp [m, x] at loaded; simp [loaded]))
  case regs =>
    intro x r
    rw [exec_of_executes (eff := effRegRead bar count offset) rfl k, effRegRead, entryOf_id, entryOf_hdr]

end Sys2Proof.Machine
end

section
/-! PROOFS. Loss and return of clocks and coolant, and the sequence of a stop (R19, R20, R323, R324, Table 14-5), O41. -/

namespace Sys2Proof.Machine

/-! ### O41 -/

@[simp] theorem State.abandonGroups_life (s : State) : s.abandonGroups.life = s.life :=
  (keeps_abandonGroups (Sub.refl _) (.rfl (s := s))).same .life rfl

@[simp] theorem State.logEvent_life (s : State) (code unit cluster status : Nat) (data : List Byte) :
    (s.logEvent code unit cluster status data).life = s.life :=
  (keeps_logEvent (Sub.refl _) (.rfl (s := s)) code unit cluster status data).same .life rfl

@[simp] theorem State.clockFault_life (s : State) (source : Nat) : (s.clockFault source).life = s.life :=
  (keeps_clockFault (Sub.refl _) (.rfl (s := s)) source).same .life rfl

@[simp] theorem State.clockFault_vigil (s : State) (source : Nat) : (s.clockFault source).vigil = s.vigil :=
  (keeps_clockFault (Sub.refl _) (.rfl (s := s)) source).same .vigil rfl

theorem State.clockFault_mem_outs (s : State) (source : Nat) : .clockFault source ∈ (s.clockFault source).outs := by
  simp [State.clockFault, State.emit]

/-- What a declaration makes of the life cycle's registers: all else in them stays, and all of them stay where a stop is
in progress already or the standby domain is down. -/
theorem State.declareStop_life (s : State) (cause : Nat) :
    (s.declareStop cause).life =
      if s.isStopped || !s.standbyUp || s.life.phase == .off then s.life
      else { s.life with
        phase := if s.controlUp then .stopDeclared else .stopGated
        ready := false, armed := false, stopCause := cause, stopAt := s.now, stopOpen := true } := by
  unfold State.declareStop
  split
  · rfl
  · simp

@[simp] theorem State.declareStop_rootLocked (s : State) (cause : Nat) :
    (s.declareStop cause).life.rootLocked = s.life.rootLocked := by
  rw [State.declareStop_life]; split <;> rfl

@[simp] theorem State.declareStop_onRefclk (s : State) (cause : Nat) :
    (s.declareStop cause).life.onRefclk = s.life.onRefclk := by
  rw [State.declareStop_life]; split <;> rfl

@[simp] theorem State.declareStop_coolantOk (s : State) (cause : Nat) :
    (s.declareStop cause).life.coolantOk = s.life.coolantOk := by
  rw [State.declareStop_life]; split <;> rfl

@[simp] theorem State.declareStop_coolantSince (s : State) (cause : Nat) :
    (s.declareStop cause).life.coolantSince = s.life.coolantSince := by
  rw [State.declareStop_life]; split <;> rfl

/-- In a device at work that is not stopping, a stop is declared. -/
theorem State.declareStop_of_works {s : State} (cause : Nat) (up : s.standbyUp = true) (going : s.isStopped = false)
    (on : s.life.phase ≠ .off) :
    (s.declareStop cause).life.stopCause = cause ∧ (s.declareStop cause).life.ready = false
      ∧ (s.declareStop cause).life.stopAt = s.now
      ∧ (s.declareStop cause).life.phase = if s.controlUp then .stopDeclared else .stopGated := by
  rw [State.declareStop_life, if_neg (by simp [up, going, on])]
  exact ⟨rfl, rfl, rfl, rfl⟩

theorem State.loseRoot_of_locked {s : State} (on : s.life.phase ≠ .off) (locked : s.life.rootLocked = true) :
    s.loseRoot = ((({ s with life := { s.life with rootLocked := false, onRefclk := true } } : State).declareStop
      3).clockFault 0) := if_pos (by simp [on, locked])

/-- The stop that a loss of root lock declares (R19). -/
theorem State.loseRoot_stops {s : State} (on : s.life.phase ≠ .off) (locked : s.life.rootLocked = true)
    (up : s.standbyUp = true) (going : s.isStopped = false) :
    s.loseRoot.life.stopCause = 3 ∧ s.loseRoot.life.ready = false ∧ s.loseRoot.life.stopAt = s.now
      ∧ s.loseRoot.life.phase = if s.controlUp then .stopDeclared else .stopGated := by
  rw [State.loseRoot_of_locked on locked, State.clockFault_life]
  exact State.declareStop_of_works (s := { s with life := { s.life with rootLocked := false, onRefclk := true } }) 3 up
    going on

/-- What any loss of REFCLK leaves (R20). -/
theorem State.loseRefclk_of_present {s : State} (on : s.life.phase ≠ .off) (present : s.life.refclk = true) :
    s.loseRefclk.life.refclk = false ∧ s.loseRefclk.life.rootLocked = false ∧ s.loseRefclk.vigil.running = false
      ∧ s.loseRefclk.vigil.heartbeatOn = false ∧ .clockFault 1 ∈ s.loseRefclk.outs := by
  rw [State.loseRefclk, if_pos (by simp [on, present])]
  exact ⟨by simp, by simp, by simp, by simp, State.clockFault_mem_outs _ 1⟩

/-- The loss of REFCLK leaves no clock to a device that was not stopping: its stop is gated at once. -/
theorem State.loseRefclk_stops {s : State} (on : s.life.phase ≠ .off) (present : s.life.refclk = true)
    (up : s.standbyUp = true) (going : s.isStopped = false) :
    s.loseRefclk.life.stopCause = 3 ∧ s.loseRefclk.life.phase = .stopGated := by
  obtain ⟨cause, -, -, phase⟩ := State.declareStop_of_works 3 up going on
  rw [State.loseRefclk, if_pos (by simp [on, present]), State.clockFault_life]
  refine ⟨cause, ?_⟩
  dsimp only
  rw [phase]
  cases s.controlUp <;> rfl

theorem State.returnRefclk_of_lost {s : State} (on : s.life.phase ≠ .off) (lost : s.life.refclk = false) :
    s.returnRefclk = { s with
      vigil := { s.vigil with running := s.vigil.imageValid }
      life := { s.life with refclk := true, pupAt := s.life.pupAt + (s.now - s.life.refclkAt) } } :=
  if_pos (by simp [on, lost])

/-- REFCLK's count goes on where it stood when REFCLK was lost (R20). -/
theorem State.returnRefclk_refclk {s : State} (on : s.life.phase ≠ .off) (lost : s.life.refclk = false)
    (h : s.life.pupAt ≤ s.life.refclkAt) (k : s.life.refclkAt ≤ s.now) : s.returnRefclk.refclk = s.refclk := by
  have e : s.now - (s.life.pupAt + (s.now - s.life.refclkAt)) = s.life.refclkAt - s.life.pupAt := by omega
  simp [State.returnRefclk_of_lost on lost, State.refclk, lost, e]

theorem State.loseCoolant_of_high {s : State} (high : s.life.coolantOk = true) :
    s.loseCoolant =
      ({ s with life := { s.life with coolantOk := false, coolantSince := s.now } } : State).declareStop 1 := if_pos high

/-- The stop that a low COOLANT_OK declares (R324). -/
theorem State.loseCoolant_stops {s : State} (high : s.life.coolantOk = true) (up : s.standbyUp = true)
    (going : s.isStopped = false) (on : s.life.phase ≠ .off) :
    s.loseCoolant.life.stopCause = 1 ∧ s.loseCoolant.life.ready = false ∧ s.loseCoolant.life.stopAt = s.now
      ∧ s.loseCoolant.life.phase = if s.controlUp then .stopDeclared else .stopGated := by
  rw [State.loseCoolant_of_high high]
  exact State.declareStop_of_works (s := { s with life := { s.life with coolantOk := false, coolantSince := s.now } }) 1
    up going on

theorem State.glitchCoolant_of_high {s : State} (high : s.life.coolantOk = true) (up : s.controlUp = true) :
    s.glitchCoolant = ({ s with life := { s.life with coolantSince := s.now } } : State).count coolantGlitches 1 := by
  unfold State.glitchCoolant
  rw [if_pos high]
  exact if_pos up

theorem State.completeStop_of_gated {s : State} (gated : s.life.phase = .stopGated)
    (due : s.life.stopAt + 25 * 90000 ≤ s.now) :
    s.completeStop = { s.resetDomains false with life := { s.life with phase := .stopped } } :=
  if_pos (by simp [gated, State.stopReached, due])

/-- Settles O41, event by event. -/
theorem clocksCoolantAndStop : Obligations.ClocksCoolantAndStop := by
  intro s t x
  refine ⟨fun on => ⟨fun locked => ?rootLoss, fun present => ?relock, fun present => ?refclkLoss,
    fun lost => ?refclkReturn⟩, fun high => ?coolantLoss, fun high up => ?glitch, fun low => ?restored,
    fun declared due => ?gate, fun gated due => ?complete⟩
  case rootLoss =>
    refine ⟨x.loseRoot, rfl, ?_, ?_, ?_, State.loseRoot_stops on locked⟩ <;> rw [State.loseRoot_of_locked on locked]
    · simp
    · simp
    · exact State.clockFault_mem_outs _ 0
  case relock =>
    have c : (x.life.phase != .off && x.life.refclk) = true := by rw [present]; simpa using on
    exact congrArg Host.Outcome.next (if_pos c)
  case refclkLoss =>
    obtain ⟨clock, lock, runs, beats, fault⟩ := State.loseRefclk_of_present on present
    exact ⟨x.loseRefclk, rfl, clock, lock, runs, beats, fault, State.loseRefclk_stops on present⟩
  case refclkReturn =>
    refine ⟨x.returnRefclk, rfl, ?_, ?_, State.returnRefclk_refclk on lost⟩ <;> rw [State.returnRefclk_of_lost on lost]
  case coolantLoss =>
    refine ⟨x.loseCoolant, rfl, ?_, ?_, State.loseCoolant_stops high⟩ <;> rw [State.loseCoolant_of_high high]
    · exact State.declareStop_coolantOk ..
    · exact State.declareStop_coolantSince ..
  case glitch =>
    refine ⟨x.glitchCoolant, rfl, ?_⟩
    rw [State.glitchCoolant_of_high high up]
    exact ⟨rfl, State.setCtr_ctrAt_self ..⟩
  case restored => exact congrArg Host.Outcome.next (if_neg (ne_true_of_eq_false low))
  case gate =>
    have c : (x.life.phase == .stopDeclared && x.stopReached 10) = true := by
      rw [declared, State.stopReached, decide_eq_true due]; rfl
    exact congrArg Host.Outcome.next (if_pos c)
  case complete =>
    refine ⟨x.completeStop, rfl, ?_⟩
    rw [State.completeStop_of_gated gated due]
    exact ⟨rfl, rfl, rfl, rfl, rfl, rfl, rfl, rfl, rfl, rfl⟩

end Sys2Proof.Machine
end

section
/-! PROOFS. Holds, quiescing and the steps of a commit (R31, R70, R72, R79, R95), O57. -/

namespace Sys2Proof.Machine

/-! ### Holds and quiescing (R70, R72, R95) -/

section Hold

variable {s : State} {g : Nat} {r : RunInfo} (up : s.groupUp g = true) (run : (s.grp g).cur = some r)

include up run

/-- The held cycle that is one too many fails the run, alone where no tag mismatch falls in it. -/
theorem State.holdTimeout_of_due {h : Hold} (held : (s.grp g).hold = some h) (now : s.clk g = h.since + 4096)
    (tags : r.scrubAt + 39 = s.clk g → r.tagFail = none) :
    s.holdTimeout g = s.failRun g stHoldTimeout (s.clk g) (h.srcs.contains .injected) := by
  have due : (s.groupUp g && decide (s.clk g = h.since + holdLimit - 1)) = true := by
    rw [up, now, holdLimit, Bool.true_and, decide_eq_true_eq]; omega
  have tag : (if r.scrubAt + 39 = s.clk g then r.tagFail else none) = none := ite_eq_right_iff.2 tags
  simp only [State.holdTimeout, held, run]
  rw [if_pos due, tag]

theorem State.scrubHoldEnd_of_due (held : (s.grp g).heldBySrc .scrub = true) (now : s.clk g = r.scrubAt + 40) :
    s.scrubHoldEnd g = (r.scrubs.foldl (fun s v => s.verifyFailed g v) ((s.count (spadScrubHold g) 40).modGrp g fun G =>
      { G with cur := G.cur.map fun r => { r with scrubs := [] } })).dropHold g .scrub (s.clk g) := by
  have due : (s.groupUp g && (s.grp g).heldBySrc .scrub && decide (s.clk g = r.scrubAt + scrubCycles)) = true := by
    rw [up, held, now, scrubCycles]; simp
  simp only [State.scrubHoldEnd, run]
  rw [if_pos due, scrubCycles]

end Hold

theorem State.quiesceEnd_of_due {s : State} {g : Nat} {q : Quiesce} (retries : WriteRetries) (up : s.groupUp g = true)
    (failed : (s.grp g).quiesce = some q) (now : s.clk g = q.failedAt + 2000) :
    s.quiesceEnd g retries = s.endQuiesce g retries := by
  simp [State.quiesceEnd, failed, up, now, quiesceCycles]

/-! ### Commit steps (R31, R79) -/

theorem State.commitDue_of_due {s : State} {g lane p k : Nat} {w : Lane} (up : s.groupUp g = true)
    (here : tget none (s.grp g).lanes lane = some w) (waits : (p, k) ∈ w.commits)
    (now : s.clk g = w.ended + (commitAt k + commitPace * p : Nat)) : s.commitDue g lane p k = some w := by
  simp [State.commitDue, here, up, waits, now]

theorem State.commitState_of_due {s : State} {g lane p : Nat} {w : Lane} (up : s.groupUp g = true)
    (here : tget none (s.grp g).lanes lane = some w) (waits : (p, 0) ∈ w.commits)
    (now : s.clk g = w.ended + (commitAt 0 + commitPace * p : Nat)) :
    s.commitState g lane p =
      (s.switchCopy (w.chunks.getD p (0, 0)).1 (w.chunks.getD p (0, 0)).2).stepLane g lane p 0 := by
  simp only [State.commitState, State.commitDue_of_due up here waits now]

@[simp] theorem State.setSlot_slotAt_self (s : State) (g l : Nat) (v : Slot) : (s.setSlot g l v).slotAt g l = v := by
  simp [State.setSlot, State.slotAt]

@[simp] theorem State.setStr_slotAt (s : State) (n : Nat) (v : Stream) (g l : Nat) :
    (s.setStr n v).slotAt g l = s.slotAt g l := rfl

@[simp] theorem State.stepLane_str (s : State) (g lane p k n : Nat) : (s.stepLane g lane p k).str n = s.str n := rfl

/-- A commit step is a matter of the lane alone: slots stay as they are. -/
@[simp] theorem State.stepLane_slotAt (s : State) (g lane p k g' l : Nat) :
    (s.stepLane g lane p k).slotAt g' l = s.slotAt g' l := by
  by_cases h : g' = g
  · subst h; simp [State.stepLane, State.slotAt]
  · simp [State.stepLane, State.slotAt, State.setGrp_grp_of_ne s _ h]

/-- Step 1 of a commit: the other copy is committed, and the slot is no longer clean. -/
theorem State.switchCopy_of_slot {s : State} {n seq l : Nat} {c : Chunk} (slot : (s.str n).slot = some l)
    (chunk : s.chunkOf n seq = some c) :
    ((s.switchCopy n seq).slotAt (s.str n).home l).committed = !(s.slotAt (s.str n).home l).committed
      ∧ ((s.switchCopy n seq).slotAt (s.str n).home l).clean = false ∧ ((s.switchCopy n seq).str n).recSeq = seq := by
  simp [State.switchCopy, slot, chunk, Stream.freeInput]

section Commit

variable {s : State} {g lane p : Nat} {w : Lane} {c : Chunk} (up : s.groupUp g = true)
  (here : tget none (s.grp g).lanes lane = some w)
  (chunk : s.chunkOf (w.chunks.getD p (0, 0)).1 (w.chunks.getD p (0, 0)).2 = some c)

include up here chunk

theorem State.commitOutput_of_due (waits : (p, 1) ∈ w.commits)
    (now : s.clk g = w.ended + (commitAt 1 + commitPace * p : Nat)) :
    s.commitOutput g lane p =
      (s.deliverOutput (w.chunks.getD p (0, 0)).1 (w.chunks.getD p (0, 0)).2 c.first
        (s.memRead (s.stageAddr g (s.img w.image) lane p) (s.img w.image).outBytes)).stepLane g lane p 1 := by
  simp only [State.commitOutput, State.commitDue_of_due up here waits now, chunk]

theorem State.completionStamp_of_due (waits : (p, 2) ∈ w.commits)
    (now : s.clk g = w.ended + (commitAt 2 + commitPace * p : Nat)) :
    s.completionStamp g lane p =
      (((((s.countFlagged g c).completeChunk (w.chunks.getD p (0, 0)).1 c
        { status := stSuccess, stamp := s.clk g }).stepLane g lane p 2).requestSwaps g).progressRetirement g) := by
  simp only [State.completionStamp, State.commitDue_of_due up here waits now, chunk]

end Commit

/-- Settles O57, event by event. -/
theorem holdsAndCommits : Obligations.HoldsAndCommits := by
  intro s t g x up
  refine ⟨fun h r held run now tags => ?timeout, fun r run held now => ?scrub, fun q retries failed now => ?quiesce,
    fun lane p w here => ?commit⟩
  case timeout => exact congrArg Host.Outcome.next (State.holdTimeout_of_due up run held now tags)
  case scrub => exact congrArg Host.Outcome.next (State.scrubHoldEnd_of_due up run held now)
  case quiesce => exact congrArg Host.Outcome.next (State.quiesceEnd_of_due retries up failed now)
  case commit =>
    intro n seq
    refine ⟨fun l c waits now slot chunk => ⟨(x.switchCopy n seq).stepLane g lane p 0, congrArg Host.Outcome.next ?_, ?_⟩,
      fun c waits now chunk => ?_, fun c waits now chunk => ?_⟩
    · exact State.commitState_of_due up here waits now
    · rw [State.stepLane_slotAt, State.stepLane_str]
      exact State.switchCopy_of_slot slot chunk
    · exact congrArg Host.Outcome.next (State.commitOutput_of_due up here chunk waits now)
    · exact congrArg Host.Outcome.next (State.completionStamp_of_due up here chunk waits now)

end Sys2Proof.Machine
end

section
/-! PROOFS. Exports, moves, closes and imports (R187, R194 to R197, R251, R299), O52. -/

namespace Sys2Proof.Machine

/-! ### Exports (R187, R194) -/

/-- At memory level 8 the Comet engine's transfers are not served (R320). -/
theorem State.cometServed_eq_false {s : State} (m : s.power.m = 8) : s.cometServed = false := by
  simp [State.cometServed, m]

theorem State.cometServed_eq_true {s : State} (m : s.power.m ≠ 8) : s.cometServed = true := by
  simpa [State.cometServed] using m

theorem State.exportBegin_of_due {s : State} {n : Nat} {q : ExportReq} (asked : (s.str n).xport = some q)
    (waits : q.begun = false) (opened : (s.str n).st = .opened) (idle : (s.str n).busy = false)
    (still : s.inTransfer n = false) (comet : s.cometUnit = .enabled) (work : s.groupsWork = true) :
    s.exportBegin n =
      (s.unplan n).modStr n fun r => { r with st := .exporting, xport := some { q with begun := true } } := by
  simp [State.exportBegin, asked, waits, opened, idle, still, comet, work]

section ExportDone

variable {s y : State} {n : Nat} {q : ExportReq} {fault : TransferFault} {copy : List (Nat × Met)} {home : MemReads}
  {retries : WriteRetries}
  (asked : (s.str n).xport = some q) (exporting : (s.str n).st = .exporting) (still : s.inTransfer n = false)
  (work : s.groupsWork = true)

include asked in
theorem State.exportDone_unserved (m : s.power.m = 8) : s.exportDone n fault copy home retries = s := by
  simp [State.exportDone, asked, State.cometServed_eq_false m]

include exporting still work in
/-- What is under way can end, where the Comet engine serves it. -/
theorem State.exportDone_due (m : s.power.m ≠ 8) :
    ((s.str n).st == .exporting && !s.inTransfer n && s.groupsWork && s.cometServed) = true := by
  simp [exporting, still, work, State.cometServed_eq_true m]

include asked exporting still work

theorem State.exportDone_of_record {b : List Byte} {k : KeySlot} (m : s.power.m ≠ 8)
    (read : s.exportRead n fault copy home = (.ok b, y)) (key : s.keyAt q.keySlot = some k) :
    s.exportDone n fault copy home retries = (y.writeContainer n q k.key b).afterExport n q := by
  simp only [State.exportDone, asked, State.exportDone_due exporting still work m, read, key, if_true]

theorem State.exportDone_of_no_key {b : List Byte} (m : s.power.m ≠ 8)
    (read : s.exportRead n fault copy home = (.ok b, y)) (key : s.keyAt q.keySlot = none) :
    s.exportDone n fault copy home retries = (y.failExport n q stKeyInvalid).afterExport n q := by
  simp only [State.exportDone, asked, State.exportDone_due exporting still work m, read, key, if_true]

/-- A record that does not read in its slot is a record fault. -/
theorem State.exportDone_of_slot_unread {st l : Nat} (m : s.power.m ≠ 8)
    (read : s.exportRead n fault copy home = (.error st, y)) (slot : (s.str n).slot = some l) :
    s.exportDone n fault copy home retries =
      ((y.failExport n q st).recordFault n (y.slotAt (s.str n).home l).clean retries).afterExport n q := by
  simp only [State.exportDone, asked, State.exportDone_due exporting still work m, read, slot, if_true]

/-- After a record that does not read in its home the group's slots are asked for again. -/
theorem State.exportDone_of_home_unread {st : Nat} (m : s.power.m ≠ 8)
    (read : s.exportRead n fault copy home = (.error st, y)) (slot : (s.str n).slot = none) :
    s.exportDone n fault copy home retries =
      ((y.failExport n q st).requestSwaps (s.str n).home).afterExport n q := by
  simp only [State.exportDone, asked, State.exportDone_due exporting still work m, read, slot, if_true]

end ExportDone

/-! ### Moves (R26, R187) -/

section Move

variable {s : State} {n : Nat} {m : MoveReq} (asked : (s.str n).move = some m) (work : s.groupsWork = true)
  (opened : (s.str n).st = .opened) (waits : m.begun = false) (idle : (s.str n).chunks = [])
  (coming : s.comingIn n = false) (leave : s.canLeave n = true)

/-- The state in which a stream that begins to move has not left its slot yet. -/
def State.moveBegun (s : State) (n : Nat) (m : MoveReq) : State :=
  (s.setStr n { s.str n with st := .moving, move := some { m with begun := true } }).forgetSwaps (s.str n).home n

include asked work opened waits idle coming leave

theorem State.moveBegin_of_slot {l : Nat} (slot : (s.str n).slot = some l) :
    s.moveBegin n = ((((s.moveBegun n m).evict (s.str n).home l none).requestSwaps (s.str n).home).progressRetirement
      (s.str n).home).judgeAll := by
  simp [State.moveBegin, State.moveBegun, asked, opened, waits, idle, coming, leave, work, slot]

theorem State.moveBegin_of_home (slot : (s.str n).slot = none) :
    s.moveBegin n = ((((s.moveBegun n m).releaseSlots (s.str n).home n).requestSwaps (s.str n).home).progressRetirement
      (s.str n).home).judgeAll := by
  simp [State.moveBegin, State.moveBegun, asked, opened, waits, idle, coming, leave, work, slot]

end Move

/-! ### Imports (R196) -/

/-- The stream of an import that ends, before it is opened. -/
def State.importOver (s : State) (n : Nat) : State := s.setStr n { s.str n with imp := none }

/-- The group and ports that the import's parameters name are enabled then. -/
def State.importUp (s : State) (n : Nat) (p : ImportParams) : Bool :=
  (s.importOver n).homeUp p.home && (s.importOver n).bindUp p.source && (s.importOver n).bindUp p.sink

section Import

variable {s : State} {n : Nat} {q : ImportReq} {retries : WriteRetries} (asked : (s.str n).imp = some q)

include asked

theorem State.importDone_unserved (m : s.power.m = 8) : s.importDone n retries = s := by
  simp [State.importDone, asked, State.cometServed_eq_false m]

variable (work : s.groupsWork = true) (m : s.power.m ≠ 8)

include work m

theorem State.importDone_of_down (down : s.importUp n q.params = false) :
    s.importDone n retries = ((s.importOver n).failCmd q.cmd stDisabled).wakeKey q.params.keySlot := by
  simp only [State.importUp, State.importOver] at down
  simp [State.importDone, State.importOver, asked, work, State.cometServed_eq_true m, down]

variable (up : s.importUp n q.params = true) (fits : (s.importOver n).importFits q = true)

include up fits

/-- No group has room for the stream. -/
theorem State.importDone_of_full
    (full : (s.importOver n).admitHome ⟨q.image, clsOf q.params.cls, rateHz q.rate, q.chunkSamples⟩ q.params.home = none) :
    s.importDone n retries = ((s.importOver n).failCmd q.cmd stNoCapacity).wakeKey q.params.keySlot := by
  simp only [State.importUp, State.importOver] at up fits full
  simp [State.importDone, State.importOver, asked, work, State.cometServed_eq_true m, up, fits, full]

theorem State.importDone_of_room {g : Nat}
    (room : (s.importOver n).admitHome ⟨q.image, clsOf q.params.cls, rateHz q.rate, q.chunkSamples⟩ q.params.home = some g) :
    s.importDone n retries = ((s.importOver n).openImport n q g retries).wakeKey q.params.keySlot := by
  simp only [State.importUp, State.importOver] at up fits room
  simp [State.importDone, State.importOver, asked, work, State.cometServed_eq_true m, up, fits, room]

end Import

/-- Settles O52, event by event. -/
theorem transferEvents : Obligations.TransferEvents := by
  intro s t n x r
  refine ⟨fun q asked waits opened idle still comet work => ?exportBegin,
    fun q fault copy home retries asked exporting still work => ?exportDone,
    fun m asked opened waits idle coming leave work => ?moveBegin,
    fun m asked moving begun slot still work => ?moveEnd,
    fun closing quiet asked still up => ?closed, fun q retries asked work => ?importDone⟩
  case exportBegin =>
    exact congrArg Host.Outcome.next (State.exportBegin_of_due asked waits opened idle still comet work)
  case exportDone =>
    intro read
    refine ⟨fun m => congrArg Host.Outcome.next (State.exportDone_unserved asked m), fun m => ⟨?_, ?_, ?_⟩⟩
    · intro b k ok key
      exact congrArg Host.Outcome.next (State.exportDone_of_record asked exporting still work m (Prod.ext ok rfl) key)
    · intro b ok key
      exact congrArg Host.Outcome.next (State.exportDone_of_no_key asked exporting still work m (Prod.ext ok rfl) key)
    · intro st failed
      refine congrArg Host.Outcome.next ?_
      cases slot : r.slot with
      | some l => exact State.exportDone_of_slot_unread asked exporting still work m (Prod.ext failed rfl) slot
      | none => exact State.exportDone_of_home_unread asked exporting still work m (Prod.ext failed rfl) slot
  case moveBegin =>
    intro g z
    refine congrArg Host.Outcome.next ?_
    cases slot : r.slot with
    | some l => exact State.moveBegin_of_slot asked work opened waits idle coming leave slot
    | none => exact State.moveBegin_of_home asked work opened waits idle coming leave slot
  case moveEnd =>
    intro y pin z
    have due : (r.st == .moving && m.begun && r.slot.isNone && !x.inTransfer n && x.groupsWork) = true := by
      rw [moving, begun, slot, still, work]; rfl
    refine congrArg Host.Outcome.next ?_
    simp only [State.moveEnd, show (State.str (s.advance t) n).move = some m from asked]
    exact if_pos due
  case closed =>
    have due : (x.closeDue n && x.firmwareUp) = true := by
      rw [up, Bool.and_true]
      change (r.st == .closing && !r.outstanding && r.xport.isNone && !x.inTransfer n) = true
      rw [closing, quiet, asked, still]; rfl
    exact congrArg Host.Outcome.next (if_pos due)
  case importDone =>
    intro p y up home
    refine ⟨fun m => congrArg Host.Outcome.next (State.importDone_unserved asked m), fun m =>
      ⟨fun down => ?_, fun enabled fits => ⟨fun full => ?_, fun g room => ?_⟩⟩⟩ <;> refine congrArg Host.Outcome.next ?_
    · exact State.importDone_of_down asked work m down
    · exact State.importDone_of_full asked work m enabled fits full
    · exact State.importDone_of_room asked work m enabled fits room

end Sys2Proof.Machine
end

section
/-! PROOFS. Rounds, Almanac slots, readiness notices and gaps (R22, R42, R46, R47, R339), O50. -/

namespace Sys2Proof.Machine

/-! ### The Almanac slot's end (R47, R339, R342) -/

/-- The pass of a device set has its signature in flash, so its test passes just where that is what its rows give. -/
theorem State.testPassed_devicePass {n : Nat} (s : State) (x : TestResult) (hn : n < 9) :
    s.testPassed (.pass n) x = true ↔ x.disagreed = false ∧ x.uncorrectable = false ∧ x.heldOut = false
      ∧ Config.passSignature n = BitVec.ofNat 32 (crc32c (x.rows.flatMap rowBytes)) := by
  have expected : s.signatureOf n = some (Config.passSignature n) := by simp [State.signatureOf, imagePassOf, hn]
  simp [State.testPassed, expected, testSignature, and_assoc]

/-! ### Readiness notices (R26, R29, R362) -/

/-- What the notice measures of a port leaves the stream's chunks and held notices. -/
theorem State.noteWrite_str (s : State) (n : Nat) :
    ((s.noteWrite n).str n).heldNotices = (s.str n).heldNotices ∧ ((s.noteWrite n).str n).chunks = (s.str n).chunks := by
  unfold State.noteWrite
  dsimp only
  split
  · simp [State.countMax]
  · exact ⟨rfl, rfl⟩

section Notice

variable {s : State} {n : Nat} (used : (s.str n).st ≠ .closed)
  (waits : (s.str n).heldNotices.length < (s.str n).unstamped) (work : s.groupsWork = true)

include used waits work

theorem State.notice_taken :
    ((s.str n).st == .closed || decide ((s.str n).unstamped ≤ (s.str n).heldNotices.length) || !s.groupsWork) = false := by
  simp [used, work, waits]

theorem State.notice_of_held (held : (s.str n).st = .moving ∨ (s.grp (s.str n).home).running = false) :
    s.notice n = (s.noteWrite n).modStr n fun r => { r with heldNotices := r.heldNotices ++ [s.now] } := by
  have c : ((s.str n).st == .moving || !(s.grp (s.str n).home).running) = true := by
    rcases held with h | h <;> simp [h]
  simp only [State.notice, State.notice_taken used waits work, c]
  rfl

theorem State.notice_of_running (still : (s.str n).st ≠ .moving) (runs : (s.grp (s.str n).home).running = true) :
    s.notice n = (s.noteWrite n).stampChunk n (s.clk (s.str n).home) := by
  have c : ((s.str n).st == .moving || !(s.grp (s.str n).home).running) = false := by simp [still, runs]
  simp only [State.notice, State.notice_taken used waits work, c]
  rfl

end Notice

/-- Settles O50, event by event. -/
theorem roundsAndSlots : Obligations.RoundsAndSlots := by
  intro s t g
  refine ⟨?round, fun a test result held mapReads => ?slot, fun n => ?notice, fun w => ?gap⟩
  case round =>
    intro x x1 y z due
    exact congrArg Host.Outcome.next (if_neg (by rw [due]; decide))
  case slot =>
    intro x start running up now out
    refine ⟨?_, fun n hn set => ?_⟩
    · have due : (x.groupUp g && decide (x.clk g = a + almanacCycles + held)
          && (!result.heldOut || decide (4097 ≤ held))) = true := by
        cases h : result.heldOut <;> simp [up, now, almanacCycles, out, h]
      refine congrArg Host.Outcome.next ?_
      simp only [State.almanacEnd, show (State.grp (s.advance t) g).almStart = some a from start,
        show (State.grp (s.advance t) g).almTest = some test from running]
      exact if_pos due
    · rw [set]
      exact State.testPassed_devicePass _ result hn
  case notice =>
    intro x r used waits work
    refine ⟨fun held => ⟨x.notice n, rfl, ?_⟩, fun still runs => ?_⟩
    · rw [State.notice_of_held used waits work held]
      obtain ⟨notices, chunks⟩ := State.noteWrite_str x n
      rw [State.modStr_eq, State.setStr_str_self, notices, chunks]
      exact ⟨rfl, rfl⟩
    · exact congrArg Host.Outcome.next (State.notice_of_running used waits work still runs)
  case gap =>
    intro x gap up now
    have due : (x.groupUp g && decide (x.clk g = w.ends)) = true := by rw [up, now]; simp
    refine congrArg Host.Outcome.next ?_
    simp only [State.gapEnd, show (State.grp (s.advance t) g).gap = some w from gap]
    exact if_pos due

end Sys2Proof.Machine
end

section
/-! PROOFS. The ends of swap-ins and swap-outs (R54, R183, R185, R186, R320), O51. -/

namespace Sys2Proof.Machine

/-- With no codec's detector armed a transfer meets none (R368). -/
theorem State.fireCodec_of_unarmed {s : State}
    (h : ((List.range 48).all fun k => (s.armedAt (devDetector k)).isNone) = true) : s.fireCodec = (none, s) := by
  have none : ((List.range 48).find? fun k => (s.armedAt (devDetector k)).isSome) = none := by simpa using h
  simp only [State.fireCodec, none]

/-- What follows a swap of slot `l` that is over: its hold ends, and what waited for it goes on. -/
def State.afterSwap (s : State) (g l : Nat) (clk : Int) : State :=
  (((s.dropHold g (.swap l) clk).requestSwaps g).progressRetirement g).judgeAll

section SwapIn

variable {s z : State} {g l n : Nat} {w : Swap} {fault : TransferFault} {reads : MemReads} {retries : WriteRetries}
  {lost : Bool}
  (swap : (s.grp g).swaps.find? (fun v => v.slot == l && v.out.isNone) = some w) (into : w.inFor = some n)

include swap into

theorem State.swapInDone_unserved (m : s.power.m = 8) : s.swapInDone g l fault reads retries = s := by
  simp only [State.swapInDone, swap, into]
  exact if_pos (by simp [m])

variable (up : s.groupUp g = true) (m : s.power.m ≠ 8)
  (unarmed : ((List.range 48).all fun k => (s.armedAt (devDetector k)).isNone) = true)
  (rows : s.homeReads n reads = (z, lost))

include up m unarmed rows

/-- The record reads: it comes into the slot (R186). -/
theorem State.swapInDone_of_record {b : List Byte} (sound : fault = .none) (whole : lost = false)
    (read : z.readHome n = .ok b) :
    s.swapInDone g l fault reads retries = ((z.dropSwap g l).fillSlot g l n b).afterSwap g l (z.clk g) := by
  subst sound whole
  simp [State.swapInDone, swap, into, up, m, State.fireCodec_of_unarmed unarmed, rows, read, State.afterSwap]

/-- A record that is lost, fails or does not check is asked for once more, and then is a record fault (R183). -/
theorem State.swapInDone_of_wrong (wrong : ∀ b, fault = .none → lost = false → z.readHome n = .ok b → False) :
    s.swapInDone g l fault reads retries =
      (let y := z.stateBlockFailed g (z.readWrong n fault)
      if w.second then
        (((y.dropSwap g l).modStr n fun r => r.swapWaited (y.clk g)).recordFault n false retries).afterSwap g l (y.clk g)
      else y.modGrp g fun G =>
        { G with swaps := G.swaps.map fun v => if v.slot = l then { v with second := true } else v }) := by
  have go : (!s.groupUp g || decide (s.power.m = 8)) = false := by simp [up, m]
  simp only [State.swapInDone, swap, into, State.fireCodec_of_unarmed unarmed, rows, go]
  cases fault with
  | block _ | unreadable => cases w.second <;> simp [State.afterSwap]
  | none =>
    cases lost with
    | true => cases w.second <;> simp [State.afterSwap]
    | false =>
      cases read : z.readHome n with
      | ok b => exact (wrong b rfl rfl read).elim
      | error st => cases w.second <;> simp [State.afterSwap]

end SwapIn

section SwapOut

variable {s z : State} {g l : Nat} {w : Swap} {reads : List (Nat × Met)} {acked lost : Bool} {retries : WriteRetries}
  (swap : (s.grp g).swaps.find? (fun v => v.slot == l && v.out.isSome) = some w)

include swap

theorem State.swapOutDone_unserved (m : s.power.m = 8) : s.swapOutDone g l reads acked retries = s := by
  simp only [State.swapOutDone, swap]
  exact if_pos (by simp [m])

variable (up : s.groupUp g = true) (m : s.power.m ≠ 8)
  (rows : s.copyReads g l (b2n (s.slotAt g l).committed) reads = (z, lost))

include up m rows

/-- A copy that cannot be read is a record fault (R183). -/
theorem State.swapOutDone_of_lost (bad : lost = true) :
    s.swapOutDone g l reads acked retries =
      (((z.dropSwap g l).passSlot g l w.inFor).recordFault (w.out.getD 0) false retries).afterSwap g l (z.clk g) := by
  simp [State.swapOutDone, swap, up, m, rows, bad, State.afterSwap]

/-- A write that is not acknowledged leaves the swap-out going on. -/
theorem State.swapOutDone_of_unacked (good : lost = false) (waits : acked = false) :
    s.swapOutDone g l reads acked retries = z := by
  simp [State.swapOutDone, swap, up, m, rows, good, waits]

/-- The committed copy is at the stream's home, and the slot passes on (R186). -/
theorem State.swapOutDone_of_acked (good : lost = false) (ends : acked = true)
    (reached : (s.str (w.out.getD 0)).spilled = false ∨ z.hif.linkUp = true) :
    s.swapOutDone g l reads acked retries =
      (let n := w.out.getD 0
      let y := z.writeHome n (z.readCopy g l (b2n (s.slotAt g l).committed) (z.img (s.str n).image).recordRows) retries
      ((((y.count (grpSwapOuts g) 1).count (grpSpillSwaps g) (b2n (s.str n).spilled)).dropSwap g l).passSlot g l
        w.inFor).afterSwap g l (z.clk g)) := by
  have kept : ((s.str (w.out.getD 0)).spilled && !z.hif.linkUp) = false := by
    rcases reached with h | h <;> simp [h]
  simp [State.swapOutDone, swap, up, m, rows, good, ends, kept, State.afterSwap]

end SwapOut

/-- Settles O51, for each outcome of a swap-in and of a swap-out. -/
theorem swapEnds : Obligations.SwapEnds := by
  intro s t g l x up goOn
  refine ⟨fun w n swap into fault reads retries => ?swapIn, fun w swap => ?swapOut⟩
  case swapIn =>
    refine ⟨fun m => congrArg Host.Outcome.next (State.swapInDone_unserved swap into m), fun m unarmed => ?_⟩
    refine congrArg Host.Outcome.next ?_
    split
    case h_1 b whole read => exact State.swapInDone_of_record swap into up m unarmed rfl rfl whole read
    case h_2 wrong => exact State.swapInDone_of_wrong swap into up m unarmed rfl wrong
  case swapOut =>
    intro n k reads acked retries z lost
    refine ⟨fun m => congrArg Host.Outcome.next (State.swapOutDone_unserved swap m),
      fun m => ⟨fun good ends reached => ?_, fun good waits => ?_, fun bad => ?_⟩⟩ <;>
      refine congrArg Host.Outcome.next ?_
    · exact State.swapOutDone_of_acked swap up m rfl good ends reached
    · exact State.swapOutDone_of_unacked swap up m rfl good waits
    · exact State.swapOutDone_of_lost swap up m rfl bad

end Sys2Proof.Machine
end

section
/-! PROOFS. The stream commands (R301, Table 13-7), O18: what STREAM_INPUT leaves in the ring. -/

namespace Sys2Proof.Machine

open Sys2Proof.Safety

@[simp] theorem State.finish_str (s : State) (id status : Nat) (result : List Byte) (n : Nat) :
    (s.finish id status result).str n = s.str n := by
  have streams : (s.finish id status result).streams = s.streams :=
    (keeps_finish (Sub.refl _) (.rfl (s := s)) id status result).same .streams rfl
  rw [State.str, State.str, streams]

@[simp] theorem State.putRing_str (s : State) (n first count m : Nat) :
    (s.putRing n first count).str m = s.str m := by
  have streams : (s.putRing n first count).streams = s.streams :=
    (keeps_putRing (Sub.refl _) (.rfl (s := s)) n first count).same .streams rfl
  rw [State.str, State.str, streams]

/-- STREAM_INPUT of samples that the stream takes puts them in at the input index (R301): they replace what an Equinox
frame 0 has given up there (R264). -/
theorem effStreamInput_samples {s : State} {n first count : Nat} {l : List Byte} (i : Inflight)
    (taken : (s.str n).st = .opened ∨ (s.str n).st = .exporting) (link : s.hif.linkUp = true)
    (room : (s.str n).inputRefusal first count = none) :
    let w := if bindSfmt (s.str n).source then 4 else 2
    ((effStreamInput n first count (some l) i s).str n).samples =
      ((s.str n).putSamples (samplesOf w count (pad (w * count) l))).samples := by
  intro w
  have data (k : Nat) : s.hostData (some l) k = some (pad k l) := if_pos link
  rcases taken with st | st <;> simp [effStreamInput, st, room, data, w]

theorem exec_streamInput_samples {s y : State} {t n first count addr : Nat} {h : Hdr} {l : List Byte}
    (k : executes s t h (infoStreamInput n first count addr) = true)
    (answer : exec (.streamInput t h n first count addr (some l)) s = .next y) :
    let x := begun s t h (.streamInput t h n first count addr (some l)) (infoStreamInput n first count addr)
    let w := if bindSfmt (x.str n).source then 4 else 2
    ((x.str n).st = .opened ∨ (x.str n).st = .exporting) → x.hif.linkUp = true →
      (x.str n).inputRefusal first count = none →
      (y.str n).samples = ((x.str n).putSamples (samplesOf w count (pad (w * count) l))).samples := by
  intro x w taken link room
  rw [exec_of_executes (eff := effStreamInput n first count (some l)) rfl k] at answer
  rw [← Host.Outcome.next.inj answer]
  exact effStreamInput_samples _ taken link room

/-- A host-fed stream, the last sample of whose ring is given up. -/
def rewoundStream : Stream :=
  { st := .opened, chunkSamples := 96, source := 0x20000000#32, samples := [0], redo := 1 }

/-- A device that is ready, with the sideband as owner, the link up, and that stream as stream 5. -/
def rewoundState : State := { State.reset with
  life := { phase := .ready, ready := true, vin48 := true, vstby := true, refclk := true, rootLocked := true }
  owner := { owner := 1, role := true, leaseEnd := 1250000000 }
  hif := { linkUp := true }
  streams := [(5, rewoundStream)] }

/-- The sideband's STREAM_INPUT of one sample at the input index of stream 5. -/
def oneSampleHdr : Hdr :=
  { master := .sideband, ring := 0, msgTag := 0, entry := encodeEntry 0x0216 0 false (infoStreamInput 5 0 1 0).fields }

theorem executes_oneSample : executes rewoundState 0 oneSampleHdr (infoStreamInput 5 0 1 0) = true := by decide +kernel

/-- The command takes effect on the stream as it stands: OPEN, and with room for the sample. -/
theorem begun_oneSample :
    let x := begun rewoundState 0 oneSampleHdr (.streamInput 0 oneSampleHdr 5 0 1 0 (some [])) (infoStreamInput 5 0 1 0)
    x.str 5 = rewoundStream ∧ (x.str 5).st = .opened ∧ (x.str 5).inputRefusal 0 1 = none ∧ x.hif.linkUp = true := by
  decide +kernel

/-- Refutes O18: where the last `redo` samples of the ring are given up, the samples that STREAM_INPUT brings replace them,
and are not appended to all that the ring holds. In the model's operations `Stream.rewind` alone raises `redo`, at frame 0 of
an Equinox fire, but the statement speaks of every state and does not ask that `redo` be 0: in a ring of one sample, given
up, a sample of value 0 leaves one sample and not two. -/
theorem not_streamCommandsAct : ¬ Obligations.StreamCommandsAct := by
  intro all
  obtain ⟨-, -, -, -, -, input, -⟩ := all rewoundState 0 oneSampleHdr
  obtain ⟨stream, opened, room, link⟩ := begun_oneSample
  obtain ⟨z, answer, appended⟩ := input 5 0 1 0 [] executes_oneSample (.inl opened) link room
  have replaced := exec_streamInput_samples executes_oneSample answer (.inl opened) link room
  rw [State.finish_str, appended, stream] at replaced
  exact absurd replaced (by decide)

end Sys2Proof.Machine
end

section
/-! PROOFS. What a command leaves unchanged (95_what_each_step_holds.md), O6. -/

namespace Sys2Proof.Machine

open Sys2Proof.Safety

/-! ### O6 -/

/-- Settles O6: what time changes by itself lies in `advanceParts`, and from the command's time on each operation keeps
to its footprint; a part in neither is as it was before the command. -/
theorem frameOfEveryCommand : Obligations.FrameOfEveryCommand := by
  refine ⟨fun s t p out => same_advance out s t, fun c s s' p answer out => ?_⟩
  have frame : p.same (s.advance s'.now) s' := exec_outside answer out
  exact ⟨frame, fun still => same_trans (same_advance still s s'.now) frame⟩

end Sys2Proof.Machine
end

section
/-! PROOFS. The image commands (R60, R75, R228, R343, R386): O20 and O21. -/

namespace Sys2Proof.Machine

open Sys2Proof.Safety

/-! ### The image after its Almanac table (R343) -/

theorem State.img_congr {s s' : State} (h : s'.images = s.images) (n : Nat) : s'.img n = s.img n := by
  rw [State.img, State.img, h]

@[simp] theorem State.logEvent_img (s : State) (code unit cluster status : Nat) (data : List Byte) (n : Nat) :
    (s.logEvent code unit cluster status data).img n = s.img n :=
  State.img_congr ((keeps_logEvent (Sub.refl _) (.rfl (s := s)) code unit cluster status data).same .images rfl) n

/-- An entry of the Almanac table changes no other property of the image that brings it. -/
theorem State.joinAlm_img (s : State) (h i : Nat) (l : List Byte) :
    ∃ alm, (s.joinAlm h i l).img h = { s.img h with alm } := by
  unfold State.joinAlm
  dsimp only
  split
  · exact ⟨_, State.setImg_img_self ..⟩
  · exact ⟨_, (State.logEvent_img ..).trans (State.setImg_img_self ..)⟩

theorem State.joinAlms_img (h : Nat) (entries : List (List Byte)) (l : List Nat) (s : State) :
    ∃ alm, (l.foldl (fun s i => s.joinAlm h i (entries.getD i [])) s).img h = { s.img h with alm } := by
  induction l generalizing s with
  | nil => exact ⟨_, rfl⟩
  | cons i r ih =>
    obtain ⟨_, first⟩ := s.joinAlm_img h i (entries.getD i [])
    obtain ⟨alm, others⟩ := ih (s.joinAlm h i (entries.getD i []))
    exact ⟨alm, by rw [List.foldl_cons, others, first]⟩

theorem State.loadAlmanac_img (s : State) (h : Nat) (hdr : List Byte) :
    ∃ alm, (s.loadAlmanac h hdr).img h = { s.img h with alm } :=
  State.joinAlms_img h _ _ s

@[simp] theorem State.loadAlmanac_nearAlloc (s : State) (h : Nat) (hdr : List Byte) :
    (s.loadAlmanac h hdr).nearAlloc = s.nearAlloc :=
  (keeps_loadAlmanac (Sub.refl _) (.rfl (s := s)) h hdr).same .nearAlloc rfl

@[simp] theorem State.loadAlmanac_farAlloc (s : State) (h : Nat) (hdr : List Byte) :
    (s.loadAlmanac h hdr).farAlloc = s.farAlloc :=
  (keeps_loadAlmanac (Sub.refl _) (.rfl (s := s)) h hdr).same .farAlloc rfl

/-! ### IMAGE_LOAD (R60, R228, R343) -/

@[simp] theorem State.writeImage_nearAlloc (s : State) (m : Image) (body : List Byte) (retries : WriteRetries) :
    (s.writeImage m body retries).nearAlloc = s.nearAlloc :=
  (keeps_writeImage (Sub.refl _) (.rfl (s := s)) m body retries).same .nearAlloc rfl

@[simp] theorem State.writeImage_farAlloc (s : State) (m : Image) (body : List Byte) (retries : WriteRetries) :
    (s.writeImage m body retries).farAlloc = s.farAlloc :=
  (keeps_writeImage (Sub.refl _) (.rfl (s := s)) m body retries).same .farAlloc rfl

/-- The device with image `v` under handle `k`, and its extents allocated. -/
def State.holding (x : State) (k : Nat) (v : Image) : State :=
  { x.setImg k v with nearAlloc := x.nearAlloc ++ [v.nearRange], farAlloc := x.farAlloc ++ [v.farRange] }

@[simp] theorem State.holding_img_self (x : State) (k : Nat) (v : Image) : (x.holding k v).img k = v :=
  x.setImg_img_self k v

/-- An admitted image whose checks pass is held with its Almanac passes; else nothing of it stays. -/
theorem State.admitImage_eq (s : State) (k id : Nat) (m : Image) (p : List Byte) (retries : WriteRetries) :
    let x := s.writeImage m (pkgBody p) retries
    let hdr := x.imageBytes m 0 0 256
    let y := x.parseImage m hdr
    s.admitImage k m p retries id =
      if x.loadChecks y hdr = 0 then
        ((x.holding k { y with loaded := true, digest := pkgDigest p }).loadAlmanac k hdr).finish id stSuccess
          (resultOf [(12, leBytes 1 k)])
      else s.failCmd id (x.loadChecks y hdr) := by
  intro x hdr y
  unfold State.admitImage
  dsimp only
  split
  next pass => exact (if_pos pass).symm
  next fail => exact (if_neg fail).symm

/-! ### O21 -/

/-- Settles O21: of the loaded image only its Almanac entries come later, and they take no extents. -/
theorem admittedImageIsLoaded : Obligations.AdmittedImageIsLoaded := by
  intro s k id m p retries x hdr y
  let held := x.holding k { y with loaded := true, digest := pkgDigest p }
  obtain ⟨alm, image⟩ := held.loadAlmanac_img k hdr
  rw [State.holding_img_self] at image
  have near : (held.loadAlmanac k hdr).nearAlloc = s.nearAlloc ++ [y.nearRange] := by
    rw [State.loadAlmanac_nearAlloc, ← s.writeImage_nearAlloc m (pkgBody p) retries]
    rfl
  have far : (held.loadAlmanac k hdr).farAlloc = s.farAlloc ++ [y.farRange] := by
    rw [State.loadAlmanac_farAlloc, ← s.writeImage_farAlloc m (pkgBody p) retries]
    rfl
  exact ⟨held.loadAlmanac k hdr, s.admitImage_eq k id m p retries, by rw [image], by rw [image], near, far⟩

/-! ### IMAGE_UNLOAD -/

@[simp] theorem State.dropPasses_img (s : State) (h g n : Nat) : (s.dropPasses h g).img n = s.img n :=
  State.img_congr ((keeps_dropPasses (Sub.refl _) (.rfl (s := s)) h g).same .images rfl) n

/-- The handle of a removed image is free. -/
theorem State.removeImage_img_self (s : State) (h : Nat) : (s.removeImage h).img h = {} := by
  have drops (l : List Nat) (x : State) : (l.foldl (fun s g => s.dropPasses h g) x).img h = x.img h := by
    induction l generalizing x with
    | nil => rfl
    | cons g r ih => rw [List.foldl_cons, ih, State.dropPasses_img]
  exact (drops _ _).trans (State.setImg_img_self ..)

theorem effImageUnload_of_free {s : State} {n : Nat} (i : Inflight) (loaded : (s.img n).loaded = true)
    (free : s.imageBusy n = false) : effImageUnload n i s = (s.removeImage n).finish i.id stSuccess [] := by
  rw [effImageUnload, if_neg (by simp [loaded]), if_neg (by simp [free])]

/-! ### O20 -/

theorem State.hostData_of_link {s : State} (l : List Byte) (n : Nat) (link : s.hif.linkUp = true) :
    s.hostData (some l) n = some (pad n l) := if_pos link

/-- Below memory level 8, with data, a handle and room, the signature decides (R320, R374, R375). -/
theorem effImageLoad_of_room {s : State} {len k : Nat} {l : List Byte} {m : Image} (retries : WriteRetries)
    (i : Inflight) (level : s.power.m ≠ 8) (link : s.hif.linkUp = true) (handle : s.freeHandle = some k)
    (place : s.placeImage (pkgBody (pad len l)) = some m) :
    effImageLoad len (some l) retries i s =
      if s.keyEnrolled = false then s.failCmd i.id stKeyInvalid
      else if s.imageSigned (pad len l) = false then s.failCmd i.id stSignature
      else s.admitImage k m (pad len l) retries i.id := by
  rw [effImageLoad, if_neg level, State.hostData_of_link l len link]
  simp only [handle, place, Bool.not_eq_true']

/-- Below memory level 8, with data for a loaded image, the signature and the digest decide (R320, R374, R386). -/
theorem effImageReload_of_loaded {s : State} {n len : Nat} {l : List Byte} (retries : WriteRetries) (i : Inflight)
    (level : s.power.m ≠ 8) (loaded : (s.img n).loaded = true) (link : s.hif.linkUp = true) :
    effImageReload n len (some l) retries i s =
      if s.keyEnrolled = false then s.failCmd i.id stKeyInvalid
      else if s.imageSigned (pad len l) = false then s.failCmd i.id stSignature
      else if pkgDigest (pad len l) ≠ (s.img n).digest then s.failCmd i.id stImageInvalid
      else ((s.writeImage (s.img n) (pkgBody (pad len l)) retries).setImg n
        { s.img n with restore := (s.img n).retiredGroups }).finish i.id stSuccess [] := by
  rw [effImageReload, if_neg level, if_neg (by simp [loaded]), State.hostData_of_link l len link]
  simp only [Bool.not_eq_true']

/-- Settles O20: each command's own effect, on the state in which it has begun. -/
theorem imageCommandsAct : Obligations.ImageCommandsAct := by
  intro s t h
  refine ⟨?_, ?_, ?_, ?_, ?_⟩
  · intro addr len data retries k x level
    rw [exec_of_executes (eff := effImageLoad len data retries) rfl k]
    exact congrArg _ (if_pos level)
  · intro addr len l retries n m k x p level link handle place
    rw [exec_of_executes (eff := effImageLoad len (some l) retries) rfl k,
      effImageLoad_of_room retries _ level link handle place, entryOf_id]
  · intro n k x loaded free
    refine ⟨x.removeImage n, ?_, x.removeImage_img_self n⟩
    rw [exec_of_executes (eff := effImageUnload n) rfl k, effImageUnload_of_free _ loaded free, entryOf_id]
  · intro n addr len data retries k x level
    rw [exec_of_executes (eff := effImageReload n len data retries) rfl k]
    exact congrArg _ (if_pos level)
  · intro n addr len l retries k x p m level loaded link
    rw [exec_of_executes (eff := effImageReload n len (some l) retries) rfl k,
      effImageReload_of_loaded retries _ level loaded link, entryOf_id]

end Sys2Proof.Machine
end

section
/-! PROOFS. Control words and the words that write stream registers (R67, R109, R133, R135, R149, Table 5-4), O58. -/

namespace Sys2Proof.Machine

open Sys2Proof.Safety

/-! ### Faults of an engine without an armed detector -/

@[simp] theorem State.addDue_armedAt (s : State) (g : Nat) (d : Due) (n : Nat) :
    (s.addDue g d).armedAt n = s.armedAt n := rfl

/-- Where its detector is not armed an engine fails the run on a fault alone. -/
theorem State.engineFault_eq {s : State} {g det : Nat} (h : s.armedAt (grpDetector g det) = none) (p v : Nat)
    (bad : Bool) :
    s.engineFault g p det v bad =
      if bad then s.addDue g { sched := v, kind := .fail stSeqFault, phys := p } else s := by
  cases bad with
  | false => exact State.engineFault_none h
  | true => simp [State.engineFault, State.fireArmed_none, h, stSeqFault]

/-! ### O58 -/

theorem State.loopWord_of_due {s : State} {g c p : Nat} {w : MWord} (h : s.wordDue g c unitControl 2 = some (p, w)) :
    s.loopWord g c = s.modClu g p fun k => k.passWord w (s.schedNow g) (loopOf w k.word :: k.loops) := by
  simp only [State.loopWord, h]

/-- Settles O58: a word that is due acts on the state in which its cluster has passed it. -/
theorem controlWords : Obligations.ControlWords := by
  intro s t g c p w x v passed judged wrote
  refine ⟨fun due => ?nop, fun due => ?wait, fun due => ?loop, fun due => ?halt, fun clear => ?registers⟩
  case nop | wait | halt => exact congrArg _ (State.onWord_of_due due)
  case loop => exact congrArg _ (State.loopWord_of_due due)
  case registers =>
    have clear : passed.armedAt (grpDetector g detVector) = none := armedAt_of_unarmed clear (List.mem_singleton.2 rfl)
    refine ⟨fun due => congrArg _ ((State.onWord_of_due due).trans ?_),
      fun due => congrArg _ ((State.onWord_of_due due).trans ?_)⟩
    · rw [State.engineFault_eq clear]
      rfl
    · rw [State.engineFault_eq clear]
      rfl

end Sys2Proof.Machine
end

section
/-! PROOFS. Segments, START, BARRIER and END (R64 to R67, R72, R154, Table 3-4), O54. -/

namespace Sys2Proof.Machine

open Sys2Proof.Safety

/-! ### Guards whose detector is not armed (R66, R67, R368) -/

section Guard

variable {s : State} {g det status : Nat} {bad : Bool}

theorem State.guardFail_of_good (clear : unarmed s g [det] = true) (good : bad = false) :
    s.guardFail g det bad status = none := by
  rw [State.guardFail_none (armedAt_of_unarmed clear (List.mem_singleton.2 rfl)), good]
  rfl

theorem State.guardFail_of_bad (h : bad = true) : s.guardFail g det bad status = some (s.failIssue g status false) :=
  if_pos h

end Guard

/-! ### Sequencer actions that are due -/

section Due

variable {s : State} {g : Nat} {r : RunInfo} {a : Action}

theorem State.loadSeg_of_idle (due : s.actionDue g 0x01 = some (r, a))
    (clear : unarmed (s.passEntry g) g [detHalf] = true)
    (idle : ∀ p ∈ (s.passEntry g).physOf g a.clmask,
      ((s.passEntry g).clu g p).haltIssued = true ∨ ((s.passEntry g).clu g p).half ≠ a.field 16 1) :
    let y := s.passEntry g
    s.loadSeg g = y.modRun g fun r' => { r' with segs := r'.segs ++
      [{ segment := a.field 0 16, half := a.field 16 1, clmask := a.clmask
         arrives := a.at_ + (y.segmentOf g (y.img r.run.image) (a.field 0 16)).2 + 16 }] } := by
  intro y
  have unused : ((y.physOf g a.clmask).any fun p =>
      !(y.clu g p).haltIssued && (y.clu g p).half == a.field 16 1) = false := by
    refine List.any_eq_false.2 fun p hp => ?_
    rcases idle p hp with halted | other
    · simp [y, halted]
    · simp [y, other]
  rw [State.loadSeg, State.onAction_of_due due]
  dsimp only
  rw [State.guardFail_of_good clear unused]

/-- The bytes of segment `i` of an image. -/
def State.segmentBytes (s : State) (g : Nat) (m : Image) (i : Nat) : List Byte :=
  s.imageSlice m g (64 * (s.segmentOf g m i).1) (64 * (s.segmentOf g m i).2)

/-- The CRC-32C that follows segment `i` is not that of its bytes (R66). -/
def State.segmentBroken (s : State) (g : Nat) (m : Image) (i : Nat) : Bool :=
  crc32c (s.segmentBytes g m i) !=
    field (s.imageSlice m g (64 * ((s.segmentOf g m i).1 + (s.segmentOf g m i).2)) 4) 0 4

/-- The words of a segment written in the clusters that it was loaded for. -/
def State.loadedWith (s : State) (g : Nat) (w : SegLoad) (bytes : List Byte) : State :=
  (s.physOf g w.clmask).foldl
    (fun s p => s.modClu g p fun c => c.loadWords w.half ((pieces 8 1024 bytes).map leNat)) s

theorem State.segmentArrival_of_due {w : SegLoad} (cur : (s.grp g).cur = some r)
    (due : r.segs.find? (fun v => v.arrives == s.schedNow g) = some w) (issue : s.canIssue g = true) :
    let z := s.modRun g fun r => { r with segs := r.segs.erase w }
    s.segmentArrival g false =
      (z.guardFail g detSegCrc (s.segmentBroken g (s.img r.run.image) w.segment) stSeqFault).getD
        (z.loadedWith g w (s.segmentBytes g (s.img r.run.image) w.segment)) := by
  intro z
  rw [State.segmentArrival]
  simp only [cur, due, issue, Bool.not_true, Bool.false_eq_true, if_false, Bool.false_or]
  split
  next failed => exact (congrArg (Option.getD · _) failed).symm
  next passed => exact (congrArg (Option.getD · _) passed).symm

theorem State.start_of_halted (due : s.actionDue g 0x02 = some (r, a))
    (clear : unarmed (s.passEntry g) g [detStart] = true)
    (halted : ∀ p ∈ (s.passEntry g).physOf g a.clmask, ((s.passEntry g).clu g p).isHalted a.at_ = true) :
    s.start g = ((s.passEntry g).physOf g a.clmask).foldl (fun s p => s.modClu g p fun c =>
      { c with
        haltIssued := false, half := a.field 0 1, word := a.field 1 10, loops := [], nextIssue := a.at_ + 1, sig := 0 })
      (s.passEntry g) := by
  have still : (((s.passEntry g).physOf g a.clmask).any fun p => !((s.passEntry g).clu g p).isHalted a.at_) = false :=
    List.any_eq_false.2 fun p hp => by simp [halted p hp]
  rw [State.start, State.onAction_of_due due]
  dsimp only
  rw [State.guardFail_of_good clear still]

/-- What a BARRIER asks of its clusters (R67). -/
def State.barrierHolds (s : State) (g : Nat) (a : Action) : Prop :=
  ∀ p ∈ s.physOf g a.clmask,
    (s.clu g p).isHalted a.at_ = true ∧ (s.clu g p).sig = BitVec.ofNat 32 (a.field 0 32)

/-- A BARRIER finds another state in one of its clusters. -/
def State.barrierBad (s : State) (g : Nat) (a : Action) : Bool :=
  (s.physOf g a.clmask).any fun p =>
    !(s.clu g p).isHalted a.at_ || (s.clu g p).sig != BitVec.ofNat 32 (a.field 0 32)

theorem State.barrierBad_eq_false_iff : s.barrierBad g a = false ↔ s.barrierHolds g a := by
  simp [State.barrierBad, State.barrierHolds]

theorem State.barrier_of_due (due : s.actionDue g 0x0B = some (r, a)) :
    s.barrier g = ((s.passEntry g).guardFail g detBarrier ((s.passEntry g).barrierBad g a) stSeqFault).getD
      (s.passEntry g) :=
  State.onAction_of_due due

/-- END's own cycle, from the state in which it has issued (R65, R154). -/
def State.endCycle (y : State) (g v : Nat) : State :=
  let w := if y.tilesLeft g v then y.failIssue g stSeqFault false else y
  State.finishCycle g w.turns w

theorem State.endAction_of_running {i : RunInfo} (due : s.actionDue g 0x0C = some (r, a))
    (cur : (((s.passEntry g).endCycle g a.at_).grp g).cur = some i) (same : i.start = r.start) :
    s.endAction g = ((s.passEntry g).endCycle g a.at_).endRun g a.clmask (a.field 0 13) := by
  rw [State.endAction, State.onAction_of_due due]
  simp only [State.endCycle] at cur ⊢
  simp only [cur, if_pos same]

theorem State.endAction_of_failed (due : s.actionDue g 0x0C = some (r, a))
    (cur : (((s.passEntry g).endCycle g a.at_).grp g).cur = none) :
    s.endAction g = (s.passEntry g).endCycle g a.at_ := by
  rw [State.endAction, State.onAction_of_due due]
  simp only [State.endCycle] at cur ⊢
  simp only [cur]

end Due

/-! ### O54 -/

/-- Settles O54, action by action: the guard of each decides whether it acts or fails the run. -/
theorem sequencerActions : Obligations.SequencerActions := by
  intro s t g x y
  refine ⟨?load, ?arrival, ?start, ?barrier, ?ends⟩
  case load => exact fun r a due clear idle => congrArg Host.Outcome.next (State.loadSeg_of_idle due clear idle)
  case arrival =>
    intro r w cur due issue m place bytes z clear
    have arrival := State.segmentArrival_of_due cur due issue
    refine ⟨fun crc => congrArg Host.Outcome.next (arrival.trans ?_),
      fun crc => congrArg Host.Outcome.next (arrival.trans ?_)⟩
    · exact congrArg (Option.getD · _) (State.guardFail_of_good clear (bne_eq_false_iff_eq.2 crc))
    · exact congrArg (Option.getD · _) (State.guardFail_of_bad (bne_iff_ne.2 crc))
  case start => exact fun r a due clear halted => congrArg Host.Outcome.next (State.start_of_halted due clear halted)
  case barrier =>
    intro r a due clear good
    have barrier := State.barrier_of_due due
    refine ⟨fun holds => congrArg Host.Outcome.next (barrier.trans ?_),
      fun fails => congrArg Host.Outcome.next (barrier.trans ?_)⟩
    · exact congrArg (Option.getD · _) (State.guardFail_of_good clear (State.barrierBad_eq_false_iff.2 holds))
    · exact congrArg (Option.getD · _)
        (State.guardFail_of_bad (eq_true_of_ne_false (mt State.barrierBad_eq_false_iff.1 fails)))
  case ends =>
    intro r a due w z
    refine ⟨fun i cur same => ?_, fun cur => ?_⟩
    · have ended : x.endAction g = (y.endCycle g a.at_).endRun g a.clmask (a.field 0 13) :=
        State.endAction_of_running due cur same
      exact congrArg Host.Outcome.next ended
    · have failed : x.endAction g = y.endCycle g a.at_ := State.endAction_of_failed due cur
      exact congrArg Host.Outcome.next failed

end Sys2Proof.Machine
end

section
/-! PROOFS. Transfers over the group bus and with memory, and records (R79, R85, R175, R180 to R182, R217, R230, R231,
R235, Table 3-4), O55. -/

namespace Sys2Proof.Machine

open Sys2Proof.Safety

section Due

variable {s : State} {g : Nat} {r : RunInfo} {a : Action}

/-! ### FETCH and STORE (R217, R230, R231, R235) -/

/-- The times at which a FETCH of a spill tensor keeps the decoder. -/
def Action.decoderTimes (a : Action) (m : Image) : List (Nat × Nat) :=
  if (m.spillAt (a.field 0 34)).isSome then fetchBusy a.at_ (a.field 47 16) else []

/-- The times at which a STORE into a spill tensor keeps the coder. -/
def Action.coderTimes (a : Action) (m : Image) : List (Nat × Nat) :=
  if (m.spillAt (a.field 0 34)).isSome then [(a.at_ + 1, a.at_ + 1 + 5 * a.field 47 16)] else []

/-- Rows of memory that a FETCH reads or a STORE writes. -/
def Action.units (a : Action) (m : Image) : Nat :=
  if (m.spillAt (a.field 0 34)).isSome then spillUnits * ceilDiv (a.field 47 16) 64 else a.field 47 16

theorem State.fetch_of_bad (due : s.actionDue g 0x04 = some (r, a)) :
    let y := s.passEntry g
    let m := y.img r.run.image
    (!startsBusy r.decoder (a.decoderTimes m) && y.rowsMapped m g (a.field 0 34) (a.units m)) = false →
      s.fetch g = y.failIssue g stSeqFault false := by
  intro y m bad
  have bad : (startsBusy r.decoder (a.decoderTimes m) || !y.rowsMapped m g (a.field 0 34) (a.units m)) = true := by
    simpa [or_iff_not_imp_left] using bad
  rw [State.fetch, State.onAction_of_due due]
  exact if_pos bad

theorem State.fetch_of_good (due : s.actionDue g 0x04 = some (r, a)) :
    let y := s.passEntry g
    let m := y.img r.run.image
    let addrs := y.rowAddrs m g (a.field 0 34) (a.units m)
    (!startsBusy r.decoder (a.decoderTimes m) && y.rowsMapped m g (a.field 0 34) (a.units m)) = true →
      s.fetch g = (y.modRun g fun r => { r with decoder := r.decoder ++ a.decoderTimes m }).startTransfer g
        { op := 0, req := reqFetch, clmask := a.clmask, row := a.field 34 13, count := a.field 47 16, issued := a.at_
          farFrom := m.nearExtent - a.field 0 34, spill := m.spillAt (a.field 0 34), addrs
          data := (y.fetched r addrs).1, origin := (y.fetched r addrs).2 } := by
  intro y m addrs good
  have good : ¬ (startsBusy r.decoder (a.decoderTimes m) || !y.rowsMapped m g (a.field 0 34) (a.units m)) = true := by
    simpa using good
  rw [State.fetch, State.onAction_of_due due]
  exact if_neg good

theorem State.store_of_bad (ecc : Ecc) (retries : WriteRetries) (due : s.actionDue g 0x05 = some (r, a)) :
    let y := s.passEntry g
    let m := y.img r.run.image
    (m.nearExtent < a.field 0 34 + a.units m ∨ startsBusy r.coder (a.coderTimes m) = true) →
      s.store g ecc retries = y.failIssue g stSeqFault false := by
  intro y m bad
  have bad : (decide (m.nearExtent < a.field 0 34 + a.units m) || startsBusy r.coder (a.coderTimes m)) = true := by
    simpa using bad
  rw [State.store, State.onAction_of_due due]
  exact if_pos bad

theorem State.storeRetries_of_unarmed (clear : unarmed s g [detWriteLink] = true) (l : WriteRetries) :
    s.storeRetries g l = (s, l) := by
  simp [State.storeRetries, State.fireArmed_none (armedAt_of_unarmed clear (List.mem_singleton.2 rfl))]

theorem State.store_of_good (ecc : Ecc) (retries : WriteRetries) (due : s.actionDue g 0x05 = some (r, a)) :
    let y := s.passEntry g
    let m := y.img r.run.image
    ¬ (m.nearExtent < a.field 0 34 + a.units m ∨ startsBusy r.coder (a.coderTimes m) = true) →
      a.field 47 16 ≠ 0 → unarmed y g [detWriteLink] = true →
      s.store g ecc retries = (y.modRun g fun r' => { r' with
          coder := r'.coder ++ a.coderTimes m, nextOp := r'.nextOp + 1
          stores := r'.stores ++ [{ op := r'.nextOp, addr := a.field 0 34, count := a.field 47 16
                                    spill := m.spillAt (a.field 0 34), retries }] }).readPaced g reqStore
        (firstOfMask a.clmask) (a.field 34 13) (a.field 47 16) a.at_ ecc (.store r.nextOp) := by
  intro y m good some clear
  have good : ¬ (decide (m.nearExtent < a.field 0 34 + a.units m) || startsBusy r.coder (a.coderTimes m)) = true := by
    simpa using good
  rw [State.store, State.onAction_of_due due]
  refine (if_neg good).trans ((if_neg some).trans ?_)
  rw [State.storeRetries_of_unarmed clear]
  rfl

/-! ### INPUT (R251) -/

theorem State.input_of_chunk {c : Chunk} (due : s.actionDue g 0x09 = some (r, a)) :
    let y := s.passEntry g
    let q := r.run.chunks.getD (a.field 0 6) (0, 0)
    let rows := y.inputRows q.1 c.first
    y.chunkOf q.1 q.2 = some c →
      s.input g = y.startTransfer g
        { op := 0, req := reqInput, clmask := a.clmask, row := a.field 6 13, count := rows.1.length, issued := a.at_
          farFrom := rows.1.length, addrs := rows.2, data := rows.1, origin := [] } := by
  intro y q rows chunk
  rw [State.input, State.onAction_of_due due]
  simp only [y, q] at chunk
  simp only [chunk]
  rfl

/-! ### STATE_IN and STATE_OUT (R175, R180 to R182) -/

/-- The move of a record of position `p` of the run begins, from or into copy `k` of slot `l`: row `n` is read at
`place n`. -/
def State.recordMoves (y : State) (g : Nat) (r : RunInfo) (a : Action) (ecc : Ecc) (l : Nat) (out : Bool) (k : Nat)
    (place : Nat → Nat × Nat) : State :=
  let m := y.img r.run.image
  let p := a.field 0 6
  let q := r.run.chunks.getD p (0, 0)
  (y.modRun g fun r' => { r' with
    nextOp := r'.nextOp + 1
    records := r'.records ++
      [{ op := r'.nextOp, out, position := p, stream := q.1, seq := q.2, slot := l, copy := k, first := a.field 6 13 }]
    }).addDues g ((List.range m.recordRows).map (fun n => readDue ecc a.at_ reqState (a.at_ + 2 * (n / m.clusters))
      (place n).1 ((y.grp g).phys (place n).1) (place n).2 (.record r.nextOp n))
      ++ [{ sched := a.at_ + 2 * ceilDiv m.recordRows m.clusters + 1, kind := .recordEnd r.nextOp }])

theorem State.stateIn_of_slot {l : Nat} {c : Chunk} (ecc : Ecc) (due : s.actionDue g 0x07 = some (r, a))
    (free : s.swapBlocked g a r = none) :
    let y := s.passEntry g
    let q := r.run.chunks.getD (a.field 0 6) (0, 0)
    let held := b2n (y.slotAt g l).committed
    (y.str q.1).slot = some l → y.chunkOf q.1 q.2 = some c →
      s.stateIn g ecc = y.recordMoves g r a ecc l false held (y.slotRow l held) := by
  intro y q held slot chunk
  simp only [y, q] at slot chunk
  rw [State.stateIn, State.onSlotAction_of_due due free]
  simp only [State.moveRecord, slot, chunk]
  rfl

theorem State.stateOut_of_slot {l : Nat} {c : Chunk} (ecc : Ecc) (due : s.actionDue g 0x08 = some (r, a))
    (free : s.swapBlocked g a r = none) :
    let y := s.passEntry g
    let q := r.run.chunks.getD (a.field 0 6) (0, 0)
    let held := b2n (y.slotAt g l).committed
    (y.str q.1).slot = some l → y.chunkOf q.1 q.2 = some c →
      s.stateOut g ecc = y.recordMoves g r a ecc l true (1 - held)
        (workPlace (y.img r.run.image) (a.field 6 13) (a.field 0 6)) := by
  intro y q held slot chunk
  simp only [y, q] at slot chunk
  rw [State.stateOut, State.onSlotAction_of_due due free]
  simp only [State.moveRecord, slot, chunk]
  rfl

end Due

/-! ### The end of a record's move (R181, R182) -/

section Record

variable {x : State} {g op : Nat} {r : RunInfo} {w : RecordOp}

/-- Record operation `op` of the run is over. -/
def State.dropRecord (x : State) (g op : Nat) : State :=
  x.modRun g fun r => { r with records := r.records.filter fun y => y.op != op }

theorem recordOk_iff {n seq : Nat} {b : List Byte} :
    recordOk n seq b = true ↔ recordCrcOk b = true ∧ recordStream b = n ∧ (recordSeq b + 1) % 2 ^ 32 = seq := by
  simp [recordOk, and_assoc]

theorem State.endRecord_in (v : Nat) (cur : (x.grp g).cur = some r) (move : x.recordOp g op = some w)
    (in_ : w.out = false) (clear : unarmed (x.dropRecord g op) g [detRecordCrc, detRecordSeq] = true) :
    let z := x.dropRecord g op
    x.endRecord g op v =
      if recordOk w.stream w.seq ((w.content (x.img r.run.image).recordRows).flatMap rowBytes) then z
      else z.addDue g { sched := v, kind := .record w.position } := by
  intro z
  have crc : z.fireArmed (grpDetector g detRecordCrc) = (false, z) :=
    State.fireArmed_none (armedAt_of_unarmed clear (by simp))
  have seq : z.fireArmed (grpDetector g detRecordSeq) = (false, z) :=
    State.fireArmed_none (armedAt_of_unarmed clear (by simp))
  simp only [z, State.dropRecord] at crc seq
  simp only [State.endRecord, cur, move, in_, Bool.false_eq_true, if_false, crc, seq, Bool.or_self, Bool.not_eq_true']
  split
  next bad => exact (if_neg (ne_true_of_eq_false bad)).symm
  next good => exact (if_pos (eq_true_of_ne_false good)).symm

theorem State.endRecord_out {c : Chunk} (v : Nat) (cur : (x.grp g).cur = some r) (move : x.recordOp g op = some w)
    (out : w.out = true) (chunk : x.chunkOf w.stream w.seq = some c) :
    let m := x.img r.run.image
    let head := recordHeader m.recordRows w.stream w.seq (c.first + (x.str w.stream).chunkSamples)
      (x.endClassWord g w.position r) false
    let at_ := x.slotRow w.slot w.copy 0
    x.endRecord g op v = (x.dropRecord g op).writeAt g reqState v { phys := (x.grp g).phys at_.1, row := at_.2 }
      (bytesRow (sealRecord (head ++ ((w.content m.recordRows).flatMap rowBytes).drop 64))) := by
  intro m head at_
  simp only [State.endRecord, cur, move, out, if_true, chunk]
  rfl

end Record

/-! ### O55 -/

/-- Settles O55, transfer by transfer, and for records from their last cycle. -/
theorem groupTransfers : Obligations.GroupTransfers := by
  intro s t g ecc x y
  refine ⟨?fetch, ?store, ?xfer, ?input, ?output, ?records, ?ends⟩
  case fetch =>
    intro r a due m n spill units busy ok
    exact ⟨fun bad => congrArg Host.Outcome.next (State.fetch_of_bad due bad),
      fun good => congrArg Host.Outcome.next (State.fetch_of_good due good)⟩
  case store =>
    intro r a retries due m n spill units busy bad
    exact ⟨fun h => congrArg Host.Outcome.next (State.store_of_bad ecc retries due h),
      fun h some clear => congrArg Host.Outcome.next (State.store_of_good ecc retries due h some clear)⟩
  case xfer => exact fun r a due => congrArg Host.Outcome.next (State.onAction_of_due due)
  case input => exact fun r a c due chunk => congrArg Host.Outcome.next (State.input_of_chunk due chunk)
  case output => exact fun r a due => congrArg Host.Outcome.next (State.onAction_of_due due)
  case records =>
    intro r a l c m p q free slot chunk held moves
    exact ⟨fun due => congrArg Host.Outcome.next (State.stateIn_of_slot ecc due free slot chunk),
      fun due => congrArg Host.Outcome.next (State.stateOut_of_slot ecc due free slot chunk)⟩
  case ends =>
    intro op v r w cur move m b z
    refine ⟨fun in_ clear => ?_, fun c out chunk => State.endRecord_out v cur move out chunk⟩
    exact (State.endRecord_in v cur move in_ clear).trans (if_congr recordOk_iff rfl rfl)

end Sys2Proof.Machine
end

section
/-! PROOFS. Matrix words, the epilogue's end and the end of a factor formation (R110 to R112, R120 to R122, R126 to
R128, R153, Table 5-5), O59. -/

namespace Sys2Proof.Machine

open Sys2Proof.Safety

/-! ### Detectors that are not armed -/

theorem unarmed_of_subset {s : State} {g : Nat} {l l' : List Nat} (h : unarmed s g l = true) (sub : l' ⊆ l) :
    unarmed s g l' = true :=
  List.all_eq_true.2 fun k hk => List.all_eq_true.1 h k (sub hk)

theorem State.fireArmed_of_unarmed {s : State} {g : Nat} {l : List Nat} (h : unarmed s g l = true) {k : Nat}
    (hk : k ∈ l) : s.fireArmed (grpDetector g k) = (false, s) :=
  State.fireArmed_none (armedAt_of_unarmed h hk)

/-! ### Words that break no rule of Table 5-11 -/

section Words

variable {x : State} {g c p : Nat} {w : MWord}

theorem State.mmaWord_of_legal (ecc : Ecc) (due : x.wordDue g c unitMatrix 1 = some (p, w))
    (clear : unarmed x g [detMatrix] = true) :
    let v := x.schedNow g
    let y := x.modClu g p fun k => k.passWord w v k.loops
    let m := mmaOf w v ecc
    (y.clu g p).mmaBad m (wordBit w 44) v = false →
    x.mmaWord g c ecc = ((y.modClu g p fun k => { k with
      acc := if wordBit w 44 then k.acc else tput {} k.acc m.acc (openChain m), mma := some m }).armAccess g m.starts
      { phys := p, row := m.xrow } true).addDue g { sched := m.starts, kind := .kstep, phys := p } := by
  intro v y m legal
  have free : y.armedAt (grpDetector g detMatrix) = none := armedAt_of_unarmed clear (List.mem_singleton.2 rfl)
  rw [State.mmaWord, State.onWord_of_due due]
  dsimp only
  rw [legal, State.engineFault_none free]

theorem State.mepiWord_of_idle (ecc : Ecc) (due : x.wordDue g c unitMatrix 2 = some (p, w))
    (clear : unarmed x g [detMatrix] = true) :
    let v := x.schedNow g
    let y := x.modClu g p fun k => k.passWord w v k.loops
    let a := wordField w 55 1
    let row := wordField w 40 13
    (tget {} (y.clu g p).acc a).epiRuns v = false →
    x.mepiWord g c ecc = ((y.armAccess g v { phys := p, row } true).modClu g p fun k => { k with
      params := tmod {} k.params a fun q =>
        { q with loaded := true, readyAt := v + 4, out := wordBit w 54, bias := wordBit w 53, tileId := wordField w 32 8 }
      loads := k.loads ++ [{ word := w, issued := v }] }).addDues g
        ((List.range 5).map fun i => readDue ecc v reqMatrix (v + i) c p ((row + i) % 8192) (.param v)) := by
  intro v y a row idle
  have free : y.armedAt (grpDetector g detMatrix) = none := armedAt_of_unarmed clear (List.mem_singleton.2 rfl)
  rw [State.mepiWord, State.onWord_of_due due]
  dsimp only
  rw [idle, State.engineFault_none free]

theorem State.mfacWord_of_ready (due : x.wordDue g c unitMatrix 3 = some (p, w))
    (clear : unarmed x g [detMatrix] = true) :
    let v := x.schedNow g
    let y := x.modClu g p fun k => k.passWord w v k.loops
    (y.clu g p).formation = none →
    ((y.clu g p).bank (wordField w 49 2)).isFull v = true → ((y.clu g p).bank (wordField w 47 2)).isFull v = true →
    x.mfacWord g c = y.modClu g p fun k => { k with formation := some (formationOf k w v) } := by
  intro v y idle ufull vfull
  have free : y.armedAt (grpDetector g detMatrix) = none := armedAt_of_unarmed clear (List.mem_singleton.2 rfl)
  have legal : ((y.clu g p).formation.isSome || !((y.clu g p).bank (wordField w 49 2)).isFull v
      || !((y.clu g p).bank (wordField w 47 2)).isFull v) = false := by simp [idle, ufull, vfull]
  rw [State.mfacWord, State.onWord_of_due due]
  dsimp only
  rw [idle]
  dsimp only
  rw [legal, State.engineFault_none free]

end Words

/-! ### The epilogue's end (R126, R127) -/

/-- Checkers that are not armed give no verdict. -/
theorem State.armedVerdict_none {s : State} {g : Nat} (clear : unarmed s g [0, 1, 2, 3, 4] = true) (mode : Nat)
    (out : Bool) : s.armedVerdict g mode out = (s, 0) := by
  have silent : ∀ k ∈ [0, 1, 2, 3, 4], s.fireArmed (grpDetector g k) = (false, s) :=
    fun k => State.fireArmed_of_unarmed clear
  simp [State.armedVerdict, silent]

theorem State.epilogueEnd_of_clear {x : State} {g c a v e : Nat} (upset : Nat)
    (clear : unarmed x g [0, 1, 2, 3, 4] = true) (cycle : x.thisCycle g = some v) :
    let q := (x.grp g).phys c
    let k := tget {} (x.clu g q).acc a
    k.epi = some (e, v) → k.epiOver = false → q < 26 →
    let par := tget {} (x.clu g q).params a
    let res := k.epilogue par upset
    let z := (x.modClu g q fun u => { u with acc := tput {} u.acc a { k with epiOver := true } }).count (mtxChains g) 1
    x.epilogueEnd g c a upset =
      if 2 ≤ res.verdict then z.badVerdict g q res.verdict k.mode v false else z.pushTile g q a v par res := by
  intro q k epi notOver real par res z
  have ends : ¬(v ≠ v ∨ k.epiOver = true ∨ 26 ≤ q) := by simp [notOver, real]
  rw [State.epilogueEnd]
  dsimp only
  rw [cycle, epi]
  dsimp only
  rw [if_neg ends, State.armedVerdict_none clear, ← epi]
  rfl

/-! ### The end of a factor formation (R121, R127) -/

theorem State.formationEnd_of_clear {x : State} {g p : Nat} {f : Formation} (v : Nat)
    (clear : unarmed x g [5, 6] = true) (form : (x.clu g p).formation = some f) :
    let drop (rel : Bool) (i : Nat) (b : Table FactorBank) : Table FactorBank :=
      if rel then tmod {} b i fun k => { k with full := false } else b
    let z := x.modClu g p fun u => { u with
      formation := none, banks := drop f.vrel f.vbank (drop f.urel f.ubank u.banks) }
    x.formationEnd g p v false =
      if f.ok then
        (z.directAt g p v f.dest { full := true, fullAt := v, formed := true, codes := f.codes, rs := f.rs }).count
          (mtxFactorTiles g) 1
      else z.badVerdict g p 7 modeI8 v false := by
  intro drop z
  simp only [State.formationEnd, form, State.fireArmed_of_unarmed clear (show 5 ∈ [5, 6] by simp),
    State.fireArmed_of_unarmed clear (show 6 ∈ [5, 6] by simp)]
  cases f.ok <;> rfl

theorem State.factorFormationEnd_of_ends {x : State} {g c v : Nat} {f : Formation} (upset : Bool)
    (cycle : x.thisCycle g = some v) (form : (x.clu g ((x.grp g).phys c)).formation = some f) (ends : f.ends = v)
    (real : (x.grp g).phys c < 26) :
    x.factorFormationEnd g c upset = x.formationEnd g ((x.grp g).phys c) v upset := by
  simp only [State.factorFormationEnd, cycle, form, ends, real, and_self, if_true]

/-! ### O59 -/

/-- Settles O59: each word as it issues, and each end by its verdict. -/
theorem matrixWords : Obligations.MatrixWords := by
  intro s t g c p w ecc x v y clear
  have issue : unarmed x g [detMatrix] = true := unarmed_of_subset clear (by simp [detMatrix])
  refine ⟨?mma, ?mepi, ?mfac, ?epilogue, ?formation⟩
  case mma => exact fun due legal => congrArg Host.Outcome.next (State.mmaWord_of_legal ecc due issue legal)
  case mepi => exact fun due idle => congrArg Host.Outcome.next (State.mepiWord_of_idle ecc due issue idle)
  case mfac =>
    exact fun due idle ufull vfull => congrArg Host.Outcome.next (State.mfacWord_of_ready due issue idle ufull vfull)
  case epilogue =>
    intro a upset v e q k cycle epi notOver real par res z
    have ends := State.epilogueEnd_of_clear upset (unarmed_of_subset clear (by simp)) cycle epi notOver real
    exact ⟨fun good => congrArg Host.Outcome.next (ends.trans (if_neg (Nat.not_le.2 good))),
      fun bad => congrArg Host.Outcome.next (ends.trans (if_pos bad))⟩
  case formation =>
    intro v f q cycle form ends real drop z
    have ended := (State.factorFormationEnd_of_ends false cycle form ends real).trans
      (State.formationEnd_of_clear v (unarmed_of_subset clear (by simp)) form)
    exact ⟨fun good => congrArg Host.Outcome.next (ended.trans (if_pos good)),
      fun bad => congrArg Host.Outcome.next (ended.trans (if_neg (ne_true_of_eq_false bad)))⟩

end Sys2Proof.Machine
end

section
/-! PROOFS. The issue of vector words and the end of a vector operation (R136, R137, R149, R150, R153, R191, Table 6-3,
Table 6-6), O60. -/

namespace Sys2Proof.Machine

open Sys2Proof.Safety

theorem State.wordDue_op {s : State} {g c unit op p : Nat} {w : MWord} (h : s.wordDue g c unit op = some (p, w)) :
    wordField w 56 4 = op := by
  obtain ⟨due, here⟩ := Option.ite_none_right_eq_some.1 h
  cases here
  simp only [Bool.and_eq_true, beq_iff_eq] at due
  exact due.2

/-! ### The start of an operation (R136, R137) -/

/-- An operation under way from the cycle after `v`: its scalars and the rows `more` are read at `v`, and its first slot is
due. -/
def State.startVec (y : State) (g c p v : Nat) (i : VecIssue) (more : List Nat) : State :=
  let rows := i.op.scalarRegs.map (fun e => e.2.rowAt 0) ++ more
  let z := (y.armAccess g (v + 1) { phys := p, row := (i.sources.headD i.op.d).rowAt 0 } true).addDues g
    (rows.map fun row => readDue i.op.ecc v reqVector v c p (row % 8192) .scalar)
  (z.modClu g p fun u => { u with vec := some i.op.paced }).addDue g { sched := v, kind := .vstart, phys := p }

/-- An operation that breaks no rule of Table 6-6 starts, after the one before it is written and counted. -/
theorem State.issueVec_of_legal {s : State} {g p v : Nat} {i : VecIssue} {queueBad : Bool} (c : Nat) :
    let y := (s.lastSlot g p v).finishVec g p v
    unarmed y g [detVector] = true → (y.clu g p).vecRuns v = false → queueBad = false →
    i.faulty (y.clu g p) (y.curSlots g) = false →
    s.issueVec g c p v i queueBad = y.startVec g c p v i (if i.op.cls = clsScan then [i.op.f.rowAt 0] else []) := by
  intro y clear idle head sound
  have free : y.armedAt (grpDetector g detVector) = none := armedAt_of_unarmed clear (List.mem_singleton.2 rfl)
  have good : ((y.clu g p).vecRuns v || queueBad || i.faulty (y.clu g p) (y.curSlots g)) = false := by
    simp only [idle, head, sound, Bool.or_self]
  rw [State.issueVec]
  dsimp only
  rw [good, State.engineFault_none free]
  rfl

/-- A vector word that is due and legal: its own operation code says whether flags are read (R191). -/
theorem State.vectorWord_of_legal {x : State} {g c op p : Nat} {w : MWord} (issue : Cluster → Nat → MWord → VecIssue)
    (queueBad : Cluster → MWord → Nat → Bool) (due : x.wordDue g c unitVector op = some (p, w)) :
    let v := x.schedNow g
    let passed := x.modClu g p fun k => k.passWord w v k.loops
    let y := (passed.lastSlot g p v).finishVec g p v
    let i := issue (passed.clu g p) v w
    i.op.word = w → unarmed y g [detVector] = true → (y.clu g p).vecRuns v = false →
    queueBad (passed.clu g p) w v = false → i.faulty (y.clu g p) (y.curSlots g) = false →
    x.onWord g c unitVector op (fun v p w s =>
        s.issueVec g c p v (issue (s.clu g p) v w) (queueBad (s.clu g p) w v)) =
      y.startVec g c p v i (if op = clsScan then [i.op.f.rowAt 0] else []) := by
  intro v passed y i own clear idle head sound
  have code : i.op.cls = op := by
    rw [VecOp.cls, VecOp.w, own]
    exact State.wordDue_op due
  rw [State.onWord_of_due due, ← code]
  exact State.issueVec_of_legal c clear idle head sound

/-! ### The end of an operation -/

theorem State.vectorOperationEnd_of_ends {x : State} {g c v : Nat} {o : VecOp} (cycle : x.thisCycle g = some v)
    (runs : (x.clu g ((x.grp g).phys c)).vec = some o) (ends : o.ends = v) (real : (x.grp g).phys c < 26)
    (new : o.retired = false) :
    x.vectorOperationEnd g c = (x.modClu g ((x.grp g).phys c) fun u =>
      { u with vec := some { o with retired := true } }).count (vecOps g) 1 := by
  simp only [State.vectorOperationEnd, State.finishVec, cycle, runs, ends, real, new, Nat.le_refl, Bool.not_false,
    and_self, if_true]

/-! ### O60 -/

/-- Settles O60: each word starts the operation that it names, and the last cycle retires it. -/
theorem vectorWords : Obligations.VectorWords := by
  intro s t g c p w ecc upset x v passed y k legal goes withUpset clear
  refine ⟨?ew, ?cvt, ?red, ?ldlut, ?scan, ?ends⟩
  case ew =>
    exact fun due ⟨idle, sound⟩ => congrArg Host.Outcome.next (State.vectorWord_of_legal
      (fun k v w => k.ewIssue w v ecc upset) (fun _ _ _ => false) due rfl clear idle rfl sound)
  case cvt =>
    exact fun due ⟨idle, sound⟩ head => congrArg Host.Outcome.next (State.vectorWord_of_legal
      (fun k v w => withUpset (k.cvtIssue w v ecc)) Cluster.queueBad due rfl clear idle head sound)
  case red =>
    exact fun due ⟨idle, sound⟩ => congrArg Host.Outcome.next (State.vectorWord_of_legal
      (fun k v w => withUpset (k.redIssue w v ecc)) (fun _ _ _ => false) due rfl clear idle rfl sound)
  case ldlut =>
    exact fun due ⟨idle, sound⟩ => congrArg Host.Outcome.next (State.vectorWord_of_legal
      (fun k v w => k.lutIssue w v ecc) (fun _ _ _ => false) due rfl clear idle rfl sound)
  case scan =>
    exact fun due ⟨idle, sound⟩ => congrArg Host.Outcome.next (State.vectorWord_of_legal
      (fun k v w => withUpset (k.scanIssue w v ecc)) (fun _ _ _ => false) due rfl clear idle rfl sound)
  case ends =>
    exact fun o v cycle runs ends real new =>
      congrArg Host.Outcome.next (State.vectorOperationEnd_of_ends cycle runs ends real new)

end Sys2Proof.Machine
end

section
/-! PROOFS. The expander's blocks, and rows from memory (R215, R216, R218, R225, R228, R230, R231, R233, R234, Table 4-3),
O56. -/

namespace Sys2Proof.Machine

open Sys2Proof.Safety

/-! ### EXPAND (R216, R228, Table 4-3) -/

section Expand

variable {s : State} {g : Nat} {r : RunInfo} {a : Action} {tn : Tensor}

/-- The times at which an EXPAND of blocks of tensor `tn` keeps the decoder. -/
def Action.expandTimes (a : Action) (tn : Tensor) : List (Nat × Nat) :=
  [(a.at_ + 16, a.at_ + 16 + sumOf ((List.range (a.field 36 16)).map fun i => tn.allowance (a.field 16 20 + i)))]

/-- The target suits the tensor, the decoder is free, and every row of the blocks lies within the extents. -/
def State.expandFits (y : State) (g : Nat) (r : RunInfo) (a : Action) (tn : Tensor) : Bool :=
  tn.expandOk (a.field 16 20) (a.field 36 16) (a.field 52 1) && !startsBusy r.decoder (a.expandTimes tn) &&
    (List.range (a.field 36 16)).all fun i =>
      (y.blockRows (y.img r.run.image) g tn (a.field 16 20 + i)).all fun u => (y.imageAddr (y.img r.run.image) g u).isSome

/-- The decoder is kept, and the EXPAND's first block starts in its 16th cycle. -/
def State.expandBegins (y : State) (g : Nat) (a : Action) (tn : Tensor) : State :=
  y.modRun g fun r => { r with
    decoder := r.decoder ++ a.expandTimes tn
    expands := r.expands ++ [
      { tensor := a.field 0 16, first := a.field 16 20, count := a.field 36 16, factor := a.field 52 1 == 1
        clmask := a.clmask, next := 0, starts := a.at_ + 16 }] }

theorem State.expand_of_no_tensor (due : s.actionDue g 0x03 = some (r, a)) :
    let y := s.passEntry g
    (y.img r.run.image).tensors[a.field 0 16]? = none → s.expand g = y.failIssue g stSeqFault false := by
  intro y missing
  simp only [y] at missing
  rw [State.expand, State.onAction_of_due due]
  simp only [missing]
  rfl

/-- An EXPAND of a tensor of the image begins where it fits, and under target 1 its bank is judged as it starts. -/
theorem State.expand_of_tensor (due : s.actionDue g 0x03 = some (r, a)) :
    let y := s.passEntry g
    (y.img r.run.image).tensors[a.field 0 16]? = some tn →
      s.expand g =
        if y.expandFits g r a tn then
          if a.field 52 1 = 1 then
            (y.expandBegins g a tn).addDue g { sched := a.at_ + 16, kind := .factorStart a.clmask }
          else y.expandBegins g a tn
        else y.failIssue g stSeqFault false := by
  intro y tensor
  simp only [y] at tensor
  rw [State.expand, State.onAction_of_due due]
  have refused : ∀ suits busy mapped : Bool,
      (!suits || busy || !mapped) = true ↔ ¬ (suits && !busy && mapped) = true := by decide
  simp only [tensor]
  exact (if_congr (refused ..) rfl rfl).trans (ite_not ..)

end Expand

/-! ### A block's decode and its arrival (R215, R218, R233, R234) -/

section Block

variable {s : State} {g : Nat} {r : RunInfo} {e : Expand} (cur : (s.grp g).cur = some r) (up : s.groupUp g = true)

include cur up

theorem State.blockDecode_of_due {tn : Tensor} {late : Bool} (reads : List (Nat × RowRead × Option RowRead))
    (due : r.expands.find? (fun e => e.starts == s.schedNow g && e.late.isNone) = some e)
    (goes : late = true ∨ s.canIssue g = true) (tensor : (s.img r.run.image).tensors[e.tensor]? = some tn) :
    let rows := (s.blockRows (s.img r.run.image) g tn (e.first + e.next)).map fun u =>
      (s.imageAddr (s.img r.run.image) g u).getD 0
    let z := s.meetBlock g rows reads
    s.blockDecode g late reads =
      if z.2.2 then z.1.addDue g { sched := e.starts, kind := .fail stMemError }
      else if late = true ∨ z.2.1 ≠ [] then z.1.holdExpander g e late z.2.1
      else z.1.decodeNext g r e tn := by
  intro rows z
  have met : (!(s.groupUp g && (late || s.canIssue g))) = false := by
    simp only [up, Bool.true_and, Bool.not_eq_false', Bool.or_eq_true, goes]
  have held : (late || !z.2.1.isEmpty) = true ↔ late = true ∨ z.2.1 ≠ [] := by simp
  simp only [State.blockDecode, cur, due, tensor, met, Bool.false_eq_true, if_false]
  exact if_congr Iff.rfl rfl (if_congr held rfl rfl)

theorem State.expanderBlockArrival_of_late
    (waits : r.expands.find? (fun e => e.late.isSome && e.waiting) = some e) :
    s.expanderBlockArrival g = s.expanderGoesOn g e { e with waiting := false } := by
  simp only [State.expanderBlockArrival, cur, waits, up, if_true]

end Block

/-! ### Rows from memory (R225, R230, R231, R233) -/

section Row

variable {s : State} {g u : Nat} {r : RunInfo} {w : Transfer} (cur : (s.grp g).cur = some r) (up : s.groupUp g = true)

/-- A correction counts for the row's channel (R233). -/
def State.countCorrected (s : State) (place : Option (Nat × Nat)) (met : RowVerdict) : State :=
  match place, met with
  | some (c, o), .correctable => s.memCorrected c o
  | _, _ => s

theorem State.countCorrected_clean (place : Option (Nat × Nat)) : s.countCorrected place .clean = s := by
  simp [State.countCorrected]

/-- Row `u` of transfer `w`, once `read` has read it: it is read again, or it joins the transfer. -/
def State.takeRow (s : State) (g : Nat) (w : Transfer) (u : Nat) (read : RowRead) : State :=
  let place := s.rowPlace (w.addrs.getD u 0)
  if rowVerdict read == .uncorrectable || s.isDamaged place then
    s.modTransfer g w.op fun y => { y with rereads := y.rereads ++ [u] }
  else
    (s.countCorrected place (rowVerdict read)).rowArrives g w u

theorem State.takeRow_of_lost {read : RowRead}
    (lost : rowVerdict read = .uncorrectable ∨ s.isDamaged (s.rowPlace (w.addrs.getD u 0)) = true) :
    s.takeRow g w u read = s.modTransfer g w.op fun y => { y with rereads := y.rereads ++ [u] } :=
  if_pos (by simpa using lost)

theorem State.takeRow_of_clean {read : RowRead}
    (kept : ¬ (rowVerdict read = .uncorrectable ∨ s.isDamaged (s.rowPlace (w.addrs.getD u 0)) = true))
    (clean : rowVerdict read = .clean) : s.takeRow g w u read = s.rowArrives g w u := by
  rw [State.takeRow, if_neg (by simpa using kept), clean, State.countCorrected_clean]

theorem State.takeRow_of_correctable {read : RowRead} {c o : Nat}
    (kept : ¬ (rowVerdict read = .uncorrectable ∨ s.isDamaged (s.rowPlace (w.addrs.getD u 0)) = true))
    (place : s.rowPlace (w.addrs.getD u 0) = some (c, o)) (corrected : rowVerdict read = .correctable) :
    s.takeRow g w u read = (s.memCorrected c o).rowArrives g w u := by
  rw [State.takeRow, if_neg (by simpa using kept), place, corrected]
  rfl

section Lacks

variable (lacks : r.transfers.find? (fun w => w.lacks u) = some w)

include cur lacks

/-- The delivery buffer is full and the row is not due yet: it does not come. -/
theorem State.memoryRowArrival_of_full (read : RowRead) (full : 256 ≤ r.buffered) (early : s.schedNow g < w.unitDue u) :
    s.memoryRowArrival g u read = s := by
  simp [State.memoryRowArrival, cur, lacks, full, early]

include up

theorem State.memoryRowArrival_of_room (read : RowRead) (clear : unarmed s g [31, 32, 33] = true)
    (room : r.buffered < 256 ∨ w.unitDue u ≤ s.schedNow g) : s.memoryRowArrival g u read = s.takeRow g w u read := by
  have comes : (!s.groupUp g || (decide (256 ≤ r.buffered) && decide (s.schedNow g < w.unitDue u))) = false := by
    simp only [up, Bool.not_true, Bool.false_or, Bool.and_eq_false_iff, decide_eq_false_iff_not]
    omega
  simp only [State.memoryRowArrival, State.takeRow, cur, lacks, comes, State.armedRead_none clear, Bool.false_eq_true,
    if_false]
  rfl

end Lacks

include cur up

theorem State.rowDue_of_absent (absent : (r.transfers.any fun w => !w.late && w.lateAt ((s.grp g).sched (s.clk g))) = true)
    (free : (s.grp g).hold = none) : s.rowDue g = s.holdRows g (s.clk g) := by
  simp only [State.rowDue, cur, free, up, absent, Bool.and_self, if_true]

/-- The oldest reread of a run that goes on is one of its transfers': it fails the run, or the row joins its transfer. -/
theorem State.rereadArrival_of_transfer {rest : List Nat} (read : RowRead)
    (oldest : r.transfers.find? (fun w => !w.rereads.isEmpty) = some w) (rereads : w.rereads = u :: rest) :
    let z := s.reread (w.addrs.getD u 0) read
    (z.1.grp g).cur.isSome = true →
      s.rereadArrival g read = if z.2 then z.1.rowFails g w u else z.1.rowArrives g w u := by
  intro z running
  have seen : s.runSeen g = some r := by simp only [State.runSeen, cur]
  have running : (z.1.grp g).cur.isNone = false := by rw [← Option.not_isSome, running]; rfl
  simp only [State.rereadArrival, seen, up, oldest, rereads, List.headD_cons, Bool.not_true, Bool.false_eq_true, if_false]
  exact if_neg (ne_true_of_eq_false running)

end Row

theorem State.storeBufferDrain_of_kept {s : State} {g : Nat} (kept : (s.grp g).storeBuf ≠ 0) :
    s.storeBufferDrain g =
      (s.modGrp g fun G => { G with storeBuf := G.storeBuf - 1 }).dropHold g .storeBuffer (s.clk g) :=
  if_neg kept

/-! ### O56 -/

/-- Settles O56: EXPAND by whether it fits, and each block and row by what its reads met. -/
theorem expanderAndRows : Obligations.ExpanderAndRows := by
  intro s t g x
  refine ⟨?expand, fun r cur up => ⟨?decode, ?row, ?arrival, ?absent, ?reread⟩, ?drain⟩
  case expand =>
    intro y r a due m n first
    refine ⟨fun missing => congrArg Host.Outcome.next (State.expand_of_no_tensor due missing), fun tn tensor => ?_⟩
    intro busy ok z
    have expand : x.expand g = _ := State.expand_of_tensor due tensor
    refine ⟨fun bad => ?_, fun good plain => ?_, fun good factor => ?_⟩
    · exact congrArg Host.Outcome.next (expand.trans (if_neg (ne_true_of_eq_false bad)))
    · exact congrArg Host.Outcome.next (expand.trans ((if_pos good).trans (if_neg (by omega))))
    · exact congrArg Host.Outcome.next (expand.trans ((if_pos good).trans (if_pos factor)))
  case decode =>
    exact fun e tn late reads due goes tensor =>
      congrArg Host.Outcome.next (State.blockDecode_of_due cur up reads due goes tensor)
  case row =>
    intro clear u w read lacks
    refine ⟨fun full early => congrArg Host.Outcome.next (State.memoryRowArrival_of_full cur lacks read full early),
      fun room => ?_⟩
    intro place lost
    have arrival : x.memoryRowArrival g u read = x.takeRow g w u read :=
      State.memoryRowArrival_of_room cur up lacks read clear room
    refine ⟨fun h => ?_, fun kept clean => ?_, fun c o kept at_ corrected => ?_⟩
    · exact congrArg Host.Outcome.next (arrival.trans (State.takeRow_of_lost h))
    · exact congrArg Host.Outcome.next (arrival.trans (State.takeRow_of_clean kept clean))
    · exact congrArg Host.Outcome.next (arrival.trans (State.takeRow_of_correctable kept at_ corrected))
  case arrival =>
    exact fun e waits => congrArg Host.Outcome.next (State.expanderBlockArrival_of_late cur up waits)
  case absent =>
    exact fun absent free => congrArg Host.Outcome.next (State.rowDue_of_absent cur up absent free)
  case reread =>
    intro w u rest read oldest rereads z running
    exact congrArg Host.Outcome.next (State.rereadArrival_of_transfer cur up read oldest rereads running)
  case drain => exact fun kept => congrArg Host.Outcome.next (State.storeBufferDrain_of_kept kept)

end Sys2Proof.Machine
end

section
/-! PROOFS. The memory address map (R226), O46. -/

namespace Sys2Proof.Machine

/-! ### Channels in use and retired channels -/

theorem State.mem_active {s : State} {c : Nat} : c ∈ s.active ↔ c < 48 ∧ (s.memCh c).st ≠ 2 := by
  simp [State.active]

theorem State.mem_retiredChs {s : State} {c : Nat} : c ∈ s.retiredChs ↔ c < 48 ∧ (s.memCh c).st = 2 := by
  simp [State.retiredChs]

theorem State.active_nodup (s : State) : s.active.Nodup := List.nodup_range.filter _

/-- In a list that ascends, the elements below a bound come first. -/
theorem takeWhile_lt_eq_filter {l : List Nat} (up : l.Pairwise (· < ·)) (g : Nat) :
    l.takeWhile (· < g) = l.filter (· < g) := by
  induction up with
  | nil => rfl
  | @cons a l above _ ih =>
    by_cases low : a < g
    · simp [low, ih]
    · have rest : l.filter (· < g) = [] := List.filter_eq_nil_iff.2 fun b hb => by
        simpa using (Nat.not_lt.1 low).trans (above b hb).le
      simp [low, rest]

/-- The rank of channel `g` among the retired channels, in ascending channel number (R226). -/
def State.retiredRank (s : State) (g : Nat) : Nat := (s.retiredChs.filter (· < g)).length

theorem State.length_takeWhile_retiredChs (s : State) (g : Nat) :
    (s.retiredChs.takeWhile (· < g)).length = s.retiredRank g :=
  congrArg List.length (takeWhile_lt_eq_filter (List.pairwise_lt_range.filter _) g)

theorem State.retiredRank_lt_length {s : State} {g : Nat} (h : g ∈ s.retiredChs) :
    s.retiredRank g < s.retiredChs.length :=
  List.length_filter_lt_length_iff_exists.2 ⟨g, h, by simp⟩

/-- A retired channel counts in the rank of every later one. -/
theorem State.retiredRank_lt_of_lt {s : State} {g h : Nat} (lt : g < h) (mem : g ∈ s.retiredChs) :
    s.retiredRank g < s.retiredRank h := by
  have within : s.retiredChs.filter (· < g) = (s.retiredChs.filter (· < h)).filter (· < g) := by
    rw [List.filter_filter]
    refine List.filter_congr fun c _ => ?_
    rw [Bool.eq_iff_iff]
    simp only [decide_eq_true_eq, Bool.and_eq_true]
    omega
  rw [State.retiredRank, within]
  exact List.length_filter_lt_length_iff_exists.2 ⟨g, by simp [mem, lt], by simp⟩

theorem State.retiredRank_inj {s : State} {g h : Nat} (hg : g ∈ s.retiredChs) (hh : h ∈ s.retiredChs)
    (same : s.retiredRank g = s.retiredRank h) : g = h := by
  rcases Nat.lt_trichotomy g h with lt | eq | lt
  · exact absurd same (State.retiredRank_lt_of_lt lt hg).ne
  · exact eq
  · exact absurd same (State.retiredRank_lt_of_lt lt hh).ne'

/-! ### The interleaved index space -/

/-- Where interleaved index `i` lies: in stripe `i / 4096`, on the channels in use in turn (R226). -/
def State.ilPlace (s : State) (i : Nat) : Nat × Nat :=
  (s.active.getD (i / 4096 % s.active.length) 0,
    s.nearBytes + i / 4096 / s.active.length * 4096 + i % 4096)

theorem State.active_length_pos {s : State} {i : Nat} (h : i < s.ilSize) : 0 < s.active.length :=
  Nat.pos_of_mul_pos_right (Nat.zero_lt_of_lt h)

theorem State.ilResolve_of_lt {s : State} {i : Nat} (h : i < s.ilSize) : s.ilResolve i = some (s.ilPlace i) := by
  have room : ¬ (s.active.length = 0 ∨ s.ilSize ≤ i) := by
    have := State.active_length_pos h
    omega
  rw [State.ilPlace, Nat.mul_comm _ 4096]
  exact if_neg room

/-- Near windows and stripes fill a channel exactly. -/
theorem State.chanBytes_sub_nearBytes (s : State) :
    chanBytes - s.nearBytes = 4096 * (2 ^ 16 * (36 - s.cfg.nearSize)) := by
  unfold chanBytes State.nearBytes
  omega

theorem State.ilPlace_mem_active {s : State} {i : Nat} (h : i < s.ilSize) : (s.ilPlace i).1 ∈ s.active := by
  have lt := Nat.mod_lt (i / 4096) (State.active_length_pos h)
  rw [State.ilPlace, List.getD_eq_getElem _ _ lt]
  exact List.getElem_mem lt

theorem State.nearBytes_le_ilPlace (s : State) (i : Nat) : s.nearBytes ≤ (s.ilPlace i).2 := by
  rw [State.ilPlace]
  omega

theorem State.ilPlace_lt_chanBytes {s : State} {i : Nat} (h : i < s.ilSize) : (s.ilPlace i).2 < chanBytes := by
  rw [State.ilSize, State.chanBytes_sub_nearBytes] at h
  have stripe : i / 4096 < s.active.length * (2 ^ 16 * (36 - s.cfg.nearSize)) := by
    refine Nat.div_lt_of_lt_mul (h.trans_eq ?_)
    ring
  have row := Nat.div_lt_of_lt_mul stripe
  unfold State.ilPlace chanBytes State.nearBytes
  dsimp only
  omega

/-- No two indices lie at one channel offset. -/
theorem State.ilPlace_inj {s : State} {i j : Nat} (hi : i < s.ilSize) (hj : j < s.ilSize)
    (same : s.ilPlace i = s.ilPlace j) : i = j := by
  obtain ⟨channel, offset⟩ := Prod.mk.inj same
  have li := Nat.mod_lt (i / 4096) (State.active_length_pos hi)
  have lj := Nat.mod_lt (j / 4096) (State.active_length_pos hj)
  rw [List.getD_eq_getElem _ _ li, List.getD_eq_getElem _ _ lj, s.active_nodup.getElem_inj_iff] at channel
  have row : i / 4096 / s.active.length = j / 4096 / s.active.length := by omega
  have stripe : i / 4096 = j / 4096 := by
    rw [← Nat.div_add_mod (i / 4096) s.active.length, row, channel, Nat.div_add_mod]
  omega

/-! ### Addresses -/

/-- The interleaved index of address `a` in the near window of a retired channel (R226). -/
def State.windowIndex (s : State) (a : Nat) : Nat :=
  s.ilSize - (s.retiredChs.length - s.retiredRank (a / s.nearBytes)) * s.nearBytes + a % s.nearBytes

/-- The part of the index space that the addresses past the near windows have. -/
def State.farSize (s : State) : Nat := s.ilSize - s.retiredChs.length * s.nearBytes

/-- A near window belongs to one of the 48 channels. -/
theorem State.window_lt {s : State} {a : Nat} (near : a < s.ilBase) : a / s.nearBytes < 48 :=
  Nat.div_lt_of_lt_mul (near.trans_eq (Nat.mul_comm ..))

theorem State.mod_nearBytes_lt {s : State} {a : Nat} (near : a < s.ilBase) : a % s.nearBytes < s.nearBytes :=
  Nat.mod_lt a (Nat.pos_of_mul_pos_left (Nat.zero_lt_of_lt near))

theorem State.resolve_of_used {s : State} {a : Nat} (near : a < s.ilBase)
    (used : (s.memCh (a / s.nearBytes)).st ≠ 2) : s.resolve a = some (a / s.nearBytes, a % s.nearBytes) := by
  rw [State.resolve]
  exact (if_pos near).trans (if_pos (by simpa using used))

theorem State.resolve_far {s : State} {i : Nat} (h : i < s.farSize) :
    s.resolve (s.ilBase + i) = some (s.ilPlace i) := by
  have at_ : s.ilBase + i - 48 * s.nearBytes = i := Nat.add_sub_cancel_left ..
  rw [State.resolve, ← State.ilResolve_of_lt (h.trans_le (Nat.sub_le ..))]
  refine (if_neg (Nat.not_lt.2 (Nat.le_add_right ..))).trans ?_
  dsimp only
  rw [at_]
  exact if_pos h

theorem State.resolve_beyond {s : State} {i : Nat} (h : s.farSize ≤ i) : s.resolve (s.ilBase + i) = none := by
  have at_ : s.ilBase + i - 48 * s.nearBytes = i := Nat.add_sub_cancel_left ..
  rw [State.resolve]
  refine (if_neg (Nat.not_lt.2 (Nat.le_add_right ..))).trans ?_
  dsimp only
  rw [at_]
  exact if_neg (Nat.not_lt.2 h)

section Window

variable {s : State} {a : Nat} (fits : s.retiredChs.length * s.nearBytes ≤ s.ilSize) (near : a < s.ilBase)
  (gone : (s.memCh (a / s.nearBytes)).st = 2)

include near gone

theorem State.window_mem_retiredChs : a / s.nearBytes ∈ s.retiredChs :=
  State.mem_retiredChs.2 ⟨State.window_lt near, gone⟩

/-- The windows from this one on take at least one window of the index space, and at most all of them. -/
theorem State.windows_from :
    s.nearBytes ≤ (s.retiredChs.length - s.retiredRank (a / s.nearBytes)) * s.nearBytes
      ∧ (s.retiredChs.length - s.retiredRank (a / s.nearBytes)) * s.nearBytes ≤ s.retiredChs.length * s.nearBytes :=
  ⟨Nat.le_mul_of_pos_left _ (Nat.sub_pos_of_lt (State.retiredRank_lt_length (State.window_mem_retiredChs near gone))),
    Nat.mul_le_mul_right _ (Nat.sub_le ..)⟩

include fits

/-- Retired windows lie at the top of the index space. -/
theorem State.windowIndex_range : s.farSize ≤ s.windowIndex a ∧ s.windowIndex a < s.ilSize := by
  obtain ⟨one, all⟩ := State.windows_from near gone
  have inside := State.mod_nearBytes_lt near
  unfold State.windowIndex State.farSize
  omega

theorem State.resolve_of_retired : s.resolve a = some (s.ilPlace (s.windowIndex a)) := by
  obtain ⟨-, all⟩ := State.windows_from near gone
  obtain ⟨-, lt⟩ := State.windowIndex_range fits near gone
  rw [← State.ilResolve_of_lt lt, State.resolve]
  refine (if_pos near).trans ((if_neg (by simpa using gone)).trans ?_)
  dsimp only
  rw [State.length_takeWhile_retiredChs, if_pos (by omega), State.windowIndex]
  congr 1
  omega

end Window

/-- Address `a` has interleaved index `i` (R226). -/
def State.hasIndex (s : State) (a i : Nat) : Prop :=
  (a < s.ilBase ∧ (s.memCh (a / s.nearBytes)).st = 2 ∧ i = s.windowIndex a) ∨ (a = s.ilBase + i ∧ i < s.farSize)

/-- What an address resolves to: a byte of its own near window, or the place of its index. -/
theorem State.resolve_eq_some {s : State} {a : Nat} {p : Nat × Nat}
    (fits : s.retiredChs.length * s.nearBytes ≤ s.ilSize) (h : s.resolve a = some p) :
    (a < s.ilBase ∧ (s.memCh (a / s.nearBytes)).st ≠ 2 ∧ p = (a / s.nearBytes, a % s.nearBytes))
      ∨ ∃ i, s.hasIndex a i ∧ p = s.ilPlace i := by
  by_cases near : a < s.ilBase
  · by_cases gone : (s.memCh (a / s.nearBytes)).st = 2
    · rw [State.resolve_of_retired fits near gone] at h
      exact .inr ⟨_, .inl ⟨near, gone, rfl⟩, (Option.some.inj h).symm⟩
    · rw [State.resolve_of_used near gone] at h
      exact .inl ⟨near, gone, (Option.some.inj h).symm⟩
  · obtain ⟨i, rfl⟩ := Nat.exists_eq_add_of_le (Nat.not_lt.1 near)
    by_cases far : i < s.farSize
    · rw [State.resolve_far far] at h
      exact .inr ⟨i, .inr ⟨rfl, far⟩, (Option.some.inj h).symm⟩
    · rw [State.resolve_beyond (Nat.not_lt.1 far)] at h
      cases h

theorem State.lt_ilSize_of_hasIndex {s : State} {a i : Nat} (fits : s.retiredChs.length * s.nearBytes ≤ s.ilSize)
    (h : s.hasIndex a i) : i < s.ilSize := by
  rcases h with ⟨near, gone, rfl⟩ | ⟨-, far⟩
  · exact (State.windowIndex_range fits near gone).2
  · exact far.trans_le (Nat.sub_le ..)

/-- No two addresses in near windows of retired channels have one index. -/
theorem State.windowIndex_inj {s : State} {a b : Nat} (fits : s.retiredChs.length * s.nearBytes ≤ s.ilSize)
    (na : a < s.ilBase) (ga : (s.memCh (a / s.nearBytes)).st = 2)
    (nb : b < s.ilBase) (gb : (s.memCh (b / s.nearBytes)).st = 2) (same : s.windowIndex a = s.windowIndex b) :
    a = b := by
  have ra := State.mod_nearBytes_lt na
  have rb := State.mod_nearBytes_lt nb
  obtain ⟨-, la⟩ := State.windows_from na ga
  obtain ⟨-, lb⟩ := State.windows_from nb gb
  have ma := State.window_mem_retiredChs na ga
  have mb := State.window_mem_retiredChs nb gb
  have balance : a % s.nearBytes + (s.retiredChs.length - s.retiredRank (b / s.nearBytes)) * s.nearBytes
      = b % s.nearBytes + (s.retiredChs.length - s.retiredRank (a / s.nearBytes)) * s.nearBytes := by
    unfold State.windowIndex at same
    omega
  have windows : s.retiredChs.length - s.retiredRank (b / s.nearBytes)
      = s.retiredChs.length - s.retiredRank (a / s.nearBytes) := by
    have := congrArg (· / s.nearBytes) balance
    have pos := Nat.zero_lt_of_lt ra
    simpa only [Nat.add_mul_div_right _ _ pos, Nat.div_eq_of_lt ra, Nat.div_eq_of_lt rb, Nat.zero_add] using this
  have window : a / s.nearBytes = b / s.nearBytes := by
    refine State.retiredRank_inj ma mb ?_
    have := State.retiredRank_lt_length ma
    have := State.retiredRank_lt_length mb
    omega
  rw [windows] at balance
  rw [← Nat.div_add_mod a s.nearBytes, ← Nat.div_add_mod b s.nearBytes, window, Nat.add_right_cancel balance]

/-- No two addresses have one index: the retired windows lie above the far addresses. -/
theorem State.hasIndex_inj {s : State} {a b i : Nat} (fits : s.retiredChs.length * s.nearBytes ≤ s.ilSize)
    (ha : s.hasIndex a i) (hb : s.hasIndex b i) : a = b := by
  rcases ha with ⟨na, ga, ia⟩ | ⟨ia, fa⟩ <;> rcases hb with ⟨nb, gb, ib⟩ | ⟨ib, fb⟩
  · exact State.windowIndex_inj fits na ga nb gb (ia.symm.trans ib)
  · exact absurd (ia ▸ fb) (Nat.not_lt.2 (State.windowIndex_range fits na ga).1)
  · exact absurd (ib ▸ fa) (Nat.not_lt.2 (State.windowIndex_range fits nb gb).1)
  · exact ia.trans ib.symm

/-- Every address lies within the data bytes of a channel in use. -/
theorem State.resolve_place {s : State} {a : Nat} {p : Nat × Nat} (small : s.cfg.nearSize ≤ 35)
    (fits : s.retiredChs.length * s.nearBytes ≤ s.ilSize) (h : s.resolve a = some p) :
    p.1 ∈ s.active ∧ p.2 < chanBytes := by
  rcases State.resolve_eq_some fits h with ⟨near, used, rfl⟩ | ⟨i, index, rfl⟩
  · have inside := State.mod_nearBytes_lt near
    refine ⟨State.mem_active.2 ⟨State.window_lt near, used⟩, inside.trans ?_⟩
    unfold State.nearBytes chanBytes
    omega
  · have lt := State.lt_ilSize_of_hasIndex fits index
    exact ⟨State.ilPlace_mem_active lt, State.ilPlace_lt_chanBytes lt⟩

/-- A near window of a channel in use lies below the stripes. -/
theorem State.window_ne_ilPlace {s : State} {a i : Nat} (near : a < s.ilBase) :
    (a / s.nearBytes, a % s.nearBytes) ≠ s.ilPlace i := by
  intro same
  have offset : a % s.nearBytes = (s.ilPlace i).2 := congrArg Prod.snd same
  exact absurd (offset ▸ s.nearBytes_le_ilPlace i) (Nat.not_le.2 (State.mod_nearBytes_lt near))

/-- No two addresses lie at one channel offset. -/
theorem State.resolve_inj {s : State} {a b : Nat} {p : Nat × Nat}
    (fits : s.retiredChs.length * s.nearBytes ≤ s.ilSize) (ha : s.resolve a = some p) (hb : s.resolve b = some p) :
    a = b := by
  rcases State.resolve_eq_some fits ha with ⟨na, -, pa⟩ | ⟨i, ia, pa⟩ <;>
    rcases State.resolve_eq_some fits hb with ⟨nb, -, pb⟩ | ⟨j, jb, pb⟩
  · obtain ⟨window, inside⟩ := Prod.mk.inj (pa.symm.trans pb)
    rw [← Nat.div_add_mod a s.nearBytes, window, inside, Nat.div_add_mod]
  · exact absurd (pa.symm.trans pb) (State.window_ne_ilPlace na)
  · exact absurd (pb.symm.trans pa) (State.window_ne_ilPlace nb)
  · obtain rfl := State.ilPlace_inj (State.lt_ilSize_of_hasIndex fits ia) (State.lt_ilSize_of_hasIndex fits jb)
      (pa.symm.trans pb)
    exact State.hasIndex_inj fits ia jb

/-! ### O46 -/

/-- Settles O46, from what each kind of address resolves to. -/
theorem memoryAddressMap : Obligations.MemoryAddressMap := by
  intro s n size gone at_ small fits
  refine ⟨fun a near used => State.resolve_of_used near used,
    fun a near retired => State.resolve_of_retired fits near retired, fun i far => State.resolve_far far,
    fun i far => State.resolve_beyond far, fun a p h => ?_, fun a b p ha hb => State.resolve_inj fits ha hb⟩
  obtain ⟨channel, offset⟩ := State.resolve_place small fits h
  obtain ⟨lt, used⟩ := State.mem_active.1 channel
  exact ⟨lt, used, offset⟩

end Sys2Proof.Machine
end

section
/-! PROOFS. SPILL_ASSIGN and POWER_CAP_SET (R239, R317, R318, R320), O22. -/

namespace Sys2Proof.Machine

open Sys2Proof.Safety

/-! ### SPILL_ASSIGN (R239) -/

theorem effSpillAssign_of_free {s : State} (base size : Nat) (i : Inflight) (free : s.spillAlloc = []) :
    effSpillAssign base size i s =
      ({ s with spill := if size = 0 then none else some ⟨base, size⟩ } : State).finish i.id stSuccess [] :=
  if_neg (by simp [free])

/-- A home in the spill region keeps the region as it is. -/
theorem effSpillAssign_of_home {s : State} (base size : Nat) (i : Inflight) (home : s.spillAlloc ≠ []) :
    effSpillAssign base size i s = s.failCmd i.id stInvalidParam :=
  if_pos (by simpa using home)

/-! ### The cap in force (R317, R318) -/

/-- The power figures under a new cap. -/
def Power.withCap (p : Power) (cap : Nat) : Power := ({ p with capSet := cap } : Power).unthrottled

theorem Power.withCap_caps (p : Power) (cap : Nat) :
    (p.withCap cap).capSet = cap ∧ (p.withCap cap).thermalCap = p.thermalCap := by
  unfold Power.withCap Power.unthrottled
  split <;> exact ⟨rfl, rfl⟩

theorem Power.withCap_of_full {p : Power} {cap : Nat} (full : 850 ≤ min cap p.thermalCap) :
    p.withCap cap = { p with capSet := cap, l := 0, m := 0 } := if_pos full

theorem Power.withCap_of_capped {p : Power} {cap : Nat} (capped : min cap p.thermalCap < 850) :
    p.withCap cap = { p with capSet := cap } := if_neg (Nat.not_le.2 capped)

theorem effPowerCapSet_eq (cap : Nat) (i : Inflight) (s : State) :
    effPowerCapSet cap i s =
      (({ s with power := s.power.withCap cap } : State).finish i.id stSuccess []).resumeLoads := rfl

/-! ### O22 -/

/-- Settles O22: SPILL_ASSIGN by whether a home lies in the region, POWER_CAP_SET by the cap then in force. -/
theorem spillAndCapAreSet : Obligations.SpillAndCapAreSet := by
  intro s t h
  refine ⟨fun base size k => ?spill, fun cap k => ?cap⟩
  case spill =>
    intro x
    rw [exec_of_executes (eff := effSpillAssign base size) rfl k]
    refine ⟨fun free => ?_, fun home => ?_⟩
    · rw [effSpillAssign_of_free base size _ free, entryOf_id]
    · rw [effSpillAssign_of_home base size _ home, entryOf_id]
  case cap =>
    intro x
    obtain ⟨set, thermal⟩ := x.power.withCap_caps cap
    refine ⟨{ x with power := x.power.withCap cap }, ?_, set, thermal, fun full => ?_, fun capped => ?_⟩
    · rw [exec_of_executes (eff := effPowerCapSet cap) rfl k, effPowerCapSet_eq, entryOf_id]
    · rw [Power.withCap_of_full full]
      exact ⟨rfl, rfl⟩
    · rw [Power.withCap_of_capped capped]
      exact ⟨rfl, rfl⟩

end Sys2Proof.Machine
end

section
/-! PROOFS. The start events of Table 17-3: the groups leave reset, and the start-up injection ends (R240, R358, R366,
R367), O39. -/

namespace Sys2Proof.Machine

/-! ### What the journal makes of the channels (R236, R240, R358) -/

theorem State.memCh_congr {s s' : State} (h : s'.channels = s.channels) (c : Nat) : s'.memCh c = s.memCh c := by
  rw [State.memCh, State.memCh, h]

theorem State.allRecords_congr {s s' : State} (h : s'.repair = s.repair) : s'.allRecords = s.allRecords := by
  rw [State.allRecords, State.allRecords, h]

@[simp] theorem State.logEvent_memCh (s : State) (code unit cluster status : Nat) (data : List Byte) (c : Nat) :
    (s.logEvent code unit cluster status data).memCh c = s.memCh c :=
  State.memCh_congr ((keeps_logEvent (Sub.refl _) (.rfl (s := s)) code unit cluster status data).same .channels rfl) c

/-- The state in which a start leaves channel `c`: 2 (RETIRED) with a KIND 5 record, else 0. -/
def startState (l : List Record) (c : Nat) : Nat := if (channelRecords l 5 c).isEmpty then 0 else 2

@[simp] theorem State.startChannel_allRecords (s : State) (c : Nat) : (s.startChannel c).allRecords = s.allRecords :=
  State.allRecords_congr ((keeps_startChannel (Sub.refl _) (.rfl (s := s)) c).same .repair rfl)

theorem State.startChannel_st (s : State) (c : Nat) : ((s.startChannel c).memCh c).st = startState s.allRecords c := by
  unfold State.startChannel startState
  dsimp only
  split
  · rw [State.logEvent_memCh, State.setMemCh_memCh_self]
    cases (channelRecords s.allRecords 5 c).isEmpty <;> rfl
  · rw [State.setMemCh_memCh_self]
    cases (channelRecords s.allRecords 5 c).isEmpty <;> rfl

theorem State.startChannel_memCh_of_ne {s : State} {c d : Nat} (h : d ≠ c) :
    (s.startChannel c).memCh d = s.memCh d := by
  unfold State.startChannel
  dsimp only
  split
  · rw [State.logEvent_memCh, State.setMemCh_memCh_of_ne _ _ h]
  · exact State.setMemCh_memCh_of_ne _ _ h

/-- Each of the channels that a start goes through ends as its records say, in whatever order they come. -/
theorem State.startChannels_st {l : List Nat} {c : Nat} (mem : c ∈ l) (s : State) :
    ((l.foldl (fun s c => s.startChannel c) s).memCh c).st = startState s.allRecords c := by
  induction l using List.reverseRecOn with
  | nil => cases mem
  | append_singleton l d ih =>
    have records : (l.foldl (fun s c => s.startChannel c) s).allRecords = s.allRecords := by
      refine State.allRecords_congr (Keeps.same (F := 0x80400000) ?_ .repair rfl)
      exact Keeps.foldl (fun _ a => keeps_startChannel (Sub.refl _) .rfl a) l s .rfl
    rw [List.foldl_append, List.foldl_cons, List.foldl_nil]
    by_cases same : c = d
    · rw [same, State.startChannel_st, records]
    · rw [State.startChannel_memCh_of_ne same]
      exact ih (by simpa [same] using mem)

/-! ### The groups leave reset (R361) -/

/-- When the groups leave reset the channels are as the journal leaves them, and nothing of the groups' own part in it
changes them or the life cycle. -/
theorem State.startGroups_of_booted {s : State} (booted : s.life.phase = .booted) :
    ∃ y : State, Keeps 0x1a49c1a70 y s.startGroups ∧ y.life.phase = .injecting
      ∧ y.channels = ((List.range 48).foldl (fun s c => s.startChannel c) s).channels := by
  have groups (y : State) : Keeps 0x1a49c1a70 y ((List.range 48).foldl (fun s g => s.startGroup g) y) :=
    Keeps.foldl (fun _ g => keeps_startGroup (Sub.refl _) .rfl g) _ y .rfl
  rw [State.startGroups, if_pos booted]
  generalize (List.range 48).foldl (fun s c => s.startChannel c) s = y at *
  dsimp only
  split
  · exact ⟨_, (keeps_setService (by decide) .rfl).trans (groups _), rfl, rfl⟩
  · exact ⟨_, groups _, rfl, rfl⟩

/-! ### The start-up injection (R366, R367) -/

/-- An injection that every detector answers logs its verdict, sets LATENT, and does nothing else. -/
theorem State.injectionVerdict_nil (s : State) :
    ∃ data first, let y := s.logEvent 0x0003 noUnit noUnit 0 data
      Keeps 0x40000 { y with repair := { y.repair with latentFaults := 0, firstLatent := first } }
        (s.injectionVerdict []) := by
  simp only [State.injectionVerdict, State.latentFaults, List.map_nil, List.eraseDups_nil, List.length_nil,
    List.foldl_nil]
  exact ⟨_, _, Keeps.foldl (fun _ _ => keeps_modGrp (Sub.refl _) .rfl _ _) _ _ .rfl⟩

theorem State.injectionVerdict_nil_life (s : State) : (s.injectionVerdict []).life = s.life := by
  obtain ⟨data, first, keeps⟩ := s.injectionVerdict_nil
  exact (keeps.same .life rfl).trans (s.logEvent_life 0x0003 noUnit noUnit 0 data)

theorem State.injectionVerdict_nil_repair (s : State) :
    ∃ first, (s.injectionVerdict []).repair = { s.repair with latentFaults := 0, firstLatent := first } := by
  obtain ⟨data, first, keeps⟩ := s.injectionVerdict_nil
  have logged : (s.logEvent 0x0003 noUnit noUnit 0 data).repair = s.repair :=
    (keeps_logEvent (Sub.refl _) (.rfl (s := s)) ..).same .repair rfl
  exact ⟨first, (keeps.same .repair rfl).trans (by rw [logged])⟩

/-- A power-up with no latent fault ends in a device that is ready. -/
theorem State.injectionEnd_ready {s : State} (injecting : s.life.phase = .injecting)
    (serves : s.repair.startFail = false) (start : s.life.kind = .powerUp) :
    (s.injectionEnd []).isReady = true ∧ (s.injectionEnd []).repair.latentFaults = 0 := by
  have life := s.injectionVerdict_nil_life
  obtain ⟨first, repair⟩ := s.injectionVerdict_nil_repair
  have ends : s.injectionEnd [] = (s.injectionVerdict []).becomeReady := by
    rw [State.injectionEnd, if_pos injecting]
    simp [life, repair, serves, start]
  have ready : s.injectionEnd [] = _ := ends.trans (if_pos (by rw [life, start]))
  rw [ready]
  exact ⟨rfl, congrArg Repair.latentFaults repair⟩

/-! ### O39 -/

/-- Settles O39, event by event. -/
theorem startEvents : Obligations.StartEvents := by
  intro s t x
  refine ⟨fun booted => ?leave, fun injecting serves start => ?inject⟩
  case leave =>
    obtain ⟨y, keeps, phase, channels⟩ := State.startGroups_of_booted booted
    have life : x.startGroups.life = y.life := keeps.same .life rfl
    refine ⟨x.startGroups, rfl, by rw [life, phase], fun c lt => ?_⟩
    rw [State.memCh_congr ((keeps.same .channels rfl).trans channels)]
    exact State.startChannels_st (List.mem_range.2 lt) x
  case inject =>
    exact ⟨x.injectionEnd [], rfl, State.injectionEnd_ready injecting serves start⟩

end Sys2Proof.Machine
end

section
/-! PROOFS. The memory channels' own events and the memory window (R225, R233 to R238, R240, R278, R370, R416), O48. -/

namespace Sys2Proof.Machine

/-! ### The verdict of a row (R225, R233) -/

/-- A half of the row meets an error that its code detects and cannot correct. -/
def rowDetected (r : RowRead) : Prop :=
  (r.lower.misplaced = true ∨ 2 ≤ r.lower.bytes) ∨ (r.upper.misplaced = true ∨ 2 ≤ r.upper.bytes)

/-- A row read without an error. -/
def rowClean (r : RowRead) : Prop := r = ⟨⟨0, false⟩, ⟨0, false⟩⟩

theorem halfDetected_iff {h : HalfRead} : halfDetected h = true ↔ h.misplaced = true ∨ 2 ≤ h.bytes := by
  simp [halfDetected]

theorem rowVerdict_of_clean {r : RowRead} (h : rowClean r) : rowVerdict r = .clean := by
  subst h
  rfl

theorem rowVerdict_of_detected {r : RowRead} (h : rowDetected r) : rowVerdict r = .uncorrectable :=
  if_pos (by rw [Bool.or_eq_true, halfDetected_iff, halfDetected_iff]; exact h)

/-- What a half meets where its code detects nothing: no error, or one wrong byte that the code corrects. -/
theorem half_of_undetected {h : HalfRead} (k : ¬ halfDetected h = true) :
    h = ⟨0, false⟩ ∨ halfCorrected h = true := by
  obtain ⟨bytes, misplaced⟩ := h
  simp only [halfDetected_iff, not_or, Bool.not_eq_true, Nat.not_le] at k
  obtain ⟨rfl, few⟩ := k
  rcases Nat.lt_succ_iff_lt_or_eq.1 few with zero | rfl
  · exact .inl (by rw [Nat.lt_one_iff.1 zero])
  · exact .inr rfl

theorem rowVerdict_of_corrected {r : RowRead} (few : ¬ rowDetected r) (marked : ¬ rowClean r) :
    rowVerdict r = .correctable := by
  have undetected : ¬ (halfDetected r.lower || halfDetected r.upper) = true := by
    rw [Bool.or_eq_true, halfDetected_iff, halfDetected_iff]
    exact few
  refine (if_neg undetected).trans (if_pos ?_)
  rw [Bool.or_eq_true, not_or] at undetected
  obtain ⟨lower, upper⟩ := undetected
  rw [Bool.or_eq_true]
  refine (half_of_undetected lower).elim (fun l => (half_of_undetected upper).elim (fun u => ?_) .inr) .inl
  exact absurd (congrArg₂ RowRead.mk l u) marked

/-! ### What a read of a row meets (R233, R235) -/

section Meet

variable {s : State} {c o : Nat} {first again : RowRead}

theorem State.isDamaged_iff : s.isDamaged (some (c, o)) = true ↔ o ∈ (s.memCh c).damaged :=
  List.contains_iff_mem

theorem State.meetRow_of_stored (h : o ∈ (s.memCh c).damaged ∨ (rowDetected first ∧ rowDetected again)) :
    s.meetRow c o first again = (s.storedError c o, true) := by
  rcases h with damaged | ⟨hf, ha⟩
  · simp [State.meetRow, State.isDamaged_iff.2 damaged]
  · simp [State.meetRow, rowVerdict_of_detected hf, rowVerdict_of_detected ha]

variable (whole : o ∉ (s.memCh c).damaged)

include whole

theorem State.isDamaged_of_whole : s.isDamaged (some (c, o)) = false :=
  Bool.eq_false_iff.2 (mt State.isDamaged_iff.1 whole)

theorem State.meetRow_of_clean (h : rowClean first) : s.meetRow c o first again = (s, false) := by
  simp [State.meetRow, State.isDamaged_of_whole whole, rowVerdict_of_clean h]

theorem State.meetRow_of_corrected (few : ¬ rowDetected first) (marked : ¬ rowClean first) :
    s.meetRow c o first again = (s.memCorrected c o, false) := by
  simp [State.meetRow, State.isDamaged_of_whole whole, rowVerdict_of_corrected few marked]

theorem State.meetRow_of_reread_clean (hf : rowDetected first) (ha : rowClean again) :
    s.meetRow c o first again = (s.count (chLinkRetries c) 1, false) := by
  simp [State.meetRow, State.isDamaged_of_whole whole, rowVerdict_of_detected hf, rowVerdict_of_clean ha]

theorem State.meetRow_of_reread_corrected (hf : rowDetected first) (few : ¬ rowDetected again)
    (marked : ¬ rowClean again) :
    s.meetRow c o first again = ((s.count (chLinkRetries c) 1).memCorrected c o, false) := by
  simp [State.meetRow, State.isDamaged_of_whole whole, rowVerdict_of_detected hf, rowVerdict_of_corrected few marked]

end Meet

/-! ### Refresh and calibration (R237, R238, R240) -/

section Channel

variable {s : State} {c : Nat} (up : s.channelUp c = true)

/-- When a calibration of channel `c` is due (R238). -/
def State.calibrates (s : State) (c : Nat) : Prop :=
  ((s.grp c).noSlots = true ∧ (s.memCh c).calAt + 80000000 ≤ s.now)
    ∨ ((s.grp c).noSlots = false ∧ s.groupUp c = true ∧ (s.grp c).almSlots % 16 = 0 ∧ (s.memCh c).calAt < s.now
      ∧ ∃ a, (s.grp c).almStart = some a ∧ s.clk c = a + 2000)

theorem State.calibrationDue_iff : s.calibrationDue c = true ↔ s.calibrates c := by
  unfold State.calibrationDue State.calibrates
  cases slots : (s.grp c).noSlots with
  | true =>
    simp only [slots, if_true, decide_eq_true_eq, true_and, Bool.true_eq_false, false_and, or_false]
    rfl
  | false =>
    simp only [slots, Bool.false_eq_true, if_false, Bool.and_eq_true, beq_iff_eq, decide_eq_true_eq, Option.any_eq_true,
      and_assoc, true_and, false_and, false_or]
    rfl

theorem State.calibrate_of_not_due (ok : Bool) (h : ¬ s.calibrates c) : s.calibrate c ok = s :=
  if_neg fun k => h (State.calibrationDue_iff.1 (Bool.and_eq_true_iff.1 k).2)

include up

theorem State.refresh_of_up (temp : Nat) : s.refresh c temp = s.setMemCh c { s.memCh c with tempC := temp } :=
  if_pos up

variable (due : s.calibrates c)

include due

theorem State.calibrate_of_due (ok : Bool) :
    s.calibrate c ok =
      if ok then (s.setMemCh c { s.memCh c with calAt := s.now, calFails := 0 }).count (chCalibrations c) 1
      else
        let s1 := s.setMemCh c { s.memCh c with calAt := s.now, calFails := (s.memCh c).calFails + 1 }
        if 2 ≤ (s.memCh c).calFails + 1 then s1.markFailing c else s1 :=
  if_pos (Bool.and_eq_true_iff.2 ⟨up, State.calibrationDue_iff.2 due⟩)

theorem State.calibrate_of_first_failure (first : (s.memCh c).calFails = 0) :
    s.calibrate c false = s.setMemCh c { s.memCh c with calAt := s.now, calFails := 1 } := by
  rw [State.calibrate_of_due up due, first]
  rfl

theorem State.calibrate_of_second_failure (second : (s.memCh c).calFails = 1) :
    s.calibrate c false = (s.setMemCh c { s.memCh c with calAt := s.now, calFails := 2 }).markFailing c := by
  rw [State.calibrate_of_due up due, second]
  rfl

end Channel

/-! ### Patrol scrub (R233, R236, R278, R370) -/

theorem State.patrol_of_up {s : State} {c off : Nat} (read reread other again : RowRead) (last : Bool)
    (up : s.channelUp c = true) (inside : off < chanBytes) :
    let y := s.meetRow c (off / 64 * 64) read reread
    let i := s.ilIndex c (off / 64 * 64)
    let z := if y.2 = true ∧ s.nearBytes ≤ off / 64 * 64 then (y.1.ctrlMemError i other again).dropHeld i else y.1
    s.patrol c off read reread other again last = if last then z.count (chScrubPasses c) 1 else z := by
  intro y i z
  have go : (s.channelUp c && decide (off < chanBytes)) = true := by simp [up, inside]
  simp only [State.patrol, go, if_true, Bool.and_eq_true, decide_eq_true_eq, y, i, z]

/-! ### The memory window (R272, R416) -/

section Window

variable {s : State} {o : Nat} (read reread : RowRead)

theorem State.windowRead_of_hidden
    (h : s.controlUp = false ∨ o % 4 ≠ 0 ∨ s.windowHidden (s.windowAddr o) = true) :
    s.windowRead o read reread = s.emit (.window o (some 0)) :=
  if_pos (by simpa using h)

theorem State.windowRead_of_row {c off : Nat} (up : s.controlUp = true) (al : o % 4 = 0)
    (shown : s.windowHidden (s.windowAddr o) = false) (place : s.rowPlace (s.windowAddr o) = some (c, off)) :
    s.windowRead o read reread =
      (s.meetRow c off read reread).1.emit (.window o (if (s.meetRow c off read reread).2 then none
        else some (BitVec.ofNat 32 (leNat (s.memRead (s.windowAddr o) 4))))) := by
  have open_ : ¬ ((!s.controlUp) = true ∨ o % 4 ≠ 0 ∨ s.windowHidden (s.windowAddr o) = true) := by
    simp [up, al, shown]
  refine (if_neg open_).trans ?_
  simp only [place]

end Window

/-! ### O48 -/

/-- Settles O48: what a read of a row meets, event by event on a channel in use, and the memory window. -/
theorem memoryChannelEvents : Obligations.MemoryChannelEvents := by
  intro s t c x wrong clean detected whole
  refine ⟨fun k o first again => ?meet, fun up => ⟨fun temp => ?refresh, ⟨?calibrates, ?idle⟩, ?patrol⟩,
    fun o read reread => ?window⟩
  case meet =>
    refine ⟨State.meetRow_of_clean, State.meetRow_of_corrected, State.meetRow_of_reread_clean,
      State.meetRow_of_reread_corrected, fun h => State.meetRow_of_stored (h.imp_left not_not.1)⟩
  case refresh => exact congrArg Host.Outcome.next (State.refresh_of_up up temp)
  case calibrates =>
    intro due
    exact ⟨congrArg Host.Outcome.next (State.calibrate_of_due up due true),
      fun first => congrArg Host.Outcome.next (State.calibrate_of_first_failure up due first),
      fun second => congrArg Host.Outcome.next (State.calibrate_of_second_failure up due second)⟩
  case idle => exact fun idle ok => congrArg Host.Outcome.next (State.calibrate_of_not_due ok idle)
  case patrol =>
    exact fun off read reread other again last inside =>
      congrArg Host.Outcome.next (State.patrol_of_up read reread other again last up inside)
  case window =>
    intro w
    have event : exec (.memoryWindowRead t o read reread) s =
      .next (s.readAccess t .pcie fun s => s.windowRead o read reread) := rfl
    refine ⟨fun unreached => ?_, fun reach => ⟨fun hidden => ?_, fun k off up al shown place => ?_⟩⟩
    · rw [event, State.readAccess_of_unreached unreached]
    · rw [event, State.readAccess_of_reach reach, State.windowRead_of_hidden read reread hidden]
    · rw [event, State.readAccess_of_reach reach, State.windowRead_of_row read reread up al shown place]
      exact ⟨fun ok => by rw [ok]; rfl, fun bad => by rw [bad]; rfl⟩

end Sys2Proof.Machine
end

section
/-! PROOFS. The owner's writes to PORT_CFG, the channel masks and MEMBERS (R244, R247, R262, R263, R267, R273, R362), O34
and O35. -/

namespace Sys2Proof.Machine

open Sys2Proof.Safety

/-! ### Accesses -/

theorem State.access_of_reach {s : State} {t : Nat} {m : Master} {f : State → State}
    (h : (s.atCtrl t).regReach m = true) : s.access t m f = f (s.atCtrl t) := if_pos h

/-- A write that the registers ignore, or that does not reach them, changes nothing. -/
theorem State.access_of_fixed {s : State} {t : Nat} {m : Master} {f : State → State}
    (h : (s.atCtrl t).regReach m = true → f (s.atCtrl t) = s.atCtrl t) : s.access t m f = s.atCtrl t :=
  ite_eq_right_iff.2 h

/-! ### What leaves the ports alone -/

theorem State.prt_congr {s s' : State} (h : s'.ports = s.ports) (p : Nat) : s'.prt p = s.prt p := by
  rw [State.prt, State.prt, h]

@[simp] theorem State.judgeAll_prt (s : State) (p : Nat) : s.judgeAll.prt p = s.prt p :=
  State.prt_congr ((keeps_judgeAll (Sub.refl _) (.rfl (s := s))).same .ports rfl) p

@[simp] theorem State.mapChans_prt (s : State) (q d : Nat) (f : Chan → Chan) (p : Nat) :
    (s.mapChans q d f).prt p = s.prt p :=
  State.prt_congr ((keeps_mapChans (Sub.refl _) (.rfl (s := s)) q d f).same .ports rfl) p

/-! ### PORT_CFG (R244) -/

theorem b2n_bit (v i : Nat) : b2n (bit v i) = v / 2 ^ i % 2 := by
  rcases Nat.mod_two_eq_zero_or_one (v / 2 ^ i) with h | h <;> simp [b2n, bit, h]

/-- PORT_CFG reads as written: its fields are the low 24 bits of the word. -/
theorem Port.withCfg_cfg (r : Port) (v : Nat) : (r.withCfg v).cfg = v % 2 ^ 24 := by
  simp only [Port.cfg, Port.withCfg, b2n_bit, bits]
  omega

@[simp] theorem Port.atEn_cfg (r : Port) (now ctrl : Nat) : (r.atEn now ctrl).cfg = r.cfg := rfl
@[simp] theorem Port.atEn_cfgReject (r : Port) (now ctrl : Nat) : (r.atEn now ctrl).cfgReject = r.cfgReject := rfl
@[simp] theorem Port.atDis_cfg (r : Port) : r.atDis.cfg = r.cfg := rfl
@[simp] theorem Port.atDis_cfgReject (r : Port) : r.atDis.cfgReject = r.cfgReject := rfl

/-- The settings of R244 for the format, the widths, the bit clock and the rate. -/
def Port.legal (n : Port) : Prop :=
  ((n.format < 2 ∧ n.slotCount = 2) ∨ (n.format = 2 ∧ 1 ≤ n.slotCount ∧ n.slotCount ≤ 32))
    ∧ n.slotBits < 3 ∧ n.sampleBits ≤ n.slotBits ∧ n.hz * n.slotCount * bitsOfCode n.slotBits ≤ 49152000 ∧ n.rate < 13

/-- A word has 5 bits for the slots, so that every count of them is one of TDM. -/
theorem Port.withCfg_slots_lt (r : Port) (v : Nat) : (r.withCfg v).slots < 32 := Nat.mod_lt _ (by decide)

theorem Port.cfgOk_iff {n : Port} (h : n.slots < 32) : n.cfgOk = true ↔ n.legal := by
  have format : (if n.format < 2 then n.slots == 1 else n.format == 2) = true ↔
      ((n.format < 2 ∧ n.slotCount = 2) ∨ (n.format = 2 ∧ 1 ≤ n.slotCount ∧ n.slotCount ≤ 32)) := by
    unfold Port.slotCount
    split <;> simp only [beq_iff_eq] <;> omega
  simp only [Port.cfgOk, Bool.and_eq_true, decide_eq_true_eq, format, Port.legal]
  tauto

/-- The settings `n` fit port `p`: R244 in full. -/
def State.cfgFits (s : State) (p : Nat) (n : Port) : Prop :=
  ((s.prt p).en = false ∨ (s.prt p).sameFormat n = true) ∧ n.legal ∧ (n.en = true ∨ s.boundStreams p = [])

theorem State.writePortCfg_eq {s : State} {m : Master} {p v : Nat} (own : s.ownerWrites m = true)
    (open_ : (s.prt p).tapped = false) [Decidable (s.cfgFits p ((s.prt p).withCfg v))] :
    s.writePortCfg m p v =
      if s.cfgFits p ((s.prt p).withCfg v) then s.applyCfg p ((s.prt p).withCfg v)
      else s.setPrt p { s.prt p with cfgReject := true } := by
  have ok := Port.cfgOk_iff ((s.prt p).withCfg_slots_lt v)
  simp only [State.writePortCfg, own, open_, Bool.not_true, Bool.or_self, Bool.false_eq_true, if_false]
  refine if_congr ?_ rfl rfl
  simp only [Bool.and_eq_true, Bool.or_eq_true, Bool.not_eq_true', List.isEmpty_iff, ok, State.cfgFits, and_assoc]

/-- The port after new settings: its chains start or stop with EN. -/
theorem State.applyCfg_prt (s : State) (p : Nat) (n : Port) :
    (s.applyCfg p n).prt p =
      if n.en && !(s.prt p).en then n.atEn s.now s.ctrl else if !n.en && (s.prt p).en then n.atDis else n := by
  unfold State.applyCfg
  dsimp only
  rw [State.judgeAll_prt]
  split <;> simp

theorem State.applyCfg_settings (s : State) (p : Nat) (n : Port) :
    ((s.applyCfg p n).prt p).cfg = n.cfg ∧ ((s.applyCfg p n).prt p).cfgReject = n.cfgReject := by
  rw [State.applyCfg_prt]
  split
  · exact ⟨n.atEn_cfg .., n.atEn_cfgReject ..⟩
  · split
    · exact ⟨n.atDis_cfg, n.atDis_cfgReject⟩
    · exact ⟨rfl, rfl⟩

/-- Settles O34. -/
theorem portCfgWrite : Obligations.PortCfgWrite := by
  intro s t m p v x r n fits reach own open_
  classical
  have event : exec (.portCfgWrite t m p v) s = .next (x.writePortCfg m p v.toNat) :=
    congrArg Host.Outcome.next (State.access_of_reach reach)
  have same : fits ↔ x.cfgFits p n := by
    simp only [fits, State.cfgFits, Port.legal, and_assoc]
    rfl
  rw [event, State.writePortCfg_eq own open_]
  refine ⟨fun h => ?_, fun h => congrArg Host.Outcome.next (if_neg (mt same.2 h))⟩
  obtain ⟨cfg, reject⟩ := x.applyCfg_settings p n
  exact ⟨x.applyCfg p n, congrArg Host.Outcome.next (if_pos (same.1 h)), cfg.trans (r.withCfg_cfg v.toNat), reject⟩

/-! ### Masks and members (R262, R263, R362) -/

section Masks

variable {s : State} {m : Master} {p : Nat} {v : Reg}

theorem State.writeRxMask_of_taken (own : s.ownerWrites m = true) (takes : (s.prt p).takesWrites = true) :
    s.writeRxMask m p v = s.setPrt p { s.prt p with rxMask := v } := if_pos (by rw [own, takes]; rfl)

theorem State.writeTxMask_of_taken (own : s.ownerWrites m = true) (takes : (s.prt p).takesWrites = true) :
    s.writeTxMask m p v = s.setPrt p { s.prt p with txMask := v } := if_pos (by rw [own, takes]; rfl)

/-- A write that does not reach the registers, is not the owner's, or meets a data path in reset or off is ignored. -/
theorem exec_maskWrites_of_ignored {t : Nat} (h : (s.atCtrl t).regReach m = true →
      (s.atCtrl t).ownerWrites m = false ∨ ((s.atCtrl t).prt p).takesWrites = false) :
    exec (.rxMaskWrite t m p v) s = .next (s.atCtrl t) ∧ exec (.txMaskWrite t m p v) s = .next (s.atCtrl t) := by
  have no (reach : (s.atCtrl t).regReach m = true) :
      ¬ ((s.atCtrl t).ownerWrites m && ((s.atCtrl t).prt p).takesWrites) = true := by
    rcases h reach with h | h <;> simp [h]
  exact ⟨congrArg Host.Outcome.next (State.access_of_fixed (f := fun s => s.writeRxMask m p v) fun k => if_neg (no k)),
    congrArg Host.Outcome.next (State.access_of_fixed (f := fun s => s.writeTxMask m p v) fun k => if_neg (no k))⟩

end Masks

/-- The group is IDLE, and no port of `w` belongs to another group. -/
def State.membersFree (s : State) (e : Nat) (w : BitVec 16) : Prop :=
  (s.eqxOf e).st = 0 ∧ ∀ o, o < 4 → o ≠ e → (s.eqxOf o).members &&& w = 0

theorem State.writeMembers_eq {s : State} {m : Master} {e v : Nat} (own : s.ownerWrites m = true)
    [Decidable (s.membersFree e (BitVec.ofNat 16 v))] :
    s.writeMembers m e v =
      if s.membersFree e (BitVec.ofNat 16 v) then s.setEqx e { s.eqxOf e with members := BitVec.ofNat 16 v } else s := by
  unfold State.writeMembers
  dsimp only
  refine if_congr ?_ rfl rfl
  simp [own, State.membersFree]

theorem State.writeMembers_of_foreign {s : State} {m : Master} {e v : Nat} (h : s.ownerWrites m = false) :
    s.writeMembers m e v = s := if_neg (by simp [h])

/-- Settles O35, register by register; what is ignored is ignored of each. -/
theorem masksAndMembers : Obligations.MasksAndMembers := by
  intro s t m p e v x writes w free
  classical
  have members : exec (.membersWrite t m e v) s = .next (s.access t m fun s => s.writeMembers m e v.toNat) := rfl
  refine ⟨fun _ off => exec_maskWrites_of_ignored fun _ => .inr off, fun h takes => ?masks, fun h f => ?taken,
    fun h f => ?kept, fun h => ?ignored⟩
  case masks =>
    obtain ⟨reach, own⟩ := h
    exact ⟨congrArg Host.Outcome.next
        ((State.access_of_reach (f := fun s => s.writeRxMask m p v) reach).trans (State.writeRxMask_of_taken own takes)),
      congrArg Host.Outcome.next
        ((State.access_of_reach (f := fun s => s.writeTxMask m p v) reach).trans (State.writeTxMask_of_taken own takes))⟩
  case taken =>
    obtain ⟨reach, own⟩ := h
    rw [members, State.access_of_reach reach, State.writeMembers_eq own]
    exact congrArg Host.Outcome.next (if_pos f)
  case kept =>
    obtain ⟨reach, own⟩ := h
    rw [members, State.access_of_reach reach, State.writeMembers_eq own]
    exact congrArg Host.Outcome.next (if_neg f)
  case ignored =>
    have foreign (reach : x.regReach m = true) : x.ownerWrites m = false :=
      Bool.eq_false_iff.2 fun own => h ⟨reach, own⟩
    obtain ⟨rx, tx⟩ := exec_maskWrites_of_ignored (p := p) (v := v) fun reach => .inl (foreign reach)
    rw [members, State.access_of_fixed fun reach => State.writeMembers_of_foreign (foreign reach)]
    exact ⟨rx, tx, rfl⟩

end Sys2Proof.Machine
end

section
/-! PROOFS. Equinox groups: ARM, FIRE, DISARM, the restart of the masters, the trigger and the offsets of a window (R263 to
R265, Table 11-8), O36. -/

namespace Sys2Proof.Machine

open Sys2Proof.Safety

/-! ### Ports changed one after the other -/

section Fold

variable {act : State → Nat → State} {seen : State → Prop} {f : Port → Port}

/-- Steps that each change their own port by `f` and leave what they see of the rest change each port of a list without
repetition by `f`, once, and no other. -/
theorem foldl_prt (keeps : ∀ s p, seen s → seen (act s p)) (own : ∀ s p, seen s → (act s p).prt p = f (s.prt p))
    (others : ∀ s p q, seen s → q ≠ p → (act s p).prt q = s.prt q) {l : List Nat} (nodup : l.Nodup) {s : State}
    (h : seen s) (p : Nat) : (l.foldl act s).prt p = if p ∈ l then f (s.prt p) else s.prt p := by
  induction l generalizing s with
  | nil => rfl
  | cons q l ih =>
    obtain ⟨fresh, nodup⟩ := List.nodup_cons.1 nodup
    rw [List.foldl_cons, ih nodup (keeps s q h)]
    by_cases same : p = q
    · subst same
      rw [if_neg fresh, if_pos List.mem_cons_self, own s p h]
    · rw [others s q p h same]
      simp [same]

end Fold

theorem foldl_modPrt_prt {f : Port → Port} {l : List Nat} (nodup : l.Nodup) (s : State) (p : Nat) :
    (l.foldl (fun s p => s.modPrt p f) s).prt p = if p ∈ l then f (s.prt p) else s.prt p :=
  foldl_prt (seen := fun _ => True) (fun _ _ _ => trivial) (fun _ _ _ => State.setPrt_prt_self ..)
    (fun _ _ _ _ ne => State.setPrt_prt_of_ne _ _ ne) nodup trivial p

theorem State.eqxOf_congr {s s' : State} (h : s'.eqx = s.eqx) (e : Nat) : s'.eqxOf e = s.eqxOf e := by
  rw [State.eqxOf, State.eqxOf, h]

theorem foldl_modPrt_eqxOf (f : State → Port → Port) (l : List Nat) (s : State) (e : Nat) :
    (l.foldl (fun s p => s.modPrt p (f s)) s).eqxOf e = s.eqxOf e :=
  State.eqxOf_congr ((Keeps.foldl (fun s p => keeps_modPrt (Sub.refl _) (.rfl (s := s)) p (f s)) l s .rfl).same .eqx rfl) e

theorem Eqx.ports_nodup (q : Eqx) : q.ports.Nodup := List.nodup_range.filter _

/-! ### ARM, FIRE and DISARM (R263, R264) -/

/-- The group is IDLE and its members are enabled at one rate. -/
def State.armsAt (s : State) (q : Eqx) : Prop :=
  q.st = 0 ∧ ∀ p ∈ q.ports, (s.prt p).en = true ∧ (s.prt p).rate = (s.prt (q.ports.headD 0)).rate

/-- The trigger cycle that FIRE asks for, 0 for the earliest. -/
def Eqx.trigger (q : Eqx) : Nat := q.trigLo.toNat + 2 ^ 32 * q.trigHi.toNat

/-- The trigger cycle that FIRE fixes. -/
def State.fireCycle (s : State) (q : Eqx) : Nat := if q.trigger = 0 then s.ctrl + 625 else q.trigger

/-- The group is ARMED and its trigger lies far enough ahead. -/
def State.firesAt (s : State) (q : Eqx) : Prop := q.st = 1 ∧ (q.trigger = 0 ∨ s.ctrl + 625 ≤ q.trigger)

section Commands

variable {s : State} {m : Master} {e : Nat} (own : s.ownerWrites m = true)

include own

theorem State.armEqx_of_refused (h : ¬ s.armsAt (s.eqxOf e)) :
    s.armEqx m e = s.setEqx e { s.eqxOf e with reject := true } := by
  refine (if_neg (by simp [own])).trans (if_neg fun k => h ?_)
  simpa [State.armsAt] using k

theorem State.armEqx_of_arms (h : s.armsAt (s.eqxOf e)) :
    ((s.armEqx m e).eqxOf e).st = 1 ∧ ((s.armEqx m e).eqxOf e).armedAt = s.ctrl
      ∧ ∀ p ∈ (s.eqxOf e).ports, ((s.armEqx m e).prt p).clockHeld = (s.prt p).master := by
  have arm : s.armEqx m e = _ := (if_neg (by simp [own])).trans (if_pos (by simpa [State.armsAt] using h))
  have eqx : (s.armEqx m e).eqxOf e = { s.eqxOf e with st := 1, armedAt := s.ctrl } := by
    rw [arm, foldl_modPrt_eqxOf, State.setEqx_eqxOf_self]
  refine ⟨by rw [eqx], by rw [eqx], fun p hp => ?_⟩
  rw [arm, foldl_modPrt_prt (Eqx.ports_nodup _), if_pos hp, State.setEqx_prt]

theorem State.fireEqx_of_refused (h : ¬ s.firesAt (s.eqxOf e)) :
    s.fireEqx m e = s.setEqx e { s.eqxOf e with reject := true } :=
  (if_neg (by simp [own])).trans (if_neg h)

theorem State.fireEqx_of_fires (h : s.firesAt (s.eqxOf e)) :
    ((s.fireEqx m e).eqxOf e).st = 2 ∧ ((s.fireEqx m e).eqxOf e).t = s.fireCycle (s.eqxOf e)
      ∧ ∀ p ∈ (s.eqxOf e).ports, ((s.fireEqx m e).prt p).frame0At = some (s.fireCycle (s.eqxOf e)) := by
  have fire : s.fireEqx m e = _ := (if_neg (by simp [own])).trans (if_pos h)
  have eqx : (s.fireEqx m e).eqxOf e = { s.eqxOf e with st := 2, t := s.fireCycle (s.eqxOf e) } := by
    rw [fire, foldl_modPrt_eqxOf, State.setEqx_eqxOf_self]
    rfl
  refine ⟨by rw [eqx], by rw [eqx], fun p hp => ?_⟩
  rw [fire, foldl_modPrt_prt (Eqx.ports_nodup _), if_pos hp]
  rfl

theorem State.disarmEqx_st : ((s.disarmEqx m e).eqxOf e).st = 0 := by
  unfold State.disarmEqx
  simp only [own, Bool.not_true, Bool.false_eq_true, if_false]
  split
  · rw [foldl_modPrt_eqxOf, State.setEqx_eqxOf_self]
  · rw [State.setEqx_eqxOf_self]

theorem State.disarmEqx_prt_of_unfired (h : (s.eqxOf e).st ≠ 2) (p : Nat) : (s.disarmEqx m e).prt p = s.prt p := by
  have disarm : s.disarmEqx m e = _ := (if_neg (by simp [own])).trans (if_neg h)
  rw [disarm, State.setEqx_prt]

theorem State.disarmEqx_frame0At_of_fired (h : (s.eqxOf e).st = 2) {p : Nat} (hp : p ∈ (s.eqxOf e).ports) :
    ((s.disarmEqx m e).prt p).frame0At = none := by
  have disarm : s.disarmEqx m e = _ := (if_neg (by simp [own])).trans (if_pos h)
  rw [disarm, foldl_modPrt_prt (Eqx.ports_nodup _), if_pos hp]

end Commands

section Foreign

variable {s : State} {m : Master} (h : s.ownerWrites m = false) (e : Nat)

include h

theorem State.armEqx_of_foreign : s.armEqx m e = s := if_pos (by simp [h])

theorem State.fireEqx_of_foreign : s.fireEqx m e = s := if_pos (by simp [h])

theorem State.disarmEqx_of_foreign : s.disarmEqx m e = s := if_pos (by simp [h])

end Foreign

/-! ### The masters' restart, the trigger and the window (R263 to R265) -/

/-- A master that holds its clock restarts it within 2 nominal frame periods of ARM. -/
def Port.restartIn (r : Port) (cycles now : Nat) : Port :=
  if r.clockHeld && decide (cycles * r.hz ≤ 2 * windowCtrl) then r.restartClock now else r

theorem Port.restartIn_clockHeld {r : Port} (master : r.master = true) (cycles now : Nat) :
    (r.restartIn cycles now).clockHeld = (r.clockHeld && decide (2 * 625000000 < cycles * r.hz)) := by
  unfold Port.restartIn Port.restartClock windowCtrl
  by_cases late : cycles * r.hz ≤ 2 * 625000000
  · cases held : r.clockHeld <;> simp [held, late, master]
  · simp [late, Nat.lt_of_not_le late]

theorem State.restartMasters_prt {s : State} {e p : Nat} (hp : p ∈ (s.eqxOf e).ports) :
    (s.restartMasters e).prt p = (s.prt p).restartIn (s.ctrl - (s.eqxOf e).armedAt) s.now := by
  refine (foldl_prt (seen := fun y => y.ctrl = s.ctrl ∧ y.now = s.now)
    (f := fun r => r.restartIn (s.ctrl - (s.eqxOf e).armedAt) s.now) ?_ ?_ ?_ (Eqx.ports_nodup _) ⟨rfl, rfl⟩ p).trans
    (if_pos hp)
  · intro y q h
    dsimp only
    split <;> exact h
  · rintro y q ⟨ctrl, now⟩
    dsimp only [Port.restartIn]
    rw [ctrl, now]
    split
    · rw [State.setPrt_prt_self]
    · rfl
  · intro y q k _ ne
    dsimp only
    split
    · exact State.setPrt_prt_of_ne _ _ ne
    · rfl

theorem State.triggerEqx_of_idle {s : State} {e : Nat}
    (h : ¬ (s.controlUp = true ∧ (s.eqxOf e).st = 2 ∧ s.ctrl = (s.eqxOf e).t)) : s.triggerEqx e = s :=
  if_neg (by simpa [and_assoc] using h)

section Trigger

variable {s : State} {e : Nat} (up : s.controlUp = true)

include up

theorem State.triggerEqx_of_due (fired : (s.eqxOf e).st = 2) (now : s.ctrl = (s.eqxOf e).t) :
    ((s.triggerEqx e).eqxOf e).st = 3
      ∧ ∀ p ∈ (s.eqxOf e).ports, (s.triggerEqx e).prt p = (s.prt p).restartClock s.now := by
  have trigger : s.triggerEqx e = _ := if_pos (by simp [up, fired, now])
  refine ⟨?_, fun p hp => ?_⟩
  · rw [trigger, foldl_modPrt_eqxOf, State.setEqx_eqxOf_self]
  · rw [trigger]
    refine (foldl_prt (seen := fun y => y.now = s.now) (f := fun r => r.restartClock s.now) ?_ ?_ ?_ (Eqx.ports_nodup _)
      (State.setEqx_now ..) p).trans (if_pos hp)
    · exact fun _ _ h => h
    · intro y q h
      rw [State.modPrt_eq, State.setPrt_prt_self, h]
    · exact fun _ _ _ _ ne => State.setPrt_prt_of_ne _ _ ne

/-- The offsets of a member against the lowest member `l`. -/
def Port.offsetFrom (r l : Port) : Port :=
  { r with eqxRx := satI32 (r.driftRx - l.driftRx), eqxTx := satI32 (r.driftTx - l.driftTx) }

theorem State.offsetWindow_prt (runs : (s.eqxOf e).st = 3) (ends : s.ctrl % 625000000 = 0) {p : Nat}
    (hp : p ∈ (s.eqxOf e).ports) :
    (s.offsetWindow e).prt p = (s.prt p).offsetFrom (s.prt ((s.eqxOf e).ports.headD 0)) := by
  have due : (s.controlUp && (s.eqxOf e).st == 3 && decide (s.ctrl % windowCtrl = 0)) = true := by
    simp [up, runs, ends, windowCtrl]
  have nodup := (s.eqxOf e).ports_nodup
  unfold State.offsetWindow
  dsimp only
  split
  case h_1 none => rw [none] at hp; cases hp
  case h_2 lead rest members =>
    rw [if_pos due, foldl_modPrt_prt nodup, if_pos hp, members]
    rfl

end Trigger

/-! ### O36 -/

/-- Settles O36, command by command and event by event. -/
theorem equinoxCommands : Obligations.EquinoxCommands := by
  refine ⟨fun s t m e => ?commands, fun s t e => ?events⟩
  case commands =>
    intro x q alike trig timely
    have arm : exec (.arm t m e) s = .next (s.access t m fun s => s.armEqx m e) := rfl
    have fire : exec (.fire t m e) s = .next (s.access t m fun s => s.fireEqx m e) := rfl
    have disarm : exec (.disarm t m e) s = .next (s.access t m fun s => s.disarmEqx m e) := rfl
    refine ⟨fun reach own => ?_, fun h => ?_⟩
    · rw [arm, fire, disarm, State.access_of_reach reach, State.access_of_reach reach, State.access_of_reach reach]
      exact ⟨fun h => ⟨_, rfl, State.armEqx_of_arms own h⟩,
        fun h => congrArg Host.Outcome.next (State.armEqx_of_refused own h),
        fun h => ⟨_, rfl, State.fireEqx_of_fires own h⟩,
        fun h => congrArg Host.Outcome.next (State.fireEqx_of_refused own h),
        _, rfl, State.disarmEqx_st own, State.disarmEqx_prt_of_unfired own,
        fun h _ hp => State.disarmEqx_frame0At_of_fired own h hp⟩
    · have foreign (reach : x.regReach m = true) : x.ownerWrites m = false :=
        h.resolve_left (by simp [reach])
      rw [arm, fire, disarm, State.access_of_fixed fun reach => State.armEqx_of_foreign (foreign reach) e,
        State.access_of_fixed fun reach => State.fireEqx_of_foreign (foreign reach) e,
        State.access_of_fixed fun reach => State.disarmEqx_of_foreign (foreign reach) e]
      exact ⟨rfl, rfl, rfl⟩
  case events =>
    intro x q
    refine ⟨⟨x.restartMasters e, rfl, fun p hp master => ?_⟩, fun up fired now => ?_,
      fun idle => congrArg Host.Outcome.next (State.triggerEqx_of_idle idle), fun up runs ends => ?_⟩
    · rw [State.restartMasters_prt hp, Port.restartIn_clockHeld master]
    · exact ⟨x.triggerEqx e, rfl, State.triggerEqx_of_due up fired now⟩
    · refine ⟨x.offsetWindow e, rfl, fun p hp => ?_⟩
      rw [State.offsetWindow_prt up runs ends hp]
      exact ⟨rfl, rfl⟩

end Sys2Proof.Machine
end

section
/-! PROOFS. Frames of the serial audio ports, ticks, measurement windows and the loss of a port's clock (R245, R249, R250,
R253 to R256, R260, R261, R330, Table 11-7), O49. -/

namespace Sys2Proof.Machine

open Sys2Proof.Safety

/-! ### Counters -/

@[simp] theorem State.count_prt (s : State) (o n p : Nat) : (s.count o n).prt p = s.prt p := rfl

theorem State.count_ctrAt_self (s : State) (o n : Nat) : (s.count o n).ctrAt o = min 0xFFFFFFFF (s.ctrAt o + n) :=
  State.setCtr_ctrAt_self ..

/-! ### A frame that Vigil taps leaves the ports as they are (R330) -/

@[simp] theorem State.tapFrame_life (s : State) (p : Nat) : (s.tapFrame p).life = s.life :=
  (keeps_tapFrame (Sub.refl _) (.rfl (s := s)) p).same .life rfl

@[simp] theorem State.tapFrame_prt (s : State) (p q : Nat) : (s.tapFrame p).prt q = s.prt q :=
  State.prt_congr ((keeps_tapFrame (Sub.refl _) (.rfl (s := s)) p).same .ports rfl) q

@[simp] theorem State.tapFrame_now (s : State) (p : Nat) : (s.tapFrame p).now = s.now := by
  unfold State.tapFrame
  split <;> rfl

theorem State.portsUp_congr {s s' : State} (h : s'.life = s.life) : s'.portsUp = s.portsUp := by
  simp [State.portsUp, State.controlUp, h]

@[simp] theorem State.tapFrame_portUp (s : State) (p q : Nat) : (s.tapFrame p).portUp q = s.portUp q := by
  rw [State.portUp, State.portUp, State.portsUp_congr (s.tapFrame_life p), s.tapFrame_prt]

/-! ### Ports that work -/

theorem State.en_of_portUp {s : State} {p : Nat} (up : s.portUp p = true) : (s.prt p).en = true := by
  simp only [State.portUp, Port.works, Port.clocked, Bool.and_eq_true] at up
  obtain ⟨-, ⟨⟨en, -⟩, -⟩, -⟩ := up
  exact en

/-- The frame clock of a port that works is watched. -/
theorem State.edgeUp_of_portUp {s : State} {p : Nat} (up : s.portUp p = true) : s.edgeUp p = true := by
  simp only [State.portUp, Port.works, Bool.and_eq_true] at up
  obtain ⟨ports, clocked, -⟩ := up
  rw [State.edgeUp, ports, clocked]
  rfl

/-! ### Received frames (R245, R250, R260) -/

section TakeFrame

variable {r : Port} (f : Frame)

theorem Port.takeFrame_of_fault (fault : r.rateFault = true) : r.takeFrame f = (r.driftR 1, false) := if_pos fault

variable (clear : r.rateFault = false)

include clear

theorem Port.takeFrame_of_filling (filling : r.underrun = .silence ∧ r.delayLine.length < 65) :
    r.takeFrame f = ({ r with delayLine := r.delayLine ++ [f] }, false) :=
  (if_neg (by simp [clear])).trans (if_pos (by simpa using filling))

theorem Port.takeFrame_of_filled (filled : ¬ (r.underrun = .silence ∧ r.delayLine.length < 65)) :
    r.takeFrame f =
      if r.rxFifo.length < 8 then ({ r with rxFifo := r.rxFifo ++ [f] }, false) else (r.driftR 1, true) :=
  (if_neg (by simp [clear])).trans (if_neg (by simpa using filled))

end TakeFrame

/-- A frame that starts off the nominal frame rate is none. -/
theorem State.receiveFrame_of_off {s : State} {p start : Nat} (slots : List (BitVec 32))
    (off : (s.prt p).startsAt s.life.onRefclk start = false) : s.receiveFrame p start slots = s :=
  if_pos (by simp [off])

/-- The frame that port `p` has received when its slots came in, after its start at `start` (R249, R262). -/
def Port.received (r : Port) (start : Nat) (slots : List (BitVec 32)) : Frame :=
  { slots := (List.range r.slotCount).map fun k => rxValue r.sampleBits (slots.getD k 0)
    mask := if start < r.lastStart then r.rxLatchedPrev else r.rxLatched }

section Receive

variable {s : State} {p start : Nat} {slots : List (BitVec 32)} (came : start ≤ s.now)
  (edge : (s.prt p).startsAt s.life.onRefclk start = true)
  (runs : (s.prt p).clockHeld = false ∨ start ≤ (s.prt p).lastStart)

include came edge runs

theorem State.receiveFrame_of_en (en : (s.prt p).en = true) :
    s.receiveFrame p start slots =
      if s.portUp p then
        let y := s.frameStart p start
        if start < (y.prt p).since ∨ start < s.life.ctrlBase then y
        else (y.setPrt p ((y.prt p).takeFrame ((y.prt p).received start slots)).1).count (apRxFull p)
          (b2n ((y.prt p).takeFrame ((y.prt p).received start slots)).2)
      else s.edgeStart p start := by
  have goes : ¬ (!(s.prt p).en || decide (s.now < start) || ((s.prt p).clockHeld && decide ((s.prt p).lastStart < start))
      || !(s.prt p).startsAt s.life.onRefclk start) = true := by
    rcases runs with free | before
    · simp [en, edge, came, free]
    · simp [en, edge, came, before]
  refine (if_neg goes).trans ?_
  cases up : s.portUp p <;> rfl

theorem State.receiveFrame_of_stopped (down : s.portUp p = false) (en : (s.prt p).en = true) :
    s.receiveFrame p start slots = s.edgeStart p start := by
  rw [State.receiveFrame_of_en came edge runs en, down]
  rfl

variable (up : s.portUp p = true)

include up

theorem State.receiveFrame_of_early
    (early : start < ((s.frameStart p start).prt p).since ∨ start < s.life.ctrlBase) :
    s.receiveFrame p start slots = s.frameStart p start := by
  rw [State.receiveFrame_of_en came edge runs (State.en_of_portUp up), if_pos up]
  exact if_pos early

theorem State.receiveFrame_of_whole (since : ((s.frameStart p start).prt p).since ≤ start)
    (base : s.life.ctrlBase ≤ start) {r : Port} {full : Bool}
    (takes : ((s.frameStart p start).prt p).takeFrame (((s.frameStart p start).prt p).received start slots) = (r, full)) :
    s.receiveFrame p start slots = ((s.frameStart p start).setPrt p r).count (apRxFull p) (b2n full) := by
  rw [State.receiveFrame_of_en came edge runs (State.en_of_portUp up), if_pos up]
  dsimp only
  rw [takes]
  exact if_neg (by omega)

end Receive

/-! ### Sent frames (R249, R250, R261) -/

/-- A frame start off the nominal frame rate is none. -/
theorem State.sendFrame_of_off {s : State} {p : Nat} (off : (s.prt p).startsAt s.life.onRefclk s.now = false) :
    s.sendFrame p = s := if_pos (by simp [off])

section Send

variable {s : State} {p : Nat} (free : (s.prt p).clockHeld = false)
  (edge : (s.prt p).startsAt s.life.onRefclk s.now = true)

include free edge

theorem State.sendFrame_of_stopped (down : s.portUp p = false) (en : (s.prt p).en = true) :
    s.sendFrame p = (s.edgeStart p s.now).emit (.frame p (List.replicate (s.prt p).slotCount 0)) :=
  (if_neg (by simp [en, free, edge])).trans (if_pos (by rw [down]; rfl))

variable (up : s.portUp p = true)

include up

theorem State.sendFrame_of_frame {f : List Int} {rest : List (List Int)}
    (fifo : ((s.frameStart p s.now).prt p).txFifo = f :: rest) :
    s.sendFrame p =
      ((s.frameStart p s.now).setPrt p { (s.frameStart p s.now).prt p with txFifo := rest }).emit
        (.frame p (f.map (txValue ((s.frameStart p s.now).prt p).sampleBits))) := by
  refine (if_neg (by simp [State.en_of_portUp up, free, edge])).trans ((if_neg (by simp [up])).trans ?_)
  simp only [fifo]

theorem State.sendFrame_of_empty (fifo : ((s.frameStart p s.now).prt p).txFifo = []) :
    s.sendFrame p =
      (((s.frameStart p s.now).setPrt p (((s.frameStart p s.now).prt p).driftT 1)).count (apTxEmpty p) 1).emit
        (.frame p (List.replicate ((s.frameStart p s.now).prt p).slotCount 0)) := by
  refine (if_neg (by simp [State.en_of_portUp up, free, edge])).trans ((if_neg (by simp [up])).trans ?_)
  simp only [fifo]

end Send

/-! ### Causes of a port and its rate fault (R255, R256) -/

/-- A change of PORT_INT that raises the AUDIO cause changes no port further. -/
theorem State.modPortInt_prt (s : State) (p : Nat) (f : Port → Port) : (s.modPortInt p f).prt p = f (s.prt p) := by
  have raised (x : State) (l : List Nat) : (x.raiseInts l).prt p = x.prt p :=
    State.prt_congr ((keeps_raiseInts (Sub.refl _) (.rfl (s := x)) l).same .ports rfl) p
  unfold State.modPortInt
  dsimp only
  split
  · rw [raised, State.modPrt_eq, State.setPrt_prt_self]
  · rw [State.modPrt_eq, State.setPrt_prt_self]

/-- Causes set their bits in PORT_INT, and change nothing else of the port. -/
theorem State.portCause_prt (s : State) (p : Nat) (causes : BitVec 4) :
    (s.portCause p causes).prt p = { s.prt p with int := (s.prt p).int ||| causes } := by
  have logged (x : State) (code unit cluster status : Nat) (data : List Byte) :
      (x.logEvent code unit cluster status data).prt p = x.prt p :=
    State.prt_congr ((keeps_logEvent (Sub.refl _) (.rfl (s := x)) code unit cluster status data).same .ports rfl) p
  unfold State.portCause
  split
  · simp [*]
  · rw [logged, State.modPortInt_prt]

theorem State.enterUnderrun_rateFault (s : State) (p : Nat) :
    ((s.enterUnderrun p).prt p).rateFault = (s.prt p).rateFault := by
  unfold State.enterUnderrun
  dsimp only
  split
  · rfl
  · rw [State.judgeAll_prt, State.count_prt, State.modPrt_eq, State.setPrt_prt_self, State.mapChans_prt]
    split <;> rfl

theorem State.setRateFault_rateFault (s : State) (p : Nat) : ((s.setRateFault p true).prt p).rateFault = true := by
  unfold State.setRateFault
  dsimp only
  split
  · assumption
  · rw [if_pos rfl, State.judgeAll_prt, State.portCause_prt]
    dsimp only
    rw [State.enterUnderrun_rateFault, State.modPrt_eq, State.setPrt_prt_self]

theorem State.setNoClock_prt (s : State) (p : Nat) :
    (s.setNoClock p).prt p = { s.prt p with noClock := true, int := (s.prt p).int ||| 0b1000 } := by
  rw [State.setNoClock, State.judgeAll_prt, State.portCause_prt, State.modPrt_eq, State.setPrt_prt_self]

/-! ### Ticks, windows and the clock of a port that works (R250, R253, R255, R256) -/

section Windows

variable {s : State} {p : Nat} (up : s.portUp p = true)

include up

theorem State.paceTick_of_overflow (full : 625000000 ≤ (s.prt p).paceAcc + (s.prt p).hz * (s.ctrl - (s.prt p).paceCtrl))
    (first : ((s.prt p).paceAcc + (s.prt p).hz * (s.ctrl - (s.prt p).paceCtrl)) % 625000000 < (s.prt p).hz) :
    s.paceTick p =
      ((s.setPrt p { s.prt p with
        paceAcc := ((s.prt p).paceAcc + (s.prt p).hz * (s.ctrl - (s.prt p).paceCtrl)) % 625000000
        paceCtrl := s.ctrl }).rxTick p).txTick p :=
  if_pos (by simp only [up, full, first, decide_true, Bool.and_self])

theorem State.windowEnd_of_valid {rate : Nat} {dev : Int} (ends : s.ctrl % 625000000 = 0)
    (last : (s.prt p).window.idx + 1 = s.ctrl / 625000000)
    (valid : (s.prt p).window.measure (s.prt p).hz = some (rate, dev)) :
    s.windowEnd p =
      (s.setPrt p { s.prt p with window := (s.prt p).windowNext, windowNext := {} }).windowResult p rate dev := by
  refine (if_pos (by simp [up, ends, windowCtrl])).trans ((if_pos last).trans ?_)
  simp only [valid]

theorem State.subWindowEnd_of_valid {rate : Nat} {dev : Int} (ends : s.ctrl % 6250000 = 0)
    (last : (s.prt p).subWindow.idx + 1 = s.ctrl / 6250000) (clear : s.armedAt (devDetector (48 + 2 * p)) = none)
    (valid : (s.prt p).subWindow.measure (s.prt p).hz = some (rate, dev)) :
    s.subWindowEnd p =
      let y := s.setPrt p { s.prt p with subWindow := (s.prt p).subNext, subNext := {} }
      if 20000000 < dev.natAbs then y.setRateFault p true else y := by
  have due : (s.portUp p && decide (s.ctrl % subWindowCtrl = 0)) = true := by simp [up, ends, subWindowCtrl]
  have open_ : ¬ (s.prt p).subWindow.idx = s.ctrl / subWindowCtrl := by
    unfold subWindowCtrl
    omega
  have last : (s.prt p).subWindow.idx + 1 = s.ctrl / subWindowCtrl := last
  have unarmed (r : Port) : (s.setPrt p r).fireArmed (devDetector (48 + 2 * p)) = (false, s.setPrt p r) :=
    State.fireArmed_none clear
  simp only [State.subWindowEnd, due, open_, last, unarmed, valid, if_true, if_false, Bool.false_eq_true]

theorem State.loseClock_of_quiet (seen : (s.prt p).noClock = false)
    (clear : s.armedAt (devDetector (49 + 2 * p)) = none)
    (quiet : 10000000000 ≤ (s.now - (s.prt p).lastStart) * (s.prt p).hz) : s.loseClock p = s.setNoClock p := by
  have watched : (s.edgeUp p && !(s.prt p).noClock) = true := by rw [State.edgeUp_of_portUp up, seen]; rfl
  have long : decide (4 * 2500000000 ≤ (s.now - (s.prt p).lastStart) * (s.prt p).hz) = true := decide_eq_true quiet
  simp only [State.loseClock, watched, long, State.fireArmed_none clear, if_true, Bool.false_eq_true, if_false]

end Windows

/-! ### O49 -/

/-- Settles O49, event by event. -/
theorem framesAndWindows : Obligations.FramesAndWindows := by
  intro s t p x edge
  have receive (start : Nat) (slots : List (BitVec 32)) :
      exec (.receiveFrame t p start slots) s = .next ((x.tapFrame p).receiveFrame p start slots) := rfl
  have tapped : (x.tapFrame p).prt p = x.prt p := x.tapFrame_prt p p
  have starts {start : Nat} (h : edge start) :
      ((x.tapFrame p).prt p).startsAt (x.tapFrame p).life.onRefclk start = true := by
    rw [tapped, State.tapFrame_life]
    exact h
  refine ⟨fun off => ?offSend, fun start slots off => ?offReceive,
    fun down en => ⟨fun start slots came begins runs => ?watch, fun free begins => ?zeros⟩,
    fun up => ⟨fun start slots came begins runs => ?receives,
      fun free begins => ⟨fun f rest fifo => ?sends, fun fifo => ?empty⟩, fun full first => ?tick,
      fun rate dev ends last valid => ?window, fun rate dev ends last clear valid => ?subWindow,
      fun seen clear quiet => ?noClock⟩⟩
  case offSend => exact congrArg Host.Outcome.next (State.sendFrame_of_off (Bool.eq_false_iff.2 off))
  case offReceive =>
    refine congrArg Host.Outcome.next (State.receiveFrame_of_off slots ?_)
    rw [tapped, State.tapFrame_life]
    exact Bool.eq_false_iff.2 off
  case watch =>
    rw [receive, State.receiveFrame_of_stopped (by simpa using came) (starts begins) (by rwa [tapped])
      (by rwa [State.tapFrame_portUp]) (by rwa [tapped])]
  case zeros => exact congrArg Host.Outcome.next (State.sendFrame_of_stopped free begins down en)
  case receives =>
    intro y r f
    have tapCame : start ≤ (x.tapFrame p).now := by rwa [State.tapFrame_now]
    have tapRuns : ((x.tapFrame p).prt p).clockHeld = false ∨ start ≤ ((x.tapFrame p).prt p).lastStart := by rwa [tapped]
    have tapUp : (x.tapFrame p).portUp p = true := by rwa [State.tapFrame_portUp]
    refine ⟨fun early => ?_, fun since base => ⟨(x.tapFrame p).receiveFrame p start slots, rfl, ?_⟩⟩
    · rw [receive, State.receiveFrame_of_early tapCame (starts begins) tapRuns tapUp (by rwa [State.tapFrame_life])]
    have whole {r' : Port} {full : Bool} (takes : r.takeFrame f = (r', full)) :
        (x.tapFrame p).receiveFrame p start slots = (y.setPrt p r').count (apRxFull p) (b2n full) :=
      State.receiveFrame_of_whole tapCame (starts begins) tapRuns tapUp since (by rwa [State.tapFrame_life]) takes
    refine ⟨fun fault => ?_, fun clear silent short => ?_, fun clear filled room => ?_, fun clear filled full => ?_⟩
    · rw [whole (Port.takeFrame_of_fault f fault)]
      exact State.setPrt_prt_self ..
    · rw [whole (Port.takeFrame_of_filling f clear ⟨silent, short⟩)]
      exact State.setPrt_prt_self ..
    · rw [whole ((Port.takeFrame_of_filled f clear filled).trans (if_pos room))]
      exact State.setPrt_prt_self ..
    · rw [whole ((Port.takeFrame_of_filled f clear filled).trans (if_neg (Nat.not_lt.2 full)))]
      exact ⟨State.setPrt_prt_self .., State.count_ctrAt_self ..⟩
  case sends => exact congrArg Host.Outcome.next (State.sendFrame_of_frame free begins up fifo)
  case empty =>
    refine ⟨x.sendFrame p, rfl, ?_⟩
    rw [State.sendFrame_of_empty free begins up fifo]
    refine ⟨?_, by simp, ?_⟩
    · rw [State.emit_prt, State.count_prt, State.setPrt_prt_self]
    · rw [State.emit_ctrAt, State.count_ctrAt_self, State.setPrt_ctrAt]
  case tick => exact congrArg Host.Outcome.next (State.paceTick_of_overflow up full first)
  case window => exact congrArg Host.Outcome.next (State.windowEnd_of_valid up ends last valid)
  case subWindow =>
    refine ⟨x.subWindowEnd p, rfl, ?_⟩
    rw [State.subWindowEnd_of_valid up ends last clear valid]
    by_cases far : 20000000 < dev.natAbs
    · simp only [far, if_true, State.setRateFault_rateFault, decide_true, Bool.or_true]
    · simp only [far, if_false, State.setPrt_prt_self, decide_false, Bool.or_false]
  case noClock =>
    refine ⟨x.loseClock p, rfl, ?_⟩
    rw [State.loseClock_of_quiet up seen clear quiet, State.setNoClock_prt]
    exact ⟨rfl, by simp⟩

end Sys2Proof.Machine
end

section
/-! PROOFS. How the commands of Table 13-4 reach their effects, and the checks that refuse them (R284, R285, R287, R291),
O9 to O11. -/

namespace Sys2Proof.Machine

open Sys2Proof.Safety

/-! ### The commands of the host -/

theorem opcodeListed_of_spells {h : Hdr} {op : Nat} {fs : List EntryField} (k : spells h op fs = true)
    (listed : op ∈ listedOpcodes) : opcodeListed h = true := by
  simp only [spells, Bool.and_eq_true, beq_iff_eq] at k
  rw [opcodeListed, k.1, List.contains_iff_mem]
  exact listed

@[simp] theorem atArbiter_isStopped (s : State) (t : Nat) (h : Hdr) : (atArbiter s t h).isStopped = s.isStopped :=
  State.advance_isStopped ..

/-- From the declaration of a stop on the sideband brings no command to the command processor (R323). -/
theorem not_isStopped_of_comes {s : State} {t : Nat} {h : Hdr} (k : comes s t h = true)
    (sideband : h.master = .sideband) : s.isStopped = false := by
  simp only [comes, sideband, atArbiter_isStopped, Bool.and_eq_true, Bool.not_eq_true'] at k
  obtain ⟨-, ⟨⟨-, going⟩, -⟩, -⟩ := k
  exact going

theorem comes_of_reaches {s : State} {t : Nat} {h : Hdr} (k : reaches s t h = true) : comes s t h = true := by
  simp only [reaches, Bool.and_eq_true] at k
  exact k.1

theorem exec_safeStateRequest_of_host {h : Hdr} {reason : Nat} (s : State) (t : Nat)
    (host : h.master ≠ .safety ∨ opcodeListed h = false) :
    exec (.safeStateRequest t h reason) s = .next (s.hostCommand t h (.safeStateRequest t h reason)
      (infoSafeStateRequest reason) (effSafeStateRequest reason)) := by
  refine congrArg Host.Outcome.next (if_neg fun p => ?_)
  rcases host with host | unlisted
  · exact host p.1
  · exact ne_true_of_eq_false unlisted (opcodeListed_of_spells p.2 (by decide))

theorem exec_vigilStatus_of_unlisted {h : Hdr} (s : State) (t : Nat) (unlisted : opcodeListed h = false) :
    exec (.vigilStatus t h) s = .next (s.hostCommand t h (.vigilStatus t h) infoVigilStatus effVigilStatus) :=
  congrArg Host.Outcome.next (if_neg fun p =>
    ne_true_of_eq_false unlisted (opcodeListed_of_spells p.2 (by decide)))

theorem exec_deviceReset_of_host {s : State} {t : Nat} {h : Hdr}
    (host : ¬ (h.master = .sideband ∧ (s.advance t).isStopped = true)) :
    exec (.deviceReset t h) s = .next (s.hostCommand t h (.deviceReset t h) infoDeviceReset effDeviceReset) :=
  congrArg Host.Outcome.next (if_neg host)

/-- Every command that reaches the arbiter comes as a command of the host, but for those that the standby logic serves. -/
theorem exec_of_command {c : Instr} {s : State} {t : Nat} {h : Hdr} {info : CmdInfo} {eff : Inflight → State → State}
    (header : headerOf c = some (t, h)) (command : commandOf c = some (info, eff))
    (host : standbyServes c h = false ∨ opcodeListed h = false) (k : reaches s t h = true) :
    exec c s = .next (s.hostCommand t h c info eff) := by
  cases c
  case safeStateRequest =>
    cases header
    cases command
    exact exec_safeStateRequest_of_host s t (host.imp_left (by simp [standbyServes]))
  case vigilStatus =>
    cases header
    cases command
    rcases host with host | unlisted
    · exact exec_vigilStatus_of_host s t (by simpa [standbyServes] using host)
    · exact exec_vigilStatus_of_unlisted s t unlisted
  case deviceReset =>
    cases header
    cases command
    refine exec_deviceReset_of_host fun p => ?_
    rw [State.advance_isStopped, not_isStopped_of_comes (comes_of_reaches k) p.1] at p
    exact Bool.false_ne_true p.2
  -- each other row is an event, or its meaning is `State.hostCommand` itself
  all_goals cases header <;> cases command <;> rfl

/-! ### O9 -/

/-- Settles O9: what the standby logic does not serve comes as a command of the host, and takes its own effect. -/
theorem commandsTakeEffect : Obligations.CommandsTakeEffect := by
  intro c s t h info eff header command host k
  have reach : reaches s t h = true := by
    simp only [executes, Bool.and_eq_true] at k
    exact k.1.2
  exact exec_of_executes (exec_of_command header command (.inl host) reach) k

/-! ### O10 -/

/-- Settles O10: a command of the host that a check refuses is delivered with that check's status. -/
theorem refusedCommandsDoNothing : Obligations.RefusedCommandsDoNothing := by
  intro c s t h info eff st header command entry reach refused
  rw [exec_of_command header command (entry.imp_left And.left) reach,
    hostCommand_of_refused reach (entry.imp_left And.right) refused]

/-! ### The checks in their order -/

section Checks

variable {s : State} {h : Hdr} {c : CmdInfo}

theorem State.refusal_of_unlisted (unlisted : opcodeListed h = false) : s.refusal h c = some stBadOpcode :=
  if_pos (by simp [unlisted])

variable (listed : opcodeListed h = true)

include listed

theorem State.refusal_of_ownerRefusal {st : Nat} (k : s.ownerRefusal h.master c.op c.cls c.brk = some st) :
    s.refusal h c = some st := by
  simp [State.refusal, listed, k]

theorem State.refusal_of_let (k : s.ownerRefusal h.master c.op c.cls c.brk = none) :
    s.refusal h c = if s.readyFor c.op c.cls = false then some stNotReady
      else if reservedSet h c.fields = true ∨ c.inRange = false then some stInvalidParam else none := by
  simp [State.refusal, listed, k]

end Checks

section OwnerChecks

variable {s : State} {m : Master} {op : Nat} {brk : Bool}

theorem State.ownerRefusal_of_foreign {cls : CmdClass} (k : cls = .owner ∨ cls = .rackManager)
    (foreign : s.owner.owner ≠ Master.num m) : s.ownerRefusal m op cls brk = some stNotOwner := by
  rcases k with rfl | rfl
  · exact if_neg foreign
  · exact if_pos foreign

theorem State.ownerRefusal_of_not_role (own : s.owner.owner = Master.num m) (role : s.owner.role = false) :
    s.ownerRefusal m op .rackManager brk = some stNotRole := by
  simp [State.ownerRefusal, own, role]

theorem State.ownerRefusal_of_let {cls : CmdClass} (k : cls = .read ∨ (cls = .owner ∧ s.owner.owner = Master.num m)
    ∨ (cls = .rackManager ∧ s.owner.owner = Master.num m ∧ s.owner.role = true)) :
    s.ownerRefusal m op cls brk = none := by
  rcases k with rfl | ⟨rfl, own⟩ | ⟨rfl, own, role⟩
  · rfl
  · exact if_pos own
  · simp [State.ownerRefusal, own, role]

/-- CLAIM by a second master. -/
theorem State.electionRefusal_of_second (notSafety : m ≠ .safety) (owned : s.owner.owner ≠ 3)
    (foreign : s.owner.owner ≠ Master.num m) : s.electionRefusal m 0x0010 brk =
      if brk = true ∧ m = .sideband then (if s.owner.expired then none else some stLeaseLive) else some stOwned := by
  simp [State.electionRefusal, notSafety, owned, foreign]

theorem State.electionRefusal_of_not_owner (other : op ≠ 0x0010) (foreign : s.owner.owner ≠ Master.num m) :
    s.electionRefusal m op brk = some stNotOwner := by
  simp [State.electionRefusal, other, foreign]

end OwnerChecks

/-- Settles O11, check by check. -/
theorem checksInOrder : Obligations.ChecksInOrder := by
  intro s h c
  refine ⟨State.refusal_of_unlisted, fun listed => ⟨fun cls foreign => ?foreign, fun cls own role => ?role,
    fun k => ?passes, fun cls op notSafety owned foreign => ?claim, fun cls op foreign => ?election⟩⟩
  case foreign => exact State.refusal_of_ownerRefusal listed (State.ownerRefusal_of_foreign cls foreign)
  case role => exact State.refusal_of_ownerRefusal listed (cls ▸ State.ownerRefusal_of_not_role own role)
  case passes => exact State.refusal_of_let listed (State.ownerRefusal_of_let k)
  case claim =>
    have second := State.electionRefusal_of_second (brk := c.brk) notSafety owned foreign
    refine ⟨fun k => State.refusal_of_ownerRefusal listed ?_, fun brk sideband live =>
      State.refusal_of_ownerRefusal listed ?_⟩ <;> rw [cls, op]
    · exact second.trans (if_neg k)
    · refine second.trans ((if_pos ⟨brk, sideband⟩).trans ?_)
      rw [live]
      rfl
  case election =>
    refine State.refusal_of_ownerRefusal listed ?_
    rw [cls]
    exact State.electionRefusal_of_not_owner op foreign

end Sys2Proof.Machine
end

section
/-! PROOFS. The owner's election and the lease (R281, R285, R286, Table 12-5), O16. -/

namespace Sys2Proof.Machine

open Sys2Proof.Safety

theorem State.setOwner_owner (s : State) (new : Nat) (role : Bool) (opcode : Nat) :
    (s.setOwner new role opcode).owner =
      { s.owner with owner := new, role, expired := false, leaseEnd := s.ctrl + 1250000000 } := by
  unfold State.setOwner
  dsimp only
  split
  · rfl
  · exact (keeps_raiseInts (Sub.refl _) .rfl [intOwner]).same .owner rfl

theorem State.leaseDue_iff (s : State) : s.leaseDue = true ↔
    s.owner.owner ≠ 3 ∧ s.owner.expired = false ∧ s.owner.leaseEnd ≤ s.ctrl := by
  simp [State.leaseDue, and_assoc]

theorem State.expireLease_of_not_due {s : State} (h : s.leaseDue = false) : s.expireLease = s :=
  if_neg (ne_true_of_eq_false h)

/-- An expiry is recorded, and signalled over the sideband (R281, R286). -/
theorem State.expireLease_of_due {s : State} (h : s.leaseDue = true) :
    s.expireLease.owner = { s.owner with expired := true } ∧ .inBand ibiLease ∈ s.expireLease.outs := by
  have expire : s.expireLease = _ := if_pos h
  rw [expire]
  refine ⟨(keeps_raiseInts (Sub.refl _) .rfl [intLease]).same .owner rfl, ?_⟩
  rw [State.emit_outs]
  exact List.mem_concat_self

theorem State.leaseExpiry_of_up {s : State} (up : s.controlUp = true) : s.leaseExpiry = s.expireLease := if_pos up

/-- Settles O16: the effect of each command, and LEASE_EXPIRY by whether an expiry is due. -/
theorem electionSetsOwner : Obligations.ElectionSetsOwner := by
  intro s t h
  refine ⟨fun role brk k => ?claim, fun k => ?release, fun target role k => ?grant, fun up =>
    ⟨fun owned fresh late => ?due, fun idle => ?idle⟩⟩
  case claim =>
    refine ⟨_, ?_, State.setOwner_owner _ (Master.num h.master) role 0x0010⟩
    rw [exec_of_executes (eff := effClaim role) rfl k, effClaim, entryOf_id, entryOf_hdr]
  case release =>
    refine ⟨_, ?_, State.setOwner_owner _ 3 false 0x0011⟩
    rw [exec_of_executes (eff := effRelease) rfl k, effRelease, entryOf_id]
  case grant =>
    refine ⟨_, ?_, State.setOwner_owner _ target role 0x0012⟩
    rw [exec_of_executes (eff := effGrant target role) rfl k, effGrant, entryOf_id]
  case due =>
    refine ⟨_, congrArg Host.Outcome.next (State.leaseExpiry_of_up up), ?_⟩
    exact State.expireLease_of_due ((State.leaseDue_iff _).2 ⟨owned, fresh, late⟩)
  case idle =>
    have notDue : (s.advance t).leaseDue = false := by
      rw [← Bool.not_eq_true, State.leaseDue_iff]
      rintro ⟨owned, fresh, late⟩
      rcases idle with none | recorded | early
      · exact owned none
      · exact ne_true_of_eq_false fresh recorded
      · exact Nat.not_le_of_lt early late
    refine congrArg Host.Outcome.next ((State.leaseExpiry_of_up up).trans ?_)
    exact State.expireLease_of_not_due notDue

end Sys2Proof.Machine
end

section
/-! PROOFS. The requests that begin a reset or a safe state (R283, R324, R344, R379, R410, R411), O27. -/

namespace Sys2Proof.Machine

open Sys2Proof.Safety

theorem State.beginReset_life (s : State) (kind : StartKind) (cause : Nat) :
    (s.beginReset kind cause).life =
      { s.life with phase := .resetPending, ready := false, kind, seqAt := s.now, armed := false } := rfl

/-- In a device that is ready and in no safe-state sequence, a cause begins one with a reset (R344). -/
theorem State.safeCause_of_ready {s : State} (cause reason : Nat) (ready : s.life.phase = .ready)
    (free : s.safety.seq = false) :
    s.safeCause cause reason = (s.beginReset .safeState cause).beginSeq cause reason := by
  simp [State.safeCause, State.isStopped, State.firstStart, State.resetBecomes, ready, free]

/-- The owner's request begins a sequence, at whose 1 ms entry it completes (R348). -/
theorem effSafeStateRequest_of_ready {s : State} (reason : Nat) (i : Inflight) (ready : s.life.phase = .ready)
    (free : s.safety.seq = false) :
    let y := (s.beginReset .safeState 2).beginSeq 2 reason
    effSafeStateRequest reason i s = { y with safety := { y.safety with ownerCmd := some i.id } } := by
  unfold effSafeStateRequest
  rw [State.safeCause_of_ready 2 reason ready free, free]
  rfl

/-! ### The safety port -/

/-- The safety port has taken in the request that is numbered next (R282). -/
def State.portBegins (s : State) : State :=
  { s with safePort := { s.safePort with executing := some s.nextCmd, crcError := false, refused := false } }

theorem State.portServe_of_takes {s : State} {h : Hdr} {instr : Instr} {fs : List EntryField}
    {eff : Inflight → State → State} (up : s.standbyUp = true) (calm : s.armedAt safetyCrcDetector = none)
    (idle : s.safePort.executing = none) (empty : s.safePort.response = none) (clear : reservedSet h fs = false) :
    s.portServe h instr fs eff =
      eff { id := s.nextCmd, hdr := h, sqHead := 0, instr, cq := 0, objs := [] } s.portBegins := by
  simp [State.portServe, State.portBegins, up, State.fireArmed_none calm, idle, empty, clear]

theorem State.deliver_of_safety {i : Inflight} (s : State) (status : Nat) (result : List Byte)
    (safety : i.hdr.master = .safety) :
    (s.deliver i status result).safePort.executing = none
      ∧ (s.deliver i status result).safePort.response = some (cmdEntry i status result) := by
  simp [State.deliver, safety]

theorem State.deliver_life (s : State) (i : Inflight) (status : Nat) (result : List Byte) :
    (s.deliver i status result).life = s.life := (keeps_deliver (Sub.refl _) (.rfl (s := s)) i status result).same .life rfl

theorem State.deliver_safety (s : State) (i : Inflight) (status : Nat) (result : List Byte) :
    (s.deliver i status result).safety = s.safety :=
  (keeps_deliver (Sub.refl _) (.rfl (s := s)) i status result).same .safety rfl

/-- The safety port's request begins a sequence with cause 1 and is answered at once (R283, R344). -/
theorem State.safeCause_deliver_of_ready {s : State} {i : Inflight} (reason : Nat) (port : i.hdr.master = .safety)
    (ready : s.life.phase = .ready) (free : s.safety.seq = false) :
    let z := (s.safeCause 1 reason).deliver i stSuccess []
    z.safety.seq = true ∧ z.safety.cause = 1 ∧ z.life.phase = .resetPending ∧ z.safePort.executing = none
      ∧ z.safePort.response.isSome = true := by
  intro z
  obtain ⟨done, response⟩ := State.deliver_of_safety (s.safeCause 1 reason) stSuccess [] port
  have safety : z.safety = (s.safeCause 1 reason).safety := State.deliver_safety ..
  have life : z.life = (s.safeCause 1 reason).life := State.deliver_life ..
  rw [safety, life, State.safeCause_of_ready 1 reason ready free]
  exact ⟨rfl, rfl, rfl, done, Option.isSome_of_eq_some response⟩

/-! ### The sideband's restart -/

theorem State.restart_of_restartable {s : State} {h : Hdr} {instr : Instr} (entry : spells h 0x0802 [] = true)
    (clear : reservedSet h [] = false) (cool : s.restartable = true) :
    s.restart h instr = ((s.answer h instr stSuccess).beginReset .deviceReset 0xFF).enterReset := by
  simp [State.restart, entry, clear, cool]

theorem State.answer_life (s : State) (h : Hdr) (instr : Instr) (status : Nat) : (s.answer h instr status).life = s.life :=
  State.deliver_life ..

/-- The main domains enter reset (R410). -/
theorem State.enterReset_beginReset (s : State) (cause : Nat) :
    let z := (s.beginReset .deviceReset cause).enterReset
    z.life.phase = .inReset ∧ z.life.kind = .deviceReset ∧ z.life.epoch = (s.life.epoch + 1) % 256 ∧ z.owner.owner = 3
      ∧ z.inflight = [] := ⟨rfl, rfl, rfl, rfl, rfl⟩

/-- Settles O27, request by request. -/
theorem resetsAreRequested : Obligations.ResetsAreRequested := by
  intro s t h
  refine ⟨fun k host => ?reset, fun reason host k => ?owner, fun reason port entry clear takes => ?port,
    fun sideband entry clear stopped cool => ?restart⟩
  case reset =>
    refine ⟨?_, fun y => ⟨State.beginReset_life y .deviceReset 0xFF, rfl⟩⟩
    rw [exec_of_executes (exec_deviceReset_of_host host) k, effDeviceReset, entryOf_id]
  case owner =>
    intro x ready free
    refine ⟨_, (exec_of_executes (exec_safeStateRequest_of_host s t (.inl host)) k).trans
      (congrArg Host.Outcome.next (effSafeStateRequest_of_ready reason _ ready free)), rfl, rfl, ?_, rfl, rfl, rfl, rfl⟩
    exact congrArg some (entryOf_id ..)
  case port =>
    intro ready free
    simp only [portTakes, Bool.and_eq_true, Option.isNone_iff_eq_none] at takes
    obtain ⟨⟨⟨up, calm⟩, idle⟩, empty⟩ := takes
    have served : exec (.safeStateRequest t h reason) s = .next _ :=
      congrArg Host.Outcome.next ((if_pos ⟨port, entry⟩).trans (State.portServe_of_takes up calm idle empty clear))
    exact ⟨_, served, State.safeCause_deliver_of_ready (s := (s.advance t).portBegins) reason port ready free⟩
  case restart =>
    have restart : exec (.deviceReset t h) s = .next _ := congrArg Host.Outcome.next (if_pos ⟨sideband, stopped⟩)
    rw [State.restart_of_restartable entry clear cool] at restart
    have reset := State.enterReset_beginReset ((s.advance t).answer h (.deviceReset t h) stSuccess) 0xFF
    rw [State.answer_life] at reset
    exact ⟨_, restart, reset⟩

end Sys2Proof.Machine
end

section
/-! PROOFS. Doorbells, ring control and message coalescing (R271, R274 to R276, R278, R279, Table 16-7), O30 and O31. -/

namespace Sys2Proof.Machine

/-! ### Doorbells -/

theorem SqRing.tailLegal_iff {r : SqRing} {w : Nat} : r.tailLegal w = true ↔ w < 2 ^ r.log2
    ∧ (r.tail + 2 ^ r.log2 - r.head) % 2 ^ r.log2 + (w + 2 ^ r.log2 - r.tail) % 2 ^ r.log2 < 2 ^ r.log2 := by
  rw [SqRing.tailLegal, Bool.and_eq_true, decide_eq_true_iff, decide_eq_true_iff]
  rfl

theorem CqRing.headLegal_iff {r : CqRing} {w : Nat} : r.headLegal w = true ↔ w < 2 ^ r.log2
    ∧ (w + 2 ^ r.log2 - r.head) % 2 ^ r.log2 ≤ (r.tail + 2 ^ r.log2 - r.head) % 2 ^ r.log2 := by
  rw [CqRing.headLegal, Bool.and_eq_true, decide_eq_true_iff, decide_eq_true_iff]
  rfl

theorem State.sqDoorbell_of_closed {s : State} {n : Nat} (v : Nat) (closed : (s.sqr n).en = false) :
    s.sqDoorbell n v = s := if_pos (by simp [closed])

theorem State.cqDoorbell_of_closed {s : State} {n : Nat} (v : Nat) (closed : (s.cqr n).en = false) :
    s.cqDoorbell n v = s := if_pos (by simp [closed])

section Doorbells

variable {s : State} {n v : Nat} (hn : n < 64)

include hn

/-- A write to an enabled submission ring moves its tail where it is legal and the detector does not fire, and else disables
the ring (R275). -/
theorem State.sqDoorbell_of_en (en : (s.sqr n).en = true) :
    s.sqDoorbell n v =
      if (s.sqr n).tailLegal (v % 4096) && !(s.fireArmed (devDetector 106)).1 then
        (s.fireArmed (devDetector 106)).2.setSq n { s.sqr n with tail := v % 4096 }
      else ((s.fireArmed (devDetector 106)).2.setSq n { s.sqr n with error := true, en := false }).doorbellError n
        ((s.sqr n).tailLegal (v % 4096)) := if_neg (by simp [en, hn])

/-- The same of the head of a completion ring, whose backlog goes into the room that the head leaves (R278). -/
theorem State.cqDoorbell_of_en (en : (s.cqr n).en = true) :
    s.cqDoorbell n v =
      if (s.cqr n).headLegal (v % 4096) && !(s.fireArmed (devDetector 106)).1 then
        State.postBacklog n ((s.cqr n).backlog.length + 1)
          ((s.fireArmed (devDetector 106)).2.setCq n { s.cqr n with head := v % 4096 })
      else ((s.fireArmed (devDetector 106)).2.setCq n { s.cqr n with error := true, en := false }).doorbellError n
        ((s.cqr n).headLegal (v % 4096)) := if_neg (by simp [en, hn])

end Doorbells

theorem exec_sqTail (s : State) (t n v : Nat) :
    exec (.sqTail t n v) s = .next (s.access t .pcie fun x => x.sqDoorbell n v) := rfl

theorem exec_cqHead (s : State) (t n v : Nat) :
    exec (.cqHead t n v) s = .next (s.access t .pcie fun x => x.cqDoorbell n v) := rfl

/-- Settles O30: for each doorbell by whether its ring is enabled, its value is legal, and the detector fires. -/
theorem doorbellsMoveTheirRings : Obligations.DoorbellsMoveTheirRings := by
  intro s t n v x
  refine ⟨fun down => ?_, fun up hn => ⟨?tail, ?head⟩⟩
  · have unreached {f : State → State} : s.access t .pcie f = x :=
      State.access_of_fixed fun up => absurd up (ne_true_of_eq_false down)
    exact ⟨congrArg Host.Outcome.next unreached, congrArg Host.Outcome.next unreached⟩
  case tail =>
    intro r w legal
    rw [exec_sqTail, State.access_of_reach up]
    refine ⟨fun closed => congrArg Host.Outcome.next (State.sqDoorbell_of_closed v closed), fun en ok calm => ?_,
      fun en bad => ?_, fun en ok fired => ?_⟩ <;> rw [State.sqDoorbell_of_en hn en]
    · rw [SqRing.tailLegal_iff.2 ok, calm]
      rfl
    · rw [Bool.eq_false_iff.2 (mt SqRing.tailLegal_iff.1 bad)]
      rfl
    · rw [SqRing.tailLegal_iff.2 ok, fired]
      rfl
  case head =>
    intro r w legal
    rw [exec_cqHead, State.access_of_reach up]
    refine ⟨fun closed => congrArg Host.Outcome.next (State.cqDoorbell_of_closed v closed), fun en ok calm => ?_,
      fun en bad => ?_, fun en ok fired => ?_⟩ <;> rw [State.cqDoorbell_of_en hn en]
    · rw [CqRing.headLegal_iff.2 ok, calm]
      rfl
    · rw [Bool.eq_false_iff.2 (mt CqRing.headLegal_iff.1 bad)]
      rfl
    · rw [CqRing.headLegal_iff.2 ok, fired]
      rfl

/-! ### Ring control -/

section Rings

variable {s : State} {n : Nat} (hn : n < 64) (v : Reg)

include hn

theorem State.sqEnable_of_bound (closed : (s.sqr n).en = false) (bound : (s.cqr (bits v.toNat 5 6)).en = true) :
    s.sqEnable n v = s.setSq n { s.sqr n with
      en := true, error := false, log2 := newLog2 (s.sqr n).log2 (bits v.toNat 1 4), cq := bits v.toNat 5 6
      head := 0, tail := 0 } := if_neg (by simp [hn, closed, regField, bound])

theorem State.sqDisable_of_en (en : (s.sqr n).en = true) : s.sqDisable n v = s.setSq n { s.sqr n with en := false } := by
  simp [State.sqDisable, hn, en]

theorem State.sqDisable_of_closed (closed : (s.sqr n).en = false) :
    s.sqDisable n v = s.setSq n { s.sqr n with
      log2 := newLog2 (s.sqr n).log2 (bits v.toNat 1 4), cq := bits v.toNat 5 6 } := by
  simp [State.sqDisable, hn, closed, regField]

theorem State.cqEnable_of_closed (closed : (s.cqr n).en = false) :
    s.cqEnable n v = State.postBacklog n ((s.cqr n).backlog.length + 1) (s.setCq n { s.cqr n with
      log2 := newLog2 (s.cqr n).log2 (bits v.toNat 1 4), vector := bits v.toNat 5 8, ien := bit v.toNat 13
      overflow := (s.cqr n).overflow && !bit v.toNat 14, en := true, error := false, head := 0, tail := 0
      phase := true, unsignalled := 0, firstAt := 0 }) := by
  simp [State.cqEnable, CqRing.writeCtl, hn, closed, regField, regBit]

theorem State.cqEnable_of_en (en : (s.cqr n).en = true) :
    s.cqEnable n v = s.setCq n { s.cqr n with
      vector := bits v.toNat 5 8, ien := bit v.toNat 13, overflow := (s.cqr n).overflow && !bit v.toNat 14 } := by
  simp [State.cqEnable, CqRing.writeCtl, hn, en, regField, regBit]

/-- A completion ring stays enabled while an enabled submission ring is bound to it (R276). -/
theorem State.cqDisable_en : ((s.cqDisable n v).cqr n).en = ((s.cqr n).en && s.cqBound n) := by
  have disable : s.cqDisable n v = _ := if_neg (by simp [hn])
  rw [disable, State.setCq_cqr_self]

end Rings

theorem State.sqEnable_of_ignored {s : State} {n : Nat} (v : Reg)
    (h : (s.sqr n).en = true ∨ (s.cqr (bits v.toNat 5 6)).en = false) : s.sqEnable n v = s := by
  refine if_pos ?_
  rcases h with h | h <;> simp [regField, h]

/-! ### Coalescing -/

/-- Entries of completion ring `n` wait for a message, and COAL_US has passed since the first of them (R279). -/
def State.coalesced (s : State) (n : Nat) : Prop :=
  (s.cqr n).en = true ∧ (s.cqr n).ien = true ∧ (s.cqr n).coalUs ≠ 0 ∧ (s.cqr n).unsignalled ≠ 0
    ∧ (s.cqr n).firstAt + usCycles * (s.cqr n).coalUs ≤ s.now

theorem State.coalesce_of_due {s : State} {n : Nat} (due : s.coalesced n) :
    s.coalesce n = (s.setCq n { s.cqr n with unsignalled := 0 }).sendMsi (s.cqr n).vector :=
  if_pos (by simpa [State.coalesced, and_assoc] using due)

theorem State.coalesce_of_not_due {s : State} {n : Nat} (idle : ¬ s.coalesced n) : s.coalesce n = s :=
  if_neg fun due => idle (by simpa [State.coalesced, and_assoc] using due)

/-- Settles O31, write by write. -/
theorem ringsEnableAndDisable : Obligations.RingsEnableAndDisable := by
  intro s t n hn
  refine ⟨fun up => ?writes, fun due => congrArg Host.Outcome.next (State.coalesce_of_due due),
    fun idle => congrArg Host.Outcome.next (State.coalesce_of_not_due idle)⟩
  have reached {f : State → State} {y : State} (h : f (s.atCtrl t) = y) :
      Host.Outcome.next (s.access t .pcie f) = (.next y : Host.Outcome State Fault Refusal) :=
    congrArg Host.Outcome.next ((State.access_of_reach up).trans h)
  exact ⟨fun v closed bound => reached (State.sqEnable_of_bound hn v closed bound),
    fun v ignored => reached (State.sqEnable_of_ignored v ignored), fun v en => reached (State.sqDisable_of_en hn v en),
    fun v closed => reached (State.sqDisable_of_closed hn v closed),
    fun v closed => reached (State.cqEnable_of_closed hn v closed), fun v en => reached (State.cqEnable_of_en hn v en),
    fun v => ⟨_, reached rfl, State.cqDisable_en hn v⟩⟩

end Sys2Proof.Machine
end

section
/-! PROOFS. The safety port's response transaction (R282, Table 12-4), O37: what else leaves the device in its step. -/

namespace Sys2Proof.Machine

/-- A response transaction of an idle port adds its bytes to what has left the device in the step. -/
theorem State.portResponse_outs {s : State} (up : s.standbyUp = true) (idle : s.safePort.response = none) :
    s.portResponse.outs = s.outs ++ [.safetyPort s.safePort.bytes] := by
  simp [State.portResponse, up, idle]

/-- A device that is ready, with the link up and its event log mirrored, in the REFCLK cycle in which it has recorded an
illegal doorbell write. -/
def mirroringState : State := ({ State.reset with
  life := { phase := .ready, ready := true, vin48 := true, vstby := true, refclk := true, rootLocked := true }
  hif := { linkUp := true }
  log := { mirrorEn := true } } : State).doorbellError 0 false

/-- One REFCLK cycle later the entry has its number, and leaves the device for the mirror. -/
theorem mirroringState_advance :
    let x := mirroringState.advance 25
    x.standbyUp = true ∧ x.safePort.response = none ∧ x.outs = [.hostWrite false 0 64] := by decide +kernel

/-- Refutes O37: what leaves the device in the step of a response transaction is not that response alone. Time passes first,
and an event log entry whose REFCLK cycle ends by then is written to the mirror in the same step (R356), while the statement
has the step's outputs be the response and nothing else. -/
theorem not_safetyPortAnswers : ¬ Obligations.SafetyPortAnswers := by
  intro all
  obtain ⟨up, idle, mirrored⟩ := mirroringState_advance
  obtain ⟨-, answer, -⟩ := all mirroringState 25 up
  have alone := congrArg State.outs (Host.Outcome.next.inj (answer idle))
  rw [State.portResponse_outs up idle, mirrored] at alone
  exact absurd (congrArg List.length alone) (by decide)

end Sys2Proof.Machine
end

section
/-! PROOFS. The command entry of Table 13-1: opcodes, classes and the places of the parameters (R290, R298), O12. -/

namespace Sys2Proof.Machine

/-! ### Numbers put side by side -/

section Bits

variable {a v lo n : Nat}

theorem add_mul_pow_lt (ha : a < 2 ^ lo) (hv : v < 2 ^ n) : a + v * 2 ^ lo < 2 ^ (lo + n) :=
  calc a + v * 2 ^ lo < (v + 1) * 2 ^ lo := by rw [Nat.add_mul, Nat.one_mul, Nat.add_comm]; omega
    _ ≤ 2 ^ n * 2 ^ lo := Nat.mul_le_mul_right _ hv
    _ = 2 ^ (lo + n) := by rw [← Nat.pow_add, Nat.add_comm]

/-- A number put from bit `lo` on is read there. -/
theorem bits_add_same (ha : a < 2 ^ lo) (hv : v < 2 ^ n) : bits (a + v * 2 ^ lo) lo n = v := by
  rw [bits, Nat.add_mul_div_right _ _ (Nat.two_pow_pos lo), Nat.div_eq_of_lt ha, Nat.zero_add, Nat.mod_eq_of_lt hv]

/-- It leaves the bits below as they are. -/
theorem bits_add_above {pos : Nat} (below : pos + n ≤ lo) : bits (a + v * 2 ^ lo) pos n = bits a pos n := by
  obtain ⟨k, rfl⟩ := Nat.exists_eq_add_of_le below
  have split : v * 2 ^ (pos + n + k) = v * 2 ^ k * 2 ^ n * 2 ^ pos := by ring
  rw [bits, split, Nat.add_mul_div_right _ _ (Nat.two_pow_pos pos), Nat.add_mul_mod_self_right, bits]

end Bits

/-! ### Fields side by side in an entry -/

/-- Fields in ascending order from bit `lo` on, none reaching into the next, all below bit `hi`. -/
def sideBySide (hi : Nat) : Nat → List EntryField → Bool
  | lo, [] => decide (lo ≤ hi)
  | lo, f :: r => decide (lo ≤ f.pos) && sideBySide hi (f.pos + f.width) r

/-- Each field's value at its place, added to `a`. -/
def placed (a : Nat) (fs : List EntryField) : Nat := fs.foldl (fun a f => a + f.value * 2 ^ f.pos) a

/-- Reading the fields' values elsewhere gives the same sum. -/
theorem foldl_eq_placed {v : EntryField → Nat} {fs : List EntryField} (read : ∀ f ∈ fs, v f = f.value) (a : Nat) :
    fs.foldl (fun a f => a + v f * 2 ^ f.pos) a = placed a fs :=
  List.foldl_ext _ _ a fun _ f hf => by rw [read f hf]

theorem placed_cons (a : Nat) (f : EntryField) (r : List EntryField) :
    placed a (f :: r) = placed (a + f.value * 2 ^ f.pos) r := rfl

/-- What stands below the fields stays, each field reads its value, and all lie below bit `hi`. -/
theorem placed_spec {fs : List EntryField} (fit : ∀ f ∈ fs, f.value < 2 ^ f.width) {a lo hi : Nat} (below : a < 2 ^ lo)
    (side : sideBySide hi lo fs = true) :
    placed a fs < 2 ^ hi ∧ (∀ pos n, pos + n ≤ lo → bits (placed a fs) pos n = bits a pos n)
      ∧ ∀ f ∈ fs, bits (placed a fs) f.pos f.width = f.value := by
  induction fs generalizing a lo with
  | nil =>
    have within : lo ≤ hi := of_decide_eq_true side
    exact ⟨below.trans_le (Nat.pow_le_pow_right (by decide) within), fun _ _ _ => rfl, by simp⟩
  | cons f r ih =>
    simp only [sideBySide, Bool.and_eq_true, decide_eq_true_eq] at side
    obtain ⟨start, rest⟩ := side
    obtain ⟨fitF, fitR⟩ := List.forall_mem_cons.1 fit
    have belowF : a < 2 ^ f.pos := below.trans_le (Nat.pow_le_pow_right (by decide) start)
    obtain ⟨within, kept, read⟩ := ih fitR (add_mul_pow_lt belowF fitF) rest
    rw [placed_cons]
    refine ⟨within, fun pos n lower => ?_, List.forall_mem_cons.2 ⟨?_, read⟩⟩
    · rw [kept pos n (by omega), bits_add_above (by omega)]
    · rw [kept f.pos f.width le_rfl, bits_add_same belowF fitF]

/-- Fields below bit `hi` lose nothing in a word of `hi` bits. -/
theorem toNat_ofNat_placed {fs : List EntryField} (fit : ∀ f ∈ fs, f.value < 2 ^ f.width) {hi : Nat}
    (side : sideBySide hi 0 fs = true) : (BitVec.ofNat hi (placed 0 fs)).toNat = placed 0 fs :=
  Nat.mod_eq_of_lt (placed_spec fit Nat.one_pos side).1

/-! ### The 64-byte entry (Table 13-1) -/

/-- All fields of an entry: OPCODE, FENCE, TAG and the parameters. -/
def entryFields (op tag : Nat) (fence : Bool) (fs : List EntryField) : List EntryField :=
  ⟨0, 16, op⟩ :: ⟨16, 1, b2n fence⟩ :: ⟨32, 32, tag⟩ :: fs

section Entry

variable {op tag : Nat} {fence : Bool} {fs : List EntryField}

theorem b2n_lt_two (b : Bool) : b2n b < 2 := by cases b <;> decide

theorem entryFields_fit (hop : op < 2 ^ 16) (htag : tag < 2 ^ 32) (fit : ∀ f ∈ fs, f.value < 2 ^ f.width) :
    ∀ f ∈ entryFields op tag fence fs, f.value < 2 ^ f.width :=
  List.forall_mem_cons.2 ⟨hop, List.forall_mem_cons.2 ⟨b2n_lt_two fence, List.forall_mem_cons.2 ⟨htag, fit⟩⟩⟩

/-- Parameters side by side from byte 8 on follow the fixed fields. -/
theorem sideBySide_entryFields (side : sideBySide 512 64 fs = true) :
    sideBySide 512 0 (entryFields op tag fence fs) = true := side

/-- Fields that fit lose nothing in the entry. -/
theorem encodeEntry_toNat (hop : op < 2 ^ 16) (htag : tag < 2 ^ 32) (fit : ∀ f ∈ fs, f.value < 2 ^ f.width)
    (side : sideBySide 512 64 fs = true) :
    (encodeEntry op tag fence fs).toNat = placed 0 (entryFields op tag fence fs) := by
  rw [← toNat_ofNat_placed (entryFields_fit hop htag fit) (sideBySide_entryFields side)]
  refine congrArg (fun n => (BitVec.ofNat 512 n).toNat) ?_
  rw [foldl_eq_placed (v := fun f => f.value % 2 ^ f.width) fun f hf => Nat.mod_eq_of_lt (fit f hf),
    Nat.mod_eq_of_lt hop, Nat.mod_eq_of_lt htag]
  simp only [entryFields, placed_cons]
  congr 1
  ring

variable {h : Hdr}

/-- Each field of an entry reads the value that it was made with. -/
theorem bitsAt_of_entry (entry : h.entry = encodeEntry op tag fence fs) (hop : op < 2 ^ 16) (htag : tag < 2 ^ 32)
    (fit : ∀ f ∈ fs, f.value < 2 ^ f.width) (side : sideBySide 512 64 fs = true) :
    ∀ f ∈ entryFields op tag fence fs, h.bitsAt f.pos f.width = f.value := by
  obtain ⟨-, -, read⟩ := placed_spec (entryFields_fit hop htag fit) Nat.one_pos
    (sideBySide_entryFields (fence := fence) side)
  intro f hf
  rw [Hdr.bitsAt, entry, encodeEntry_toNat hop htag fit side, read f hf]

/-- The entry is the sum of its fields. -/
theorem reservedSet_of_entry (sum : h.entry.toNat = placed 0 (entryFields op tag fence fs))
    (read : ∀ f ∈ entryFields op tag fence fs, h.bitsAt f.pos f.width = f.value) : reservedSet h fs = false := by
  have fields : reservedSet h fs = (h.entry.toNat !=
      (entryFields op tag fence fs).foldl (fun a f => a + h.bitsAt f.pos f.width * 2 ^ f.pos) 0) := rfl
  rw [fields, foldl_eq_placed (v := fun f => h.bitsAt f.pos f.width) read, sum]
  exact bne_self_eq_false _

end Entry

/-! ### The commands of Table 13-4 -/

/-- Each command has a listed opcode, and its parameters lie side by side from byte 8 on. -/
theorem commandOf_layout {c : Instr} {info : CmdInfo} {eff : Inflight → State → State}
    (command : commandOf c = some (info, eff)) : info.op ∈ listedOpcodes ∧ sideBySide 512 64 info.fields = true := by
  cases c <;> cases command <;> exact ⟨List.contains_iff_mem.1 rfl, rfl⟩

theorem listedOpcodes_lt {op : Nat} (listed : op ∈ listedOpcodes) : op < 2 ^ 16 :=
  (by decide : ∀ op ∈ listedOpcodes, op < 2 ^ 16) op listed

theorem spells_of_other_opcode {h : Hdr} {op : Nat} (other : op ≠ h.opcode) (fs : List EntryField) :
    spells h op fs = false := by
  simp [spells, other.symm]

/-- Settles O12: the classes row by row, the entries from the layout that all rows share. -/
theorem opcodesClassesAndEntries : Obligations.OpcodesClassesAndEntries := by
  refine ⟨fun c info eff command => ?classes, fun c => ?commands,
    fun c info eff h tag fence command fit entry => ?entries⟩
  -- an event is no command
  case classes => cases c <;> cases command <;> rfl
  case commands => cases c <;> rfl
  case entries =>
    obtain ⟨listed, side⟩ := commandOf_layout command
    have hop := listedOpcodes_lt listed
    have read := bitsAt_of_entry entry hop tag.isLt fit side
    have sum := (congrArg BitVec.toNat entry).trans (encodeEntry_toNat hop tag.isLt fit side)
    have all := reservedSet_of_entry sum read
    obtain ⟨opcode, read⟩ := List.forall_mem_cons.1 read
    obtain ⟨fenced, read⟩ := List.forall_mem_cons.1 read
    obtain ⟨tagged, read⟩ := List.forall_mem_cons.1 read
    change h.opcode = info.op at opcode
    refine ⟨?_, ?_, ?_, ?_, all, fun op fs other => spells_of_other_opcode (opcode ▸ other) fs⟩
    · simpa [spells, opcode] using read
    · rw [opcodeListed, opcode, List.contains_iff_mem]
      exact listed
    · rw [Hdr.tag, tagged, BitVec.ofNat_toNat, BitVec.setWidth_eq]
    · rw [Hdr.fence, fenced]
      cases fence <;> rfl

end Sys2Proof.Machine
end

section
/-! PROOFS. Commands with FENCE: the wait for earlier commands of the ring or of the sideband, and its end (R297), O13. -/

namespace Sys2Proof.Machine

open Sys2Proof.Safety

/-! ### A command that its transport brings -/

/-- What the transport brings is handed to the command processor, fetched from its ring or taken in by its port. -/
theorem arrive_of_comes {s : State} {t : Nat} {h : Hdr} {c : CmdInfo} (k : comes s t h = true)
    (spelt : spells h c.op c.fields = true) (i : Instr) (eff : Inflight → State → State) :
    (atArbiter s t h).arrive h i c eff =
      (arrived s t h).reach h i (entryOf s t h i []).sqHead (entryOf s t h i []).cq c eff := by
  simp only [comes, Bool.and_eq_true] at k
  obtain ⟨-, k⟩ := k
  unfold State.arrive entryOf arrived
  rw [if_neg (by simp [spelt])]
  cases e : h.master <;> simp only [e] at k ⊢
  case pcie => exact if_pos k
  case sideband =>
    simp only [Bool.and_eq_true, Bool.not_eq_true', decide_eq_true_eq] at k
    obtain ⟨⟨⟨up, going⟩, few⟩, served⟩ := k
    rw [if_neg (by simp [up, going]), if_neg (by omega), if_pos served]
  case safety =>
    simp only [Bool.and_eq_true, Option.isNone_iff_eq_none] at k
    obtain ⟨⟨⟨⟨up, unarmed⟩, idle⟩, answered⟩, served⟩ := k
    rw [if_neg (by simp [up]), State.fireArmed_none unarmed, if_neg (by simp), if_neg (by simp [idle, answered])]
    exact if_pos served

theorem hostCommand_of_comes {s : State} {t : Nat} {h : Hdr} {c : CmdInfo} (k : comes s t h = true)
    (spelt : spells h c.op c.fields = true) (i : Instr) (eff : Inflight → State → State) :
    s.hostCommand t h i c eff =
      (arrived s t h).reach h i (entryOf s t h i []).sqHead (entryOf s t h i []).cq c eff := by
  have turn : s.inTurn t h.master = true := by
    simp only [comes, Bool.and_eq_true] at k
    exact k.1
  rw [← arrive_of_comes k spelt, State.hostCommand, turn]
  rfl

/-- What the standby logic does not serve comes as a command of the host. -/
theorem exec_of_comes {c : Instr} {s : State} {t : Nat} {h : Hdr} {info : CmdInfo} {eff : Inflight → State → State}
    (header : headerOf c = some (t, h)) (command : commandOf c = some (info, eff)) (host : standbyServes c h = false)
    (k : comes s t h = true) : exec c s = .next (s.hostCommand t h c info eff) := by
  cases c
  case safeStateRequest =>
    cases header
    cases command
    exact exec_safeStateRequest_of_host s t (.inl (by simpa [standbyServes] using host))
  case vigilStatus =>
    cases header
    cases command
    exact exec_vigilStatus_of_host s t (by simpa [standbyServes] using host)
  case deviceReset =>
    cases header
    cases command
    refine exec_deviceReset_of_host fun stopped => ?_
    rw [State.advance_isStopped, not_isStopped_of_comes k stopped.1] at stopped
    exact Bool.false_ne_true stopped.2
  -- each other row is an event, or its meaning is `State.hostCommand` itself
  all_goals cases header <;> cases command <;> rfl

/-! ### The wait and its end -/

/-- A command with FENCE that has an earlier one to wait for is kept. -/
theorem State.reach_of_fenced {s : State} {h : Hdr} {i : Instr} {a b : Nat} {c : CmdInfo}
    {eff : Inflight → State → State}
    (w : (h.fence && ({ s with nextCmd := s.nextCmd + 1 } : State).fenceHolds h.master h.ring s.nextCmd) = true) :
    s.reach h i a b c eff = { s with
      nextCmd := s.nextCmd + 1
      fenced := s.fenced ++ [{ instr := i, hdr := h, id := s.nextCmd, sqHead := a, cq := b }] } := if_pos w

theorem exec_fenceWaitEnd (s : State) (t ring : Nat) (m : Master) :
    exec (.fenceWaitEnd t m ring) s = .next ((s.atCtrl t).fenceEnd m ring) := rfl

/-- The wait of the oldest waiting command ends once nothing earlier is left. -/
theorem State.fenceEnd_of_oldest {s : State} {m : Master} {ring : Nat} {f : Fenced} {info : CmdInfo}
    {eff : Inflight → State → State} (oldest : s.oldestFenced m ring = some f)
    (command : commandOf f.instr = some (info, eff)) (served : s.served m = true) :
    s.fenceEnd m ring = if s.fenceHolds m f.hdr.ring f.id = true then s
      else ({ s with fenced := s.fenced.filter fun y => y.id != f.id } : State).takeCmd
        { id := f.id, hdr := f.hdr, sqHead := f.sqHead, instr := f.instr, cq := f.cq, objs := [] } info eff := by
  cases holds : s.fenceHolds m f.hdr.ring f.id <;> simp [State.fenceEnd, oldest, command, served, holds]

/-! ### O13 -/

/-- Settles O13: the wait begins where the transport brings the command, and ends with FENCE_WAIT_END. -/
theorem fenceWaits : Obligations.FenceWaits := by
  refine ⟨fun c s t h info eff header command host spelt brought waits => ?wait, fun s t ring m f info eff => ?ends⟩
  case wait =>
    rw [exec_of_comes header command host brought, hostCommand_of_comes brought spelt, State.reach_of_fenced waits,
      arrived_nextCmd]
  case ends =>
    intro x oldest command served
    rw [exec_fenceWaitEnd, State.fenceEnd_of_oldest oldest command served]

end Sys2Proof.Machine
end

section
/-! PROOFS. DISABLE, ENABLE, UNIT_RESET and SELF_TEST (R304 to R307, R338, R341, Tables 13-8 and 13-9), O23 and O24. -/

namespace Sys2Proof.Machine

open Sys2Proof.Safety

/-! ### The state of a unit (R304) -/

section Unit

variable {F : Nat} {s s' : State}

/-- An operation that leaves the ports alone leaves their data paths in their states. -/
theorem Keeps.unitOf_port (k : Keeps F s s') (apart : F.testBit (Part.idx .ports) = false) (index : Nat) :
    s'.unitOf 1 index = s.unitOf 1 index :=
  congrArg Port.unit (State.prt_congr (k.same .ports apart) index)

/-- An operation that leaves the Comet engine alone leaves it in its state. -/
theorem Keeps.unitOf_comet (k : Keeps F s s') (apart : F.testBit (Part.idx .comet) = false) (index : Nat) :
    s'.unitOf 2 index = s.unitOf 2 index :=
  (k.same .comet apart).1

/-- An operation that leaves groups, ports and the Comet engine alone leaves every unit in its state. -/
theorem Keeps.unitOf (k : Keeps F s s') (groups : F.testBit (Part.idx .groups) = false)
    (ports : F.testBit (Part.idx .ports) = false) (comet : F.testBit (Part.idx .comet) = false) (type index : Nat) :
    s'.unitOf type index = s.unitOf type index := by
  have groups : s'.groups = s.groups := k.same .groups groups
  have grp : s'.grp index = s.grp index := by rw [State.grp, State.grp, groups]
  have prt : s'.prt index = s.prt index := State.prt_congr (k.same .ports ports) index
  rw [State.unitOf, State.unitOf, grp, prt, (k.same .comet comet).1]

end Unit

/-- The report of a unit's new state. -/
theorem keeps_report (s : State) (data : List Byte) :
    Keeps 0xa0100820 s (s.logEvent 0x0180 noUnit noUnit 0 data).judgeAll :=
  keeps_judgeAll (by decide) (keeps_logEvent (by decide) .rfl ..)

/-- A unit is in the state that was set. -/
theorem State.setUnit_unitOf (s : State) (type index : Nat) (u : UnitState) :
    (s.setUnit type index u).unitOf type index = u := by
  unfold State.setUnit
  dsimp only
  split
  · assumption
  · rw [(keeps_report _ _).unitOf rfl rfl rfl]
    unfold State.unitOf
    split_ifs <;> simp [State.modGrp, State.modPrt]

/-! ### What DISABLE begins (Table 13-9), O24 -/

/-- The state in which DISABLE leaves a unit. -/
def UnitState.disabling (old : UnitState) (abort : Bool) : UnitState :=
  if abort || old == .aborting then .aborting else .draining

theorem UnitState.disabling_eq (old : UnitState) (abort : Bool) :
    old.disabling abort = if abort = true ∨ old = .aborting then .aborting else .draining := by
  simp [UnitState.disabling]

/-- A port's data path that begins to abort closes its streams. -/
theorem keeps_startDisable_port (s : State) (index : Nat) (abort : Bool) :
    Keeps 0xa0141a70 (s.setUnit 1 index ((s.unitOf 1 index).disabling abort)) (s.startDisable 1 index abort) := by
  unfold State.startDisable
  dsimp only
  rw [if_neg (by decide), if_pos rfl]
  exact Keeps.ite (Keeps.foldl (fun s n => keeps_closeForPort (Sub.refl _) .rfl n) _ _ .rfl) .rfl

/-- A Comet engine that begins to abort gives up its swaps, exports and imports. -/
theorem keeps_startDisable_comet (s : State) (index : Nat) (abort : Bool) :
    Keeps 0x9a0741a70 (s.setUnit 2 index ((s.unitOf 2 index).disabling abort)) (s.startDisable 2 index abort) := by
  unfold State.startDisable
  dsimp only
  rw [if_neg (by decide), if_neg (by decide)]
  refine Keeps.ite (keeps_abortTransfers (Sub.refl _) (Keeps.foldl (fun s g => ?_) _ _ (Keeps.ite ?_ .rfl))) .rfl
  · exact keeps_requestSwaps (by decide) (keeps_abandonSwaps (by decide) .rfl g) g
  · exact keeps_failSwapHolds (by decide) .rfl

/-- Settles O24: what follows the change of state leaves the ports, and the Comet engine, alone. -/
theorem disableSetsTheUnitsState : Obligations.DisableSetsTheUnitsState := by
  intro s index abort
  simp only [← UnitState.disabling_eq]
  constructor
  · rw [(keeps_startDisable_port s index abort).unitOf_port rfl, State.setUnit_unitOf]
  · rw [(keeps_startDisable_comet s 0 abort).unitOf_comet rfl, State.setUnit_unitOf]

/-! ### The commands' own effects -/

section Effects

variable {s : State} {type index : Nat} (i : Inflight)

section Disable

variable {abort : Bool}

theorem effDisable_of_homing (homing : (type = 0 ∨ type = 3) ∧ 0 < s.sHomed index) :
    effDisable type index abort i s = s.failCmd i.id stStreamBusy := if_pos homing

variable (free : ¬ ((type = 0 ∨ type = 3) ∧ 0 < s.sHomed index))

include free

theorem effDisable_of_working
    (u : s.unitOf type index = .enabled ∨ s.unitOf type index = .draining ∨ s.unitOf type index = .aborting) :
    effDisable type index abort i s = (s.startDisable type index abort).actCmd i.id := by
  rw [effDisable, if_neg free]
  rcases u with u | u | u <;> rw [u]

theorem effDisable_of_down (u : s.unitOf type index = .disabled ∨ s.unitOf type index = .off) :
    effDisable type index abort i s = s.finish i.id stSuccess [] := by
  rw [effDisable, if_neg free]
  rcases u with u | u <;> rw [u]

theorem effDisable_of_resetting (u : s.unitOf type index = .resetting) :
    effDisable type index abort i s = s.waitCmd i.id := by
  rw [effDisable, if_neg free, u]

end Disable

section Enable

theorem effEnable_of_held (held : s.unitHeld type index = true) :
    effEnable type index i s = s.failCmd i.id stDisabled := if_pos held

variable (free : s.unitHeld type index = false)

include free

theorem effEnable_of_disabled (u : s.unitOf type index = .disabled) : effEnable type index i s =
    (((s.setUnit type index .enabled).takeUp type index).resumeUnit type index).finish i.id stSuccess [] := by
  rw [effEnable, if_neg (ne_true_of_eq_false free), u]

theorem effEnable_of_off (u : s.unitOf type index = .off) : effEnable type index i s =
    ((s.setReset type index false false).beginUnitReset type index).waitCmd i.id := by
  rw [effEnable, if_neg (ne_true_of_eq_false free), u]

theorem effEnable_of_enabled (u : s.unitOf type index = .enabled) :
    effEnable type index i s = s.finish i.id stSuccess [] := by
  rw [effEnable, if_neg (ne_true_of_eq_false free), u]

theorem effEnable_of_reset (u : s.unitOf type index = .resetting
      ∨ ((s.unitOf type index = .draining ∨ s.unitOf type index = .aborting) ∧ s.resetAfter type index = true)) :
    effEnable type index i s = s.waitCmd i.id := by
  rw [effEnable, if_neg (ne_true_of_eq_false free)]
  rcases u with u | ⟨u | u, after⟩ <;> rw [u]
  all_goals exact if_pos after

theorem effEnable_of_draining (u : s.unitOf type index = .draining ∨ s.unitOf type index = .aborting)
    (after : s.resetAfter type index = false) : effEnable type index i s =
      ((((s.finishAll (s.unitCmds type index fun j => j.isDisable && !j.waiting) stCancelled []).setUnit type index
        .enabled).resumeUnit type index)).finish i.id stSuccess [] := by
  rw [effEnable, if_neg (ne_true_of_eq_false free)]
  rcases u with u | u <;> rw [u] <;> exact if_neg (ne_true_of_eq_false after)

end Enable

section Reset

variable {off : Bool}

theorem effUnitReset_of_held (held : s.unitHeld type index = true) :
    effUnitReset type index off i s = s.failCmd i.id stDisabled := if_pos held

variable (free : s.unitHeld type index = false)

include free

theorem effUnitReset_of_busy (busy : (type = 0 ∧ (s.grp index).retiring.isSome = true)
      ∨ s.unitOf type index = .resetting ∨ s.resetAfter type index = true) :
    effUnitReset type index off i s = s.waitCmd i.id := by
  rw [effUnitReset, if_neg (ne_true_of_eq_false free), if_pos busy]

variable (idle : ¬ ((type = 0 ∧ (s.grp index).retiring.isSome = true)
  ∨ s.unitOf type index = .resetting ∨ s.resetAfter type index = true))

include idle

theorem effUnitReset_of_now (now : s.unitOf type index = .disabled ∨ s.unitOf type index = .off ∨ type = 1) :
    effUnitReset type index off i s =
      (((s.finishAll (s.unitCmds type index fun j => j.isDisable && !j.waiting) stSuccess []).setReset type index false
        off).beginUnitReset type index).actCmd i.id := by
  rw [effUnitReset, if_neg (ne_true_of_eq_false free), if_neg idle, if_pos now]

theorem effUnitReset_of_later (later : ¬ (s.unitOf type index = .disabled ∨ s.unitOf type index = .off ∨ type = 1)) :
    effUnitReset type index off i s = ((s.setReset type index true off).startDisable type index true).actCmd i.id := by
  rw [effUnitReset, if_neg (ne_true_of_eq_false free), if_neg idle, if_neg later]

end Reset

section Test

variable {g c : Nat}

theorem effSelfTest_of_no_cluster (absent : s.clusterCount ≤ c) :
    effSelfTest g c i s = s.failCmd i.id stInvalidParam := if_pos absent

variable (one : c < s.clusterCount)

include one

theorem effSelfTest_of_down (down : (s.grp g).unit ≠ .enabled) : effSelfTest g c i s = s.failCmd i.id stDisabled := by
  rw [effSelfTest, if_neg (Nat.not_le.2 one), if_pos down]

theorem effSelfTest_of_enabled (up : (s.grp g).unit = .enabled) :
    effSelfTest g c i s = s.queueTests g ((s.grp g).phys c)
      [.pass 1, .pass 2, .pass 3, .pass 4, .pass 5, .pass 6, .pass 7, .pass 8] false [i.id] := by
  rw [effSelfTest, if_neg (Nat.not_le.2 one), if_neg (not_not.2 up)]
  rfl

end Test

end Effects

/-! ### O23 -/

/-- Settles O23, command by command from its own effect. -/
theorem unitCommandsAct : Obligations.UnitCommandsAct := by
  intro s t h
  refine ⟨fun type index abort k => ?disable, fun type index k => ?enable, fun type index off k => ?reset,
    fun g c k => ?test⟩
  case disable =>
    intro x
    rw [exec_of_executes (eff := effDisable type index abort) rfl k]
    refine ⟨fun homing => ?_, fun free => ⟨fun u => ?_, fun u => ?_, fun u => ?_⟩⟩
    · rw [effDisable_of_homing _ homing, entryOf_id]
    · rw [effDisable_of_working _ free u, entryOf_id]
    · rw [effDisable_of_down _ free u, entryOf_id]
    · rw [effDisable_of_resetting _ free u, entryOf_id]
  case enable =>
    intro x
    rw [exec_of_executes (eff := effEnable type index) rfl k]
    refine ⟨fun held => ?_, fun free => ⟨fun u => ?_, fun u => ?_, fun u => ?_, fun u => ?_, fun u after => ?_⟩⟩
    · rw [effEnable_of_held _ held, entryOf_id]
    · rw [effEnable_of_disabled _ free u, entryOf_id]
    · rw [effEnable_of_off _ free u, entryOf_id]
    · rw [effEnable_of_enabled _ free u, entryOf_id]
    · rw [effEnable_of_reset _ free u, entryOf_id]
    · rw [effEnable_of_draining _ free u after, entryOf_id]
  case reset =>
    intro x wait now
    rw [exec_of_executes (eff := effUnitReset type index off) rfl k]
    refine ⟨fun held => ?_, fun free => ⟨fun busy => ?_, fun idle atOnce => ?_, fun idle later => ?_⟩⟩
    · rw [effUnitReset_of_held _ held, entryOf_id]
    · rw [effUnitReset_of_busy _ free busy, entryOf_id]
    · rw [effUnitReset_of_now _ free idle atOnce, entryOf_id]
    · rw [effUnitReset_of_later _ free idle later, entryOf_id]
  case test =>
    intro x
    rw [exec_of_executes (eff := effSelfTest g c) rfl k]
    refine ⟨fun absent => ?_, fun one down => ?_, fun one up => ?_⟩
    · rw [effSelfTest_of_no_cluster _ absent, entryOf_id]
    · rw [effSelfTest_of_down _ one down, entryOf_id]
    · rw [effSelfTest_of_enabled _ one up, entryOf_id]

end Sys2Proof.Machine
end

section
/-! PROOFS. Steps: the command at the front, the idle cycle, and what no step undoes (R357, R374, R383,
95_what_each_step_holds.md), O1, O2, O5, O7 and O8. -/

namespace Sys2Proof.Machine

open Sys2Proof.Safety

theorem step_of_cons {s : State} {c : Instr} {rest : List Instr} (h : s.pending = c :: rest) :
    step s = exec c { s with pending := rest } := by
  rw [step, h]

theorem step_of_nil {s : State} (h : s.pending = []) : step s = .next (s.advance (s.now + 1)) := by
  rw [step, h]
  rfl

/-- Whatever a step is, all that it changes beside the queue, the clock and the outputs is an operation's doing. -/
theorem step_keeps {s s' : State} (e : step s = .next s') :
    ∃ F queue, Keeps F { s with pending := queue, now := s'.now, outs := [] } s' := by
  cases h : s.pending with
  | nil =>
    have idle := Host.Outcome.next.inj ((step_of_nil h).symm.trans e)
    refine ⟨partMask advanceParts, s.pending, ?_⟩
    rw [← idle, advance_now]
    exact keeps_advance s (s.now + 1)
  | cons c rest => exact ⟨_, rest, exec_keeps_all ((step_of_cons h).symm.trans e)⟩

/-- Settles O1. -/
theorem stepTakesFront : Obligations.StepTakesFront := fun _ _ _ h => step_of_cons h

/-- Settles O2: the idle cycle is the passing of time up to the next cycle. -/
theorem emptyQueueTicks : Obligations.EmptyQueueTicks := by
  intro s h
  refine ⟨step_of_nil h, ?_, ?_, fun p hp => same_advance hp s (s.now + 1)⟩
  · rw [advance_now]
    exact max_eq_right (Nat.le_succ s.now)
  · rw [advance_pending, h]

/-- Settles O5: every command reaches a next state within its footprint, and neither clock nor queue are in one. -/
theorem everyCommandAnswers : Obligations.EveryCommandAnswers := by
  intro c s
  obtain ⟨_, s', answer, _⟩ := exec_keeps c s
  exact ⟨s', answer, exec_now_le answer, exec_pending answer⟩

/-- Settles O7. -/
theorem rollbackFloorAndEnrolment : Obligations.RollbackFloorAndEnrolment := by
  intro s s' e
  obtain ⟨_, _, keeps⟩ := step_keeps e
  exact ⟨keeps.boot.svn, keeps.boot.enrolled⟩

/-- Settles O8. -/
theorem journalOnlyGrows : Obligations.JournalOnlyGrows := by
  intro s s' e
  obtain ⟨_, _, keeps⟩ := step_keeps e
  exact keeps.journal

end Sys2Proof.Machine
end

section
/-! PROOFS. The safe-state sequence entry by entry, its causes WATCHDOG and AUTO_DEGRADE (R336, R344 to R348, R369,
R379, R380), O40, and the stop for OVER_TEMP (R322), O43. -/

namespace Sys2Proof.Machine

/-! ### The 1 ms and 2 ms entries (Table 17-4) -/

theorem State.endCommands_life (s : State) : s.endCommands.life = s.life :=
  (keeps_endCommands (Sub.refl _) (.rfl (s := s))).same .life rfl

theorem State.endCommands_safety (s : State) : s.endCommands.safety = s.safety :=
  (keeps_endCommands (Sub.refl _) (.rfl (s := s))).same .safety rfl

theorem State.freezeSet_life (s : State) : s.freezeSet.life = s.life :=
  (keeps_freezeSet (Sub.refl _) (.rfl (s := s))).same .life rfl

theorem State.freezeSet_ownerCmd (s : State) : s.freezeSet.safety.ownerCmd = none := rfl

theorem State.abandonRuns_of_pending {s : State} (pending : s.life.phase = .resetPending) :
    s.abandonRuns.life = { s.life with phase := .abandoned }
      ∧ (s.life.kind = .safeState → s.abandonRuns.safety.ownerCmd = none) := by
  have kind : s.abandonGroups.life.kind = s.life.kind := congrArg Life.kind s.abandonGroups_life
  rw [State.abandonRuns, if_pos pending]
  refine ⟨?_, fun safe => ?_⟩
  · rw [State.endCommands_life]
    dsimp only
    split
    · rw [State.freezeSet_life, State.abandonGroups_life]
    · rw [State.abandonGroups_life]
  · rw [State.endCommands_safety]
    dsimp only
    rw [if_pos (kind.trans safe), State.freezeSet_ownerCmd]

/-- What the main domains lose as they enter reset; LPDDR6 is in self-refresh in a safe-state sequence alone (R346). -/
theorem State.enterReset_content (s : State) :
    s.enterReset.life.phase = .inReset ∧ s.enterReset.life.epoch = (s.life.epoch + 1) % 256
      ∧ s.enterReset.life.ready = false ∧ s.enterReset.owner = State.reset.owner ∧ s.enterReset.streams = []
      ∧ s.enterReset.images = [] ∧ s.enterReset.inflight = []
      ∧ s.enterReset.mem = if s.life.kind = .safeState then s.mem else [] := by
  have mem : s.enterReset.mem = if s.life.kind == .safeState then s.mem else [] := rfl
  refine ⟨rfl, rfl, rfl, rfl, rfl, rfl, rfl, mem.trans ?_⟩
  simp only [beq_iff_eq]

/-! ### The 320 ms, 380 ms and 400 ms entries (Table 15-8) -/

theorem State.writeBackSettings_cfg (s : State) (x : SafetySet) : (s.writeBackSettings x).cfg = x.cfg :=
  (Keeps.foldl (F := 0x800000) (fun _ _ => keeps_modPrt (Sub.refl _) .rfl _ _) x.ports _ .rfl).same .cfg rfl

theorem State.writeBackSettings_life (s : State) (x : SafetySet) : (s.writeBackSettings x).life = s.life :=
  (keeps_writeBackSettings (Sub.refl _) (.rfl (s := s)) x).same .life rfl

/-- The images that are restored after the settings change neither these nor the life cycle. -/
theorem State.hashImages_of_hashing {s : State} (decayed : List Nat) (hashing : s.life.phase = .hashing) :
    (s.hashImages decayed).life.phase = .reopening
      ∧ ∀ y, s.safety.set = some y → (s.hashImages decayed).cfg = y.cfg := by
  have restored (l : List (Nat × Image)) (z : State) : Keeps 0x8000e000 z
      (l.foldl (fun s e => if s.restorable decayed e.1 e.2 then s.restoreImage e.1 e.2 else s) z) := by
    refine Keeps.foldl (fun z e => ?_) l z .rfl
    split
    · exact keeps_restoreImage (Sub.refl _) .rfl e.1 e.2
    · exact .rfl
  rw [State.hashImages, if_pos hashing]
  cases set : s.safety.set with
  | none =>
    dsimp only
    exact ⟨by rw [set], fun y h => by cases h⟩
  | some y =>
    dsimp only
    rw [set]
    refine ⟨?_, fun z h => ?_⟩
    · rw [(restored _ _).same .life rfl, State.writeBackSettings_life]
    · rw [(restored _ _).same .cfg rfl, State.writeBackSettings_cfg, Option.some.inj h]

theorem State.reopenStreams_of_reopening {s : State} (reopening : s.life.phase = .reopening) :
    s.reopenStreams.life.phase = .resuming ∧ s.reopenStreams.safety.set = none := by
  rw [State.reopenStreams, if_pos reopening]
  cases set : s.safety.set with
  | none =>
    dsimp only
    rw [set]
    exact ⟨rfl, set⟩
  | some x =>
    dsimp only
    rw [set]
    refine ⟨?_, rfl⟩
    exact congrArg Life.phase ((keeps_reopenAll (Sub.refl _) .rfl x).same .life rfl)

theorem State.becomeReady_isReady (s : State) : s.becomeReady.isReady = true := by
  have life : s.becomeReady.life = { s.life with phase := .ready, ready := true } := by
    unfold State.becomeReady
    dsimp only
    split
    · rfl
    · exact (keeps_raiseInts (Sub.refl _) .rfl _).same .life rfl
  rw [State.isReady, life]
  rfl

theorem State.becomeReady_safety (s : State) : s.becomeReady.safety = s.safety :=
  (keeps_becomeReady (Sub.refl _) (.rfl (s := s))).same .safety rfl

theorem State.logSafe_safety (s : State) (cause what notResumed reason : Nat) :
    (s.logSafe cause what notResumed reason).safety = s.safety :=
  (keeps_logSafe (Sub.refl _) (.rfl (s := s)) cause what notResumed reason).same .safety rfl

theorem State.logSafe_repair (s : State) (cause what notResumed reason : Nat) :
    (s.logSafe cause what notResumed reason).repair = s.repair :=
  (keeps_logSafe (Sub.refl _) (.rfl (s := s)) cause what notResumed reason).same .repair rfl

/-- With a start that did not fail the sequence ends in a device that is ready (R348). -/
theorem State.resume_of_resuming {s : State} (resuming : s.life.phase = .resuming)
    (serves : s.repair.startFail = false) :
    s.resume.isReady = true ∧ s.resume.safety = { s.safety with
      seq := false, safeStates := min 0xFFFFFFFF (s.safety.safeStates + 1), lastCause := s.safety.cause } := by
  rw [State.resume, if_pos resuming]
  dsimp only
  rw [if_neg (by rw [State.logSafe_repair, serves]; exact Bool.false_ne_true)]
  exact ⟨State.becomeReady_isReady _, by rw [State.becomeReady_safety, State.logSafe_safety]⟩

/-! ### Causes of a safe state (R336, R344, R369) -/

theorem State.life_of_isReady {s : State} (h : s.isReady = true) : s.life.phase = .ready := by
  simp only [State.isReady, Bool.and_eq_true, beq_iff_eq] at h
  exact h.1

/-- What a cause sets in a device that is ready: the sequence begins with its reset, and the safety set is taken. -/
theorem State.safeCause_starts {s : State} (cause reason : Nat) (ready : s.isReady = true)
    (free : s.safety.seq = false) :
    let z := s.safeCause cause reason
    z.life.phase = .resetPending ∧ z.life.kind = .safeState ∧ z.life.ready = false ∧ z.life.seqAt = s.now
      ∧ z.safety.seq = true ∧ z.safety.cause = cause ∧ z.safety.set.isSome = true := by
  intro z
  have begins : z = (s.beginReset .safeState cause).beginSeq cause reason :=
    State.safeCause_of_ready cause reason (State.life_of_isReady ready) free
  rw [begins]
  exact ⟨rfl, rfl, rfl, rfl, rfl, rfl, rfl⟩

theorem State.safeCause_repair (s : State) (cause reason : Nat) : (s.safeCause cause reason).repair = s.repair :=
  (keeps_safeCause (Sub.refl _) (.rfl (s := s)) cause reason).same .repair rfl

/-- The state in which an expiry of an armed watchdog becomes a cause: counted and logged. -/
def State.noteExpiry (s : State) (core : Nat) : State :=
  ({ s with repair := { s.repair with watchdogExpiries := s.repair.watchdogExpiries + 1 } } : State).logEvent 0x0005
    noUnit noUnit 0 (leBytes 1 core)

theorem State.watchdog_of_armed {s : State} (core : Nat) (armed : s.life.armed = true) :
    s.watchdog core = (s.noteExpiry core).safeCause 3 0 := if_pos armed

theorem State.noteExpiry_keeps (s : State) (core : Nat) :
    Keeps 0x80000000
      { s with repair := { s.repair with watchdogExpiries := s.repair.watchdogExpiries + 1 } } (s.noteExpiry core) :=
  keeps_logEvent (Sub.refl _) .rfl _ _ _ _ _

theorem State.noteExpiry_isReady (s : State) (core : Nat) : (s.noteExpiry core).isReady = s.isReady := by
  have life : (s.noteExpiry core).life = s.life := (s.noteExpiry_keeps core).same .life rfl
  rw [State.isReady, State.isReady, life]

/-- Settles O40, entry by entry and then for each cause. -/
theorem safeStateEvents : Obligations.SafeStateEvents := by
  intro s t x started
  refine ⟨fun pending => ?abandon, fun abandoned => ?reset, fun decayed hashing => ?hash, fun reopening => ?reopen,
    fun resuming serves => ?resume, fun core armed => ?watchdog, fun ready free due => ?degrade⟩
  case abandon =>
    obtain ⟨life, ended⟩ := State.abandonRuns_of_pending pending
    exact ⟨x.abandonRuns, rfl, by rw [life], by rw [life], ended⟩
  case reset => exact ⟨x.enterReset, congrArg Host.Outcome.next (if_pos abandoned), x.enterReset_content⟩
  case hash => exact ⟨x.hashImages decayed, rfl, State.hashImages_of_hashing decayed hashing⟩
  case reopen => exact ⟨x.reopenStreams, rfl, State.reopenStreams_of_reopening reopening⟩
  case resume =>
    obtain ⟨ready, safety⟩ := State.resume_of_resuming resuming serves
    exact ⟨x.resume, rfl, ready, by rw [safety], by rw [safety], by rw [safety]⟩
  case watchdog =>
    have noted := x.noteExpiry_keeps core
    refine ⟨x.watchdog core, rfl, ?_, fun ready free => ?_⟩ <;> rw [State.watchdog_of_armed core armed]
    · rw [State.safeCause_repair, noted.same .repair rfl]
    · have free' : (x.noteExpiry core).safety.seq = false := by rw [noted.same .safety rfl]; exact free
      have starts := State.safeCause_starts 3 0 ((x.noteExpiry_isReady core).trans ready) free'
      rw [noted.now] at starts
      exact starts
  case degrade =>
    have acts : x.autoDegrade = x.safeCause 4 0 := if_pos (by rw [ready, due]; rfl)
    exact ⟨x.autoDegrade, rfl, by rw [acts]; exact State.safeCause_starts 4 0 ready free⟩

/-! ### Over-temperature (R321, R322) -/

theorem overTemp_iff {before now : List Nat} : overTemp before now = true ↔
    ∃ k, k < before.length ∧ k < now.length ∧ 105 ≤ before.getD k 0 ∧ 105 ≤ now.getD k 0 := by
  simp only [overTemp, List.any_eq_true, List.mem_iff_getElem, List.length_zip, lt_min_iff, List.getElem_zip,
    Bool.and_eq_true, decide_eq_true_eq]
  constructor
  · rintro ⟨_, ⟨k, ⟨hb, hn⟩, rfl⟩, first, second⟩
    refine ⟨k, hb, hn, ?_, ?_⟩
    · rwa [List.getD_eq_getElem _ _ hb]
    · rwa [List.getD_eq_getElem _ _ hn]
  · rintro ⟨k, hb, hn, first, second⟩
    rw [List.getD_eq_getElem _ _ hb] at first
    rw [List.getD_eq_getElem _ _ hn] at second
    exact ⟨_, ⟨k, ⟨hb, hn⟩, rfl⟩, first, second⟩

/-- The readings as the device stores them, before any stop for them. -/
def State.storeReadings (s : State) (readings : List Nat) : State :=
  (List.range 48).foldl (fun s g => s.modGrp g fun G => { G with junction := readings.getD g 0 })
    { s with power :=
      { s.power with
        sensorsBefore := s.power.sensors, sensors := readings, sensorNo := (s.now - s.life.pupAt) / sensorCycles } }

theorem State.storeReadings_keeps (s : State) (readings : List Nat) :
    Keeps 0x40000
      { s with power :=
        { s.power with
          sensorsBefore := s.power.sensors, sensors := readings, sensorNo := (s.now - s.life.pupAt) / sensorCycles } }
      (s.storeReadings readings) :=
  Keeps.foldl (fun _ g => keeps_modGrp (Sub.refl _) .rfl g _) _ _ .rfl

theorem State.storeReadings_life (s : State) (readings : List Nat) : (s.storeReadings readings).life = s.life :=
  (s.storeReadings_keeps readings).same .life rfl

theorem State.storeReadings_sensors (s : State) (readings : List Nat) :
    (s.storeReadings readings).power.sensors = readings := by
  rw [(s.storeReadings_keeps readings).same .power rfl]

theorem State.sensorRead_of_due {s : State} (readings : List Nat) (up : s.standbyUp = true)
    (due : (s.now - s.life.pupAt) % 25000 = 0) (next : s.power.sensorNo < (s.now - s.life.pupAt) / 25000) :
    s.sensorRead readings =
      if overTemp s.power.sensors readings then (s.storeReadings readings).declareStop 2
      else s.storeReadings readings :=
  if_pos (by simp [up, sensorCycles, due, next])

theorem State.declareStop_power (s : State) (cause : Nat) : (s.declareStop cause).power = s.power :=
  (keeps_declareStop (Sub.refl _) (.rfl (s := s)) cause).same .power rfl

/-- In a device at work that is not stopping, a declaration leaves it stopped. -/
theorem State.declareStop_isStopped {s : State} (cause : Nat) (up : s.standbyUp = true) (going : s.isStopped = false)
    (on : s.life.phase ≠ .off) : (s.declareStop cause).isStopped = true := by
  obtain ⟨-, -, -, phase⟩ := State.declareStop_of_works cause up going on
  rw [State.isStopped, phase]
  cases s.controlUp <;> rfl

/-- Settles O43: the verdict of R322 decides whether the readings, once stored, stop the device. -/
theorem sensorTrip : Obligations.SensorTrip := by
  intro s t l x hot up on going due next
  have read := State.sensorRead_of_due l up due next
  refine ⟨x.sensorRead l, rfl, ?_, fun h => ?_, fun h => ?_⟩ <;> rw [read]
  · split
    · rw [State.declareStop_power, State.storeReadings_sensors]
    · rw [State.storeReadings_sensors]
  · have life := x.storeReadings_life l
    have up' : (x.storeReadings l).standbyUp = true := by rw [State.standbyUp, life]; exact up
    have going' : (x.storeReadings l).isStopped = false := by rw [State.isStopped, life]; exact going
    have on' : (x.storeReadings l).life.phase ≠ .off := by rw [life]; exact on
    obtain ⟨cause, ready, since, -⟩ := State.declareStop_of_works 2 up' going' on'
    rw [(x.storeReadings_keeps l).now] at since
    rw [if_pos (overTemp_iff.2 h)]
    exact ⟨State.declareStop_isStopped 2 up' going' on', cause, since, ready⟩
  · rw [if_neg fun trips => h (overTemp_iff.1 trips), State.storeReadings_life]

end Sys2Proof.Machine
end

section
/-! PROOFS. Keys, enrolment, attestation and the update of firmware and Vigil slots (R374 to R376, R381 to R392), O15,
O25 and O26. -/

namespace Sys2Proof.Machine

/-! ### FW_QUERY (R384) -/

theorem leBytes_length (n v : Nat) : (leBytes n v).length = n := by
  induction n generalizing v with
  | zero => rfl
  | succ n ih => rw [leBytes, List.length_cons, ih]

/-- The fields of a RESULT that follow one another without a gap from byte `o` on. -/
def fieldsFrom : Nat → List (List Byte) → List (Nat × List Byte)
  | _, [] => []
  | o, v :: vs => (o, v) :: fieldsFrom (o + v.length) vs

/-- Bytes written where the zero bytes begin push their beginning back. -/
theorem patch_zeros (l v : List Byte) (n : Nat) :
    patch (l ++ List.replicate n 0) l.length v = (l ++ v) ++ List.replicate (n - v.length) 0 := by
  simp [patch, List.drop_append]

theorem foldl_patch_fieldsFrom (vs : List (List Byte)) : ∀ (l : List Byte) (n : Nat),
    (fieldsFrom (12 + l.length) vs).foldl (fun l f => patch l (f.1 - 12) f.2) (l ++ List.replicate n 0) =
      l ++ vs.flatten ++ List.replicate (n - vs.flatten.length) 0 := by
  induction vs with
  | nil => simp [fieldsFrom]
  | cons v vs ih =>
    intro l n
    have next : 12 + l.length + v.length = 12 + (l ++ v).length := by rw [List.length_append, Nat.add_assoc]
    rw [fieldsFrom, List.foldl_cons, Nat.add_sub_cancel_left, patch_zeros, next, ih]
    simp [Nat.sub_sub]

/-- A RESULT without gaps is its fields, made up with zero bytes. -/
theorem resultOf_fieldsFrom (vs : List (List Byte)) :
    resultOf (fieldsFrom 12 vs) = vs.flatten ++ List.replicate (20 - vs.flatten.length) 0 :=
  foldl_patch_fieldsFrom vs [] 20

/-- The figures of Table 17-5 leave no gap, and 4 zero bytes at the end. -/
theorem resultOf_fwFigures (running flags fuse svn a b vigil : Nat) :
    resultOf [(12, leBytes 1 running), (13, leBytes 1 flags), (14, leBytes 1 fuse), (15, leBytes 1 svn),
        (16, leBytes 4 a), (20, leBytes 4 b), (24, leBytes 4 vigil)] =
      leBytes 1 running ++ leBytes 1 flags ++ leBytes 1 fuse ++ leBytes 1 svn ++ leBytes 4 a ++ leBytes 4 b
        ++ leBytes 4 vigil ++ leBytes 4 0 := by
  have fields := resultOf_fieldsFrom [leBytes 1 running, leBytes 1 flags, leBytes 1 fuse, leBytes 1 svn, leBytes 4 a,
    leBytes 4 b, leBytes 4 vigil]
  have zeros : leBytes 4 0 = [0, 0, 0, 0] := by decide
  simpa [fieldsFrom, leBytes_length, zeros] using fields

/-- VERSION of the Vigil slot in use, where one is. -/
theorem State.vigilPkg_version (s : State) : (s.vigilPkg.map (·.version)).getD 0 =
    if s.vigil.imageValid then
      ((if s.boot.vigilSlotB then s.boot.vigilB else s.boot.vigilA).map (·.version)).getD 0
    else 0 := by
  unfold State.vigilPkg Boot.vigil
  cases s.vigil.imageValid <;> rfl

/-- Settles O15. -/
theorem fwQueryAnswers : Obligations.FwQueryAnswers := by
  intro s t h k x b
  rw [exec_of_executes (eff := effFwQuery) rfl k, effFwQuery, entryOf_id, resultOf_fwFigures, State.vigilPkg_version]
  rfl

/-! ### KEY_LOAD, KEY_CLEAR, KEY_ENROL and ATTEST -/

section Keys

variable {s : State} {slot : Nat} (i : Inflight)

section Load

variable {kind : Nat} {l : List Byte} (empty : s.keyAt slot = none) (link : s.hif.linkUp = true)

include empty link

theorem effKeyLoad_of_refused (refused : blobKey kind (pad 192 l) = none) :
    effKeyLoad slot kind 192 (some l) i s = s.failCmd i.id stKeyInvalid := by
  rw [effKeyLoad, if_neg (by simp [keyBlobBytes, empty]), State.hostData_of_link l keyBlobBytes link]
  simp only [keyBlobBytes, refused]

theorem effKeyLoad_of_key {key : List Byte} (unwraps : blobKey kind (pad 192 l) = some key) :
    effKeyLoad slot kind 192 (some l) i s =
      ({ s with keys := tput none s.keys slot (some ⟨kind, key⟩) } : State).finish i.id stSuccess [] := by
  rw [effKeyLoad, if_neg (by simp [keyBlobBytes, empty]), State.hostData_of_link l keyBlobBytes link]
  simp only [keyBlobBytes, unwraps]

end Load

theorem effKeyClear_of_empty (empty : s.keyAt slot = none) : effKeyClear slot i s = s.finish i.id stSuccess [] :=
  if_pos (by rw [empty]; rfl)

variable (full : s.keyAt slot ≠ none)

include full

theorem effKeyClear_of_full : effKeyClear slot i s =
    if s.keyNamed slot then s.failCmd i.id stImageBusy
    else if s.keyInUse slot then s.waitCmd i.id
    else (s.dropKey slot).finish i.id stSuccess [] := if_neg (by simpa using full)

theorem effKeyClear_of_named (named : s.keyNamed slot = true) : effKeyClear slot i s = s.failCmd i.id stImageBusy := by
  rw [effKeyClear_of_full i full, if_pos named]

variable (free : s.keyNamed slot = false)

include free

theorem effKeyClear_of_used (used : s.keyInUse slot = true) : effKeyClear slot i s = s.waitCmd i.id := by
  rw [effKeyClear_of_full i full, if_neg (ne_true_of_eq_false free), if_pos used]

theorem effKeyClear_of_unused (unused : s.keyInUse slot = false) :
    effKeyClear slot i s = (s.dropKey slot).finish i.id stSuccess [] := by
  rw [effKeyClear_of_full i full, if_neg (ne_true_of_eq_false free), if_neg (ne_true_of_eq_false unused)]

end Keys

theorem effKeyEnrol_of_sound {s : State} {l : List Byte} (i : Inflight) (fresh : s.boot.enrolled = false)
    (link : s.hif.linkUp = true) (sound : hssKeyOk (pad 60 l) = true) :
    effKeyEnrol 60 (some l) i s = ({ s with boot := { s.boot with
      enrolledKey := pad 60 l, keyHash := sha256 (pad 60 l), enrolled := true } } : State).finish i.id stSuccess
      [] := by
  rw [effKeyEnrol, if_neg (ne_true_of_eq_false fresh), if_neg (by simp [enrolBytes]),
    State.hostData_of_link l enrolBytes link]
  exact if_neg (by simp [enrolBytes, sound])

theorem effAttest_of_room {s : State} {nonce : BitVec 128} {dest len : Nat} (i : Inflight) (place : dest ≠ 0)
    (room : (s.attestReport nonce).length + 96 + Config.certChain.length ≤ len) :
    let r := s.attestReport nonce
    effAttest nonce dest len i s =
      (({ s with free := s.free + 1 } : State).hostWrite dest
        (r ++ ecdsaSign identityKey (Config.random s.free % (p384n - 1) + 1) (sha384 r) ++ Config.certChain)).finish
        i.id stSuccess (resultOf [(12, leBytes 4 r.length), (16, leBytes 4 Config.certChain.length)]) :=
  if_neg (by simp [place, room])

/-- Settles O25, command by command from its own effect. -/
theorem keyCommandsAct : Obligations.KeyCommandsAct := by
  intro s t h
  refine ⟨fun slot kind addr l k => ?load, fun slot k => ?clear, fun addr l k => ?enrol,
    fun nonce dest len k => ?attest⟩
  case load =>
    intro x empty link
    rw [exec_of_executes (eff := effKeyLoad slot kind 192 (some l)) rfl k]
    cases blob : blobKey kind (pad 192 l) with
    | none => rw [effKeyLoad_of_refused _ empty link blob, entryOf_id]
    | some key => rw [effKeyLoad_of_key _ empty link blob, entryOf_id]
  case clear =>
    intro x
    rw [exec_of_executes (eff := effKeyClear slot) rfl k]
    refine ⟨fun empty => ?_, fun full => ⟨fun named => ?_, fun free used => ?_, fun free unused => ?_⟩⟩
    · rw [effKeyClear_of_empty _ empty, entryOf_id]
    · rw [effKeyClear_of_named _ full named, entryOf_id]
    · rw [effKeyClear_of_used _ full free used, entryOf_id]
    · rw [effKeyClear_of_unused _ full free unused, entryOf_id, State.dropKey]
  case enrol =>
    intro x fresh link sound
    rw [exec_of_executes (eff := effKeyEnrol 60 (some l)) rfl k, effKeyEnrol_of_sound _ fresh link sound, entryOf_id]
  case attest =>
    intro x r place room
    rw [exec_of_executes (eff := effAttest nonce dest len) rfl k, effAttest_of_room _ place room, entryOf_id]

/-! ### FW_WRITE, FW_WRITE_DONE and FW_ACTIVATE -/

section Write

variable {s : State} {len : Nat} {l : List Byte} (i : Inflight) (idle : s.boot.job = none) (link : s.hif.linkUp = true)

include idle link

theorem effFwWrite_of_bad (bad : s.verifyUpdate (pad len l) = .bad) :
    effFwWrite len (some l) i s = s.failCmd i.id stFwInvalid := by
  rw [effFwWrite, if_neg (by simp [idle]), State.hostData_of_link l len link]
  simp only [bad]

/-- A package that verifies is on its way into its slot, which is erased (R381). -/
theorem effFwWrite_of_verified (good : s.verifyUpdate (pad len l) ≠ .bad) :
    effFwWrite len (some l) i s = { s with boot := s.boot.beginWrite i.id (s.verifyUpdate (pad len l)) } := by
  rw [effFwWrite, if_neg (by simp [idle]), State.hostData_of_link l len link]
  cases update : s.verifyUpdate (pad len l) with
  | bad => exact absurd update good
  | firmware p | vigil p => simp only [update]

end Write

/-- A slot that is written holds what was written. -/
theorem Boot.setFw_fw_self (b : Boot) (slotB : Bool) (p : Option FwPkg) : (b.setFw slotB p).fw slotB = p := by
  cases slotB <;> rfl

theorem Boot.setVigil_vigil_self (b : Boot) (slotB : Bool) (p : Option VigilPkg) :
    (b.setVigil slotB p).vigil slotB = p := by
  cases slotB <;> rfl

theorem Boot.setFw_rest (b : Boot) (slotB : Bool) (p : Option FwPkg) :
    (b.setFw slotB p).job = b.job ∧ (b.setFw slotB p).fwWrites = b.fwWrites := by
  cases slotB <;> exact ⟨rfl, rfl⟩

theorem Boot.setVigil_job (b : Boot) (slotB : Bool) (p : Option VigilPkg) : (b.setVigil slotB p).job = b.job := by
  cases slotB <;> rfl

theorem Boot.endWrite_of_firmware {j : FwJob} {p : FwPkg} (b : Boot) (h : j.firmware = some p) :
    b.endWrite j = b.setFw j.slotB (some p) ∧ j.figures = (p.version, p.svn) := by
  simp [Boot.endWrite, FwJob.figures, h]

theorem Boot.endWrite_of_vigil {j : FwJob} {p : VigilPkg} (b : Boot) (other : j.firmware = none)
    (h : j.vigil = some p) :
    b.endWrite j = { b.setVigil j.slotB (some p) with vigilPending := true } ∧ j.figures = (p.version, 0) := by
  simp [Boot.endWrite, FwJob.figures, other, h]

section WriteDone

variable {s : State} {j : FwJob} (job : s.boot.job = some j) (up : s.firmwareUp = true ∨ s.life.phase = .recovery)

include job up

theorem State.fwWriteDone_of_failed : s.fwWriteDone false =
    ({ s with boot := { s.boot with job := none, fwWrites := s.boot.fwWrites + 1 } } : State).finish j.cmd stFwInvalid
      [] := by
  simp only [State.fwWriteDone, job]
  exact if_pos (by simpa using up)

theorem State.fwWriteDone_of_verified : s.fwWriteDone true =
    ({ s with boot := ({ s.boot with job := none, fwWrites := s.boot.fwWrites + 1 } : Boot).endWrite j } : State).finish
      j.cmd stSuccess (resultOf [(12, leBytes 4 j.figures.1), (16, leBytes 2 j.figures.2)]) := by
  simp only [State.fwWriteDone, job]
  exact if_pos (by simpa using up)

end WriteDone

theorem effFwActivate_of_running {s : State} {slot : Nat} (i : Inflight) (runs : s.boot.running = slot)
    (settled : s.boot.trial = false) : effFwActivate slot i s = s.finish i.id stSuccess [] :=
  if_pos ⟨runs, by rw [settled]; rfl⟩

theorem effFwActivate_of_other {s : State} {slot : Nat} (i : Inflight) (other : s.boot.running ≠ slot)
    (ok : s.boot.fwOk (slot == 1) = true) : effFwActivate slot i s =
      ({ s with boot := { s.boot with markedB := slot == 1, trial := true } } : State).finish i.id stSuccess [] := by
  rw [effFwActivate, if_neg fun h => other h.1, if_neg (by simp [ok])]

/-- Settles O26, command by command, the end of a write by what was written. -/
theorem updateCommandsAct : Obligations.UpdateCommandsAct := by
  intro s t h
  refine ⟨fun addr len l k => ?write, fun j => ?done, fun slot k => ?activate⟩
  case write =>
    intro x idle link
    rw [exec_of_executes (eff := effFwWrite len (some l)) rfl k]
    cases update : x.verifyUpdate (pad len l) with
    | bad => rw [effFwWrite_of_bad _ idle link update, entryOf_id]
    | firmware p | vigil p =>
      rw [effFwWrite_of_verified _ idle link (by rw [update]; nofun), entryOf_id, update]
  case done =>
    intro x job up
    have verified : exec (.fwWriteDone t true) s = .next _ :=
      congrArg Host.Outcome.next (State.fwWriteDone_of_verified job up)
    refine ⟨congrArg Host.Outcome.next (State.fwWriteDone_of_failed job up), fun p firmware => ?_,
      fun p other vigil => ?_⟩
    · obtain ⟨ends, figures⟩ := Boot.endWrite_of_firmware
        ({ x.boot with job := none, fwWrites := x.boot.fwWrites + 1 } : Boot) firmware
      rw [ends, figures] at verified
      obtain ⟨idle, writes⟩ := Boot.setFw_rest ({ x.boot with job := none, fwWrites := x.boot.fwWrites + 1 } : Boot)
        j.slotB (some p)
      exact ⟨_, verified, Boot.setFw_fw_self .., idle, writes⟩
    · obtain ⟨ends, figures⟩ := Boot.endWrite_of_vigil
        ({ x.boot with job := none, fwWrites := x.boot.fwWrites + 1 } : Boot) other vigil
      rw [ends, figures] at verified
      exact ⟨_, verified, Boot.setVigil_vigil_self .., rfl, Boot.setVigil_job ..⟩
  case activate =>
    intro x
    rw [exec_of_executes (eff := effFwActivate slot) rfl k]
    refine ⟨fun runs settled => ?_, fun other ok => ?_⟩
    · rw [effFwActivate_of_running _ runs settled, entryOf_id]
    · rw [effFwActivate_of_other _ other ok, entryOf_id]

end Sys2Proof.Machine
end
